-- ==== Sys2Proof/Word.lean ====
section
/-! DEFINITION. The word types of the bus, of memory bytes and of table data, and the plainest bit helpers over them. -/
namespace Sys2Proof

/-- One byte of host data, of a table or of HBM. -/
abbrev Byte := BitVec 8

/-- A 32-bit word on the register bus (R15). -/
abbrev Word := BitVec 32

/-- Bits [lo+w-1 : lo] of a number. -/
def bits (x lo w : Nat) : Nat := x / 2 ^ lo % 2 ^ w

/-- Bit i of a number. -/
def bit (x i : Nat) : Bool := x / 2 ^ i % 2 == 1

/-- A Bool as a bit. -/
def b2n (b : Bool) : Nat := if b then 1 else 0

/-- x with bit i set. -/
def setBit (x i : Nat) : Nat := if bit x i then x else x + 2 ^ i

/-- x with bit i clear. -/
def clrBit (x i : Nat) : Nat := if bit x i then x - 2 ^ i else x

/-- Two's complement value of a w-bit number. -/
def signed (w x : Nat) : Int := if x % 2 ^ w < 2 ^ (w - 1) then ((x % 2 ^ w : Nat) : Int) else ((x % 2 ^ w : Nat) : Int) - 2 ^ w

/-- The w-bit two's complement code of an integer. -/
def unsigned (w : Nat) (x : Int) : Nat := (x % (2 ^ w : Int)).toNat

end Sys2Proof
end

