-- ==== Sys2Proof/Syntax.lean ====
section
/-! DEFINITION. The commands that the block takes, one constructor per row of the table of operations and events, with the
operands that arrive from outside the part: addresses and data of the register bus, descriptors and host data, cells,
frames, measured values, and the errors that a memory or a link met. DESIGN CHOICE:
log entry 6. -/
namespace Sys2Proof

/-- What the host programs in the configuration space of the function (R338): Bus Master Enable, the codes of Max Payload Size and Max
Read Request Size (128 bytes times 2 to the code), Enable Relaxed Ordering, and MSI-X Enable with the Function Mask. -/
structure PciCfg where
  bme : Bool
  mps : Nat
  mrrs : Nat
  relaxed : Bool
  msixEn : Bool
  msixMask : Bool
  deriving DecidableEq, Repr

/-- A request that waits at a Cloister master port (R365, R376): its address, direction, beats and ID; for a write the byte enables of
each beat, bit j for byte j; the erroneous symbols that the read of each codeword written in part finds, by codeword of the
burst (R370); whether it names a table memory of a domain that is OFF or in DRAIN (R382); and the Cloister clocks since it entered
the port. -/
structure PortRequest where
  master : Nat
  addr : Nat
  write : Bool
  beats : Nat
  rid : Nat
  enables : List Nat
  errs : List Nat
  dead : Bool
  waited : Nat
  deriving DecidableEq, Repr

/-- The bytes that a read of BAR0 names: its offset and its length. -/
structure ReadSpan where
  off : Nat
  len : Nat
  deriving DecidableEq, Repr

/-- One beat of a DMA transfer as it is answered (R360): `err` is none without error, else whether the error is on the device side;
`bytes` is what a read of the host returned. -/
structure BeatAnswer where
  beat : Nat
  err : Option Bool
  bytes : List Byte
  deriving DecidableEq, Repr

/-- A PPS pulse (R292): where its edge falls against the nearest second of the timebase, in units of 2^-16 ns, and how long it stays high,
in ns. -/
structure PpsPulse where
  pos : Int
  width : Nat
  deriving DecidableEq, Repr

/-- What the continuous adaptation of an UP lane has reached (R96): the gain code and the twelve DFE taps. -/
structure Adaptation where
  vga : Nat
  taps : List Int
  deriving DecidableEq, Repr

/-- What the receiver of an Ethernet port found with a frame: whether its FCS is right, and the codewords since the frame before that it
corrected, and those that it found uncorrectable (Table 15-9). -/
structure RxCheck where
  fcsOk : Bool
  corrected : Nat
  uncorrectable : Nat
  deriving DecidableEq, Repr

/-- What a fault does in one run of a Pavilion (R162, R165): it changes a component, or the tally count, of a cell where the residue
checker does not follow (`value`, `count`); it changes the samples or valid bits before the cell, which MAC and checker share
(`input`, `inputCount`); it changes the checker alone; it leaves a word of the image uncorrectable, or corrected. -/
inductive PavFaultKind where
  | value (imag : Bool) (delta : Int)
  | count (delta : Int)
  | input (imag : Bool) (delta : Int)
  | inputCount (delta : Int)
  | checker
  | word
  | corrected
  deriving DecidableEq, Repr

/-- A fault met by the run of a physical Pavilion in one stream, at cell 32 r + s. -/
structure PavFault where
  pav : Nat
  cell : Nat
  kind : PavFaultKind
  deriving DecidableEq, Repr

/-- What the streams of the Pavilions met: the faults of the runs that begin (R162, R165), and the clocks that Pavilions waited for the
broadcast (R158) since the last such command, as (k, clocks). -/
structure StreamMet where
  faults : List PavFault
  waits : List (Nat × Nat)
  deriving DecidableEq, Repr

/-- Why a lane leaves UP (Table 4-7): its signal or its clock lock is lost, or 8 consecutive codewords were uncorrectable. -/
inductive LaneLoss where
  | signal
  | clock
  | codewords
  deriving DecidableEq, Repr


/-- A command of the block: one constructor per row of the table of operations and events, each with its rule and the operands that
come from outside the part. -/
inductive Instr where
  /-- COLD_RESET (R64): A power-on or COLD_RESET_N held low for at least 10 µs resets all three planes; HBM contents become undefined. -/
  | coldReset
  /-- COLD_RESET_RELEASE (R69): COLD_RESET_N rises; internal initialisation begins and every power domain powers up and is tested. -/
  | coldResetRelease
  /-- POWER_ON_DETECT (R408): VDD_CORE or VDD_IO falls below its power-on threshold for 1 µs or more, and the power-on detector holds a cold reset. Whether VDD_IO is removed. -/
  | powerOnDetect (io : Bool)
  /-- WARM_RESET (R66): PERST_N is asserted; the control plane resets, and the data plane also resets unless DATA_KEEP is set. -/
  | warmReset
  /-- PERST_RELEASE (R69): PERST_N is released and the PCIe link trains. The operands are the link that training reached and the configuration that the host programs. -/
  | perstRelease (speed width : Nat) (cfg : PciCfg)
  /-- FUNCTION_LEVEL_RESET (R68): A PCIe FLR resets the control plane and ends DMA descriptors in flight without a completion; the data plane keeps running. The configuration as the host programs it afterwards. -/
  | functionLevelReset (cfg : PciCfg)
  /-- DATA_RESET (R67): A write of GLOBAL_DATA_RESET.DATA_RESET stops the data plane at once and discards the work in flight. -/
  | dataReset (data : Word)
  /-- DP_INIT_COMPLETE (R63): Internal initialisation completes; the data plane moves from RESET to IDLE and its S fields become writable. -/
  | dpInitComplete
  /-- POWER_UP_REQUEST (R74): A write of POWER_DOM[d].REQ = 1 to an OFF domain switches in its supply and moves it to RAMP. -/
  | powerUpRequest (d : Fin 44)
  /-- POWER_DOWN_REQUEST (R71): A write of POWER_DOM[d].REQ = 0 either starts DRAIN, is refused with IN_USE_REFUSED, or returns a FAILED domain to OFF. -/
  | powerDownRequest (d : Fin 44)
  /-- SUPPLY_SETTLED (R74): The supply of a ramping domain settles; isolation is released and the known-answer self-test starts. -/
  | supplySettled (d : Fin 44)
  /-- DOMAIN_SELFTEST_DONE (R74): A domain's self-test ends; the domain enters ON with the DOMAIN_ON event, or enters FAILED with SELFTEST_FAIL set. -/
  | domainSelftestDone (d : Fin 44) (pass : Bool)
  /-- DRAIN_COMPLETE (R72): The descriptors and blocks of a draining domain finish; the domain is isolated, switched OFF, and raises DOMAIN_DOWN. -/
  | drainComplete (d : Fin 44)
  /-- SUPPLY_MEASURE (R407): The 1 ms supply measurement updates BELV_VMON; a second consecutive out-of-range reading raises the SUPPLY fault. The eight readings in mV. -/
  | supplyMeasure (mv : List Nat)
  /-- TEMPERATURE_SAMPLE (R373): The 1 ms read of the die and stack sensors updates the temperature registers, halves or restores refresh, and may set the TEMP alert. The eight die and eight stack readings in °C. -/
  | temperatureSample (die stack : List Int)
  /-- THERM_TRIP (R420): A die sensor reaches 105 °C and THERM_TRIP_N is driven low and latched. -/
  | thermTrip (sensor : Fin 8) (temp : Int)
  /-- REGISTER_WRITE (R19): A BAR0 write to a register that has no row of its own is applied under the field classes; a partial or reserved write is ignored and flagged. `be`: the four byte enables of the word; `poisoned`: R340. -/
  | registerWrite (off : Nat) (data : Word) (be : Nat) (poisoned : Bool)
  /-- RC_READ (R18): A read of an RC field returns its value and clears it to its reset value. -/
  | rcRead (span : ReadSpan)
  /-- LO_READ_CAPTURE (R16): A read of a _LO register captures bits [63:32] into the read holding register and sets its flag. -/
  | loReadCapture (off : Nat)
  /-- LO_WRITE_HOLD (R16): A write of a _LO register stores its value in the write holding register and sets its flag. -/
  | loWriteHold (off : Nat) (data : Word)
  /-- HI_WRITE_COMBINE (R16): A write of a _HI register writes the full 64-bit value in one step, combining it with the held or present bits [31:0]. -/
  | hiWriteCombine (off : Nat) (data : Word)
  /-- ERR_W1C_CLEAR (R24): A W1C write to a <UNIT>_ERR register clears bits; when the register becomes zero, <UNIT>_ERR_FIRST is released and FAULT_N may rise. -/
  | errW1cClear (off : Nat) (data : Word)
  /-- SD_TIME_NS_READ (R301): A read of SD_TIME_NS latches SEC and FRAC so that the timebase can be read as one coherent value. -/
  | sdTimeNsRead
  /-- SD_CAPQ_NS_READ (R310): A read of SD_CAPQ_NS removes the oldest capture-queue entry and latches its other fields. -/
  | sdCapqNsRead
  /-- ETH_TSQ_NS_READ (R333): A read of ETH_TSQ_NS removes the oldest transmit-timestamp entry and latches its other fields. -/
  | ethTsqNsRead (p : Fin 4)
  /-- FC_WIN_DATA_READ (R368): A read of FC_WIN_DATA returns the fuse word at FC_WIN_ADDR and increments the address. -/
  | fcWinDataRead
  /-- GLH_TRAIN_DATA_WRITE (R368): A write of GLH_TRAIN_DATA stores a tap or Vref word at GLH_TRAIN_ADDR and increments the address. -/
  | glhTrainDataWrite (data : Word)
  /-- BAR2_COUNTER_READ (R391): A read of a counter group in BAR2 returns the counter, or 0 when the group is not enabled; a 4-byte low read latches the upper half. `wide`: an aligned 8-byte read. -/
  | bar2CounterRead (off : Nat) (wide : Bool)
  /-- INDEX_POLL (R342): At each POLL interval the Kiosk reads the HOST_IDX words of the index page, and halts any ring whose indices are inconsistent. The twelve HOST_IDX words read. -/
  | indexPoll (hostIdx : List Nat)
  /-- WAKE (R342): A write of KIOSK_WAKE.WAKE polls the index page at once, or once more after a poll already in flight. -/
  | wake (data : Word)
  /-- RING_ENABLE (R345): A write that sets KIOSK_RING_CFG[r].EN from 0 to 1 takes the ring's S fields and sets and writes DEV_IDX = 0. -/
  | ringEnable (r : Fin 12) (data : Word)
  /-- RING_DISABLE (R345): A write of EN = 0 stops the ring at its next descriptor boundary; unstarted transmit descriptors complete with STOPPED. -/
  | ringDisable (r : Fin 12) (data : Word)
  /-- NOP (R347): The NOP command completes with no other effect once every earlier command has completed. -/
  | nop (desc : List Byte)
  /-- LOAD_TABLE (R349): The LOAD_TABLE command writes entries of one table bank by DMA, atomically, after its checks. `answers`: the beats answered with it. -/
  | loadTable (desc : List Byte) (answers : List BeatAnswer)
  /-- READ_TABLE (R349): The READ_TABLE command copies entries of a table bank to host memory. `answers`: the beats answered with it. -/
  | readTable (desc : List Byte) (answers : List BeatAnswer)
  /-- LOAD_REGION (R350): The LOAD_REGION command writes host bytes into an HBM region. `answers`: the beats answered with it. -/
  | loadRegion (desc : List Byte) (answers : List BeatAnswer)
  /-- READ_REGION (R350): The READ_REGION command copies bytes of an HBM region to host memory as a rung-5 read. `answers`: the beats answered with it. -/
  | readRegion (desc : List Byte) (answers : List BeatAnswer)
  /-- COMMIT_EPOCH (R352): A plain COMMIT_EPOCH is checked in order, captures the shadow copies and arms an epoch at a target FSI or time. -/
  | commitEpoch (desc : List Byte)
  /-- COMMIT_EPOCH_START (R55): A COMMIT_EPOCH with START, accepted while IDLE, arms the first epoch of a run and moves the data plane to ARMED. -/
  | commitEpochStart (desc : List Byte)
  /-- COMMIT_EPOCH_STOP (R63): A COMMIT_EPOCH with STOP arms the end of the run at a target boundary. -/
  | commitEpochStop (desc : List Byte)
  /-- COMMIT_EPOCH_CANCEL (R62): A COMMIT_EPOCH with CANCEL disarms the armed epoch if its target still lies beyond the horizon. -/
  | commitEpochCancel (desc : List Byte)
  /-- DUMP_NOW (R192): The DUMP_NOW command sets DUMP_PENDING so that an integration end is due at the next eligible cycle boundary. -/
  | dumpNow (desc : List Byte)
  /-- DESCRIPTOR_FETCH (R361): An IDLE DMA channel with a descriptor available fetches it and becomes ACTIVE, preempting lower-class channels as needed. `fetched` false: the fetch of the descriptor failed. -/
  | descriptorFetch (c : Fin 32) (desc : List Byte) (fetched : Bool)
  /-- DMA_BEAT_RESPONSE (R360): A beat of a DMA transfer is answered; once every beat of the descriptor is answered, its status is decided. `err`: none without error, else whether the error is on the device side; `bytes`: what a read of the host returned; `bad`, `badTally`: the values and tally counts of a dump whose read was uncorrectable (R211). -/
  | dmaBeatResponse (c : Fin 32) (beat : Nat) (err : Option Bool) (bytes : List Byte) (bad badTally : List Nat)
  /-- DMA_STOP (R361): A write of DMA_CH_CTL[c].STOP stops the channel at its next descriptor boundary. -/
  | dmaStop (c : Fin 32)
  /-- DMA_RESTART (R361): A write of DMA_CH_CTL[c].RESTART returns a STOPPED or HALTED channel to IDLE. -/
  | dmaRestart (c : Fin 32)
  /-- MSIX_MODERATION_EXPIRE (R346): The MOD interval of a ring expires and one MSI-X message covers the index advances made within it. -/
  | msixModerationExpire (r : Fin 12)
  /-- EVENT_RECORD_WRITE (R28): The event ring has room and the oldest queued event is written to it, preceded by EVENTS_LOST when events were lost. -/
  | eventRecordWrite
  /-- PCIE_LINK_DOWN (R340): The PCIe data link layer goes down; the DMA channels pause and the data plane continues. -/
  | pcieLinkDown
  /-- PCIE_LINK_UP (R340): The PCIe data link returns without a reset and the DMA channels resume. -/
  | pcieLinkUp (speed width : Nat)
  /-- PCIE_LINK_FAULT (R286): The PCIe link has been out of L0 for more than 1 ms, and the Lodge sets LODGE_ERR.PCIE_LINK. -/
  | pcieLinkFault
  /-- D3HOT_ENTER (R340): The function enters D3hot; the Kiosk issues no requests and each DMA channel pauses at its next beat. -/
  | d3hotEnter
  /-- D0_RETURN (R340): The function returns to D0 and the DMA channels resume from their paused beats. -/
  | d0Return
  /-- PPS_EDGE (R292): A PPS edge of a time-bearing reference marks NS = 0, displaced by its delay, and may align the phase in ACQUIRE. -/
  | ppsEdge (r : Fin 4) (pulse : PpsPulse)
  /-- PHASE_JUMP_DETECT (R293): The phase-jump detector sees a reference edge displaced by more than PJ_THR and disqualifies the reference. The size of the jump in ps. -/
  | phaseJumpDetect (r : Fin 4) (ps : Nat)
  /-- REF_ACTIVITY_LOSS (R293): No reference or PPS edge has arrived within its limit; the reference is disqualified and the selection, switch or holdover follows. Whether the clock edges stopped, or the PPS edges. -/
  | refActivityLoss (r : Fin 4) (clock : Bool)
  /-- REF_FREQ_MEASURE (R293): The 100 ms frequency measurement updates SD_REF_FREQ and disqualifies a reference that lies outside FREQ_WIN. The measured offset in parts per 10^12. -/
  | refFreqMeasure (r : Fin 4) (freq : Int)
  /-- REF_QUALIFY (R293): A reference's qualification timer reaches QUAL_TIME, the reference becomes qualified, and the selection is re-evaluated. -/
  | refQualify (r : Fin 4)
  /-- SD_REF_CFG_WRITE (R293): A write of SD_REF_CFG[r] restarts the qualification of reference r and acts on the selection as a disqualification. -/
  | sdRefCfgWrite (r : Fin 4) (data : Word)
  /-- WTR_EXPIRE (R296): The wait-to-restore timer expires and Sundial reverts to the better reference, or does so when the slew in progress completes. -/
  | wtrExpire
  /-- SLEW_COMPLETE (R298): The remaining slew offset reaches zero and SLEWING clears. -/
  | slewComplete
  /-- LOCK_ACHIEVED (R297): The phase error has stayed within LOCK_THR for 1 s and Sundial enters LOCKED. -/
  | lockAchieved
  /-- PHASE_ERR_UPDATE (R315): At each timebase millisecond SD_PHASE_ERR is updated. The phase error against the selected reference in ps, but for what remains of a slew. -/
  | phaseErrUpdate (err : Int)
  /-- VIRT_FREQ_WRITE (R304): A write of SD_VIRT_FREQ steers the virtual reference and renews its heartbeat. -/
  | virtFreqWrite (data : Word)
  /-- VIRT_TIMEOUT (R304): SD_VIRT_FREQ has not been written for TIMEOUT seconds and VIRT loses its activity. -/
  | virtTimeout
  /-- TOD_SET (R302): A write of SD_TOD_SET schedules SEC for the next second, or is refused with TOD_REFUSED unless the data plane is RESET or IDLE. The _HI word. -/
  | todSet (data : Word)
  /-- STEP_GO (R303): A write of SD_STEP_CTL.GO applies the phase step in SD_STEP as a slew or as a jump. -/
  | stepGo (data : Word)
  /-- TIMED_EVENT_ARM (R308): A write of SD_EV_CTL[e].ARM arms a slot; a slot whose time has already passed fires at once and is marked LATE. -/
  | timedEventArm (e : Fin 64) (data : Word)
  /-- TIMED_EVENT_FIRE (R307): An armed slot's time is reached; it pulses its pins, performs its ACTION, raises TIMED_EVENT, and disarms or advances by PERIOD. -/
  | timedEventFire (e : Fin 64)
  /-- TIME_IN_EDGE (R310): An accepted TIME_IN edge is stamped into the capture queue, or is counted in SD_CAP_DROP when the queue is full. The pulse width in ns, for the glitch filter. -/
  | timeInEdge (p : Fin 4) (rising : Bool) (width : Nat)
  /-- TIMEBASE_SECOND (R49): The timebase reaches NS = 0; SECOND-class fields take effect and any pending TOD_SET is applied. -/
  | timebaseSecond
  /-- KAT_TICK (R280): At each 10 ms timebase tick a known-answer pass becomes due for every free spare, and an unfinished pass counts as overdue. -/
  | katTick
  /-- KAT_PASS_DONE (R281): A known-answer pass ends in an idle interval with a verdict; a failure counts as a rejection and may lead to retirement. -/
  | katPassDone (k : Fin 136) (pass : Bool)
  /-- HEALTH_RECORD (R287): Every 100 ms of the timebase the Lodge issues a health record to the event queue and the management plane. -/
  | healthRecord
  /-- LATE_TWIN_HOLD_EXPIRE (R93): A second passes without a late twin, and INGEST coverage may return. -/
  | lateTwinHoldExpire
  /-- SRAM_SCRUB (R285): The background scrub reads and corrects an on-die memory word, and handles an uncorrectable word as Table 13-3 states. `mem`: the row of Table 13-3. -/
  | sramScrub (mem index : Nat) (uncorr : Bool)
  /-- SIGNAL_DETECT (R101): Signal is detected on a lane in SIGNAL_WAIT, the lane enters CDR and the training timer starts. -/
  | signalDetect (k : Fin 64)
  /-- CDR_LOCK (R101): Clock recovery locks within ±200 ppm and the lane enters ADAPT. The offset in units of 0.1 ppm. -/
  | cdrLock (k : Fin 64) (ppm : Int)
  /-- ADAPT_DONE (R96): The CTLE setting is chosen and the DFE has converged; the lane enters TX_TRAIN. The CTLE setting, the gain code and the twelve DFE taps. -/
  | adaptDone (k : Fin 64) (ctle vga : Nat) (taps : List Int)
  /-- TXEQ_REQUEST_EVAL (R100): The 200 µs evaluation of a transmitter-equalisation request ends, and the next request is issued or TX_TRAIN ends. The next request (pre, post) that the evaluation leads to; none when neither cursor improves the eye. -/
  | txeqRequestEval (k : Fin 64) (request : Option (Nat × Nat))
  /-- TSTAT_RECEIVE (R100): A TSTAT block from the F-engine reports the request it applied and its cursor indices. -/
  | tstatReceive (k : Fin 64) (reqNum pre post status : Nat)
  /-- TXEQ_TIMEOUT (R100): No matching TSTAT has arrived for 1 ms; TX_TRAIN ends with TXEQ_TIMEOUT set. -/
  | txeqTimeout (k : Fin 64)
  /-- TX_TRAIN_DONE (R100): Transmitter training completes and the lane enters CW_LOCK. -/
  | txTrainDone (k : Fin 64)
  /-- CODEWORD_DECODE (R83): An RS(544,514) codeword of a lane is decoded, its blocks are passed on, and codeword lock and the FEC counters are updated. The boundary at which it was found, its 2,720 PAM4 levels as received, and what the adaptation has reached. -/
  | codewordDecode (k : Fin 64) (boundary : Nat) (levels : List Nat) (eq : Adaptation)
  /-- LANE_DOWN (R101): An UP lane loses its signal or clock lock, or sees 8 consecutive uncorrectable codewords; it leaves UP, is counted and announced, and sends a burst. -/
  | laneDown (k : Fin 64) (cause : LaneLoss)
  /-- TRAIN_TIMEOUT (R101): The training timer reaches 50 ms and the lane enters TRAIN_FAIL. -/
  | trainTimeout (k : Fin 64)
  /-- TRAIN_FAIL_RETRY (R101): 10 ms after entering TRAIN_FAIL the lane returns to SIGNAL_WAIT. -/
  | trainFailRetry (k : Fin 64)
  /-- RETRAIN (R101): A write of YG_LANE_CTL[k].RETRAIN while IDLE sends the lane to OFF and restarts its training. -/
  | retrain (k : Fin 64) (data : Word)
  /-- REPORT_BURST (R98): At each REPORT_INTERVAL an UP lane sends a lane-health report burst on the back-channel. -/
  | reportBurst (k : Fin 64)
  /-- DEGRADE_WINDOW (R103): A 1 ms window of corrected symbols ends; the lane becomes DEGRADED, or clears it after 100 quiet windows. -/
  | degradeWindow (k : Fin 64)
  /-- CELL_RECEIVE (R88): A whole cell ends on a lane and is checked in the order of Table 4-4. `sramBad`: the cell met an uncorrectable word of the Gatehouse input FIFO (R285). -/
  | cellReceive (k : Fin 64) (sramBad : Bool)
  /-- SLICE_WINDOW_EXPIRE (R113): A slice window has been open for W; the slice is released, with its missing slots zero-filled and counted. The channel whose oldest unreleased slice expires. -/
  | sliceWindowExpire (c : Fin 32)
  /-- INGEST_STALL (R117): No slice has been released for GH_STALL.TIMEOUT while RUNNING; STALLED is set and INGEST_STALL is raised. -/
  | ingestStall
  /-- STALL_FILL_RELEASE (R117): During a stall with STALL_FILL = 1, the timebase passes a slice's due time and the slice is released with all slots missing. -/
  | stallFillRelease
  /-- RUN_START (R63): The Gatehouse stream reaches the START target; the data plane enters RUNNING and the first integration begins. -/
  | runStart
  /-- PRISM_SPECTRUM (R137): Once its coarse samples are released, a Prism lane computes, rotates, requantises and stores one fine spectrum with its valid bits. The input and the coarse channel whose next spectrum is computed; `sramBad`: it uses an uncorrectable word (R285). -/
  | prismSpectrum (i : Fin 4096) (c : Fin 32) (sramBad : Bool)
  /-- CHANNEL_BLOCK_FETCH (R157): An Orangery half is released, and the fetch of the next channel block from the corner-turn buffer begins. -/
  | channelBlockFetch
  /-- FETCH_COMPLETE (R157): A channel block and its valid bits are complete in their Orangery half. The input blocks of which a word was returned poisoned. -/
  | fetchComplete (poison : List Nat)
  /-- CHANNEL_BLOCK_BEGIN (R157): The fetch is complete, the previous streams have ended and the previous verdict is known; the channel block begins. -/
  | channelBlockBegin
  /-- BLOCK_SLOT_BEGIN (R166): A block slot starts; the previous slot's images are written and compared, its verdicts are taken, re-runs are assigned and accepted images enter the commit queue. -/
  | blockSlotBegin (met : StreamMet)
  /-- TAIL_STREAM (R168): A short or full tail of the channel block is streamed after the last block slot for pending re-runs or referee runs. -/
  | tailStream (met : StreamMet)
  /-- COMMIT_IMAGE (R180): The commit unit takes the next image of the queue, waits for any overlapping writes, and performs the read-modify-write adds. The cells whose read was uncorrectable, of values and of tallies (R182); `touchBad`: the touch-map word was (R285). -/
  | commitImage (poison tallyPoison : List Nat) (touchBad : Bool)
  /-- COMMIT_RETIRE (R181): Every write of an image is accepted; the image retires, its tile position is freed and the bank's outstanding count falls. -/
  | commitRetire
  /-- CYCLE_BOUNDARY (R31): The cycle-boundary marker arrives and the actions of Table 1-5 run in order. -/
  | cycleBoundary
  /-- BANK_DRAIN_START (R193): A CLOSED bank with no outstanding adds and its fills done enters DRAINING; the Portico fixes its headers and starts the dump. -/
  | bankDrainStart
  /-- PORTICO_FRAME_SEND (R213): A port takes the next Portico frame of a stream dump, and the stream waits while the port cannot take it. The stream, and the values and tally counts whose read was uncorrectable (R211). -/
  | porticoFrameSend (i : Fin 4) (bad badTally : List Nat)
  /-- STREAM_DUMP_COMPLETE (R203): A stream dump is complete on its route, by its last DMA descriptor or its last frame. -/
  | streamDumpComplete (i : Fin 4)
  /-- LENS_FETCH_RETURN (R232): Taper or weight data for a context arrives from HBM, or returns poisoned so that the context loses the channel block. `ahead`: the data is for the next channel block; `wait`: the Lens clocks that the groups waited for it. -/
  | lensFetchReturn (k : Fin 16384) (poisoned ahead : Bool) (wait : Nat)
  /-- LENS_CONTEXT_DONE (R230): The Lens finishes a context for a channel block and delivers its beam samples to the Eyepiece, the Trellis or an HBM ring. `sramBad`: an uncorrectable word of a Lens table or the taper cache (R285); `full`: the samples find no room in the input queue of the Eyepiece (R243), and so those of its Y beam, where the pair is served as two. -/
  | lensContextDone (k : Fin 16384) (sramBad : Bool) (full : Bool × Bool)
  /-- EYE_CYCLE_CLOSE (R241): After the last channel block of a cycle the Eyepiece closes its collapse elements, integrates, filters and runs its detectors. -/
  | eyeCycleClose
  /-- CAPTURE_FORCE (R255): A write of EYE_CAP_CTL.FORCE triggers a forced capture. -/
  | captureForce (data : Word)
  /-- CAPTURE_RELEASE (R256): A write of EYE_CAP_CTL.RELEASE returns a FROZEN capture ring to ROLLING from the next cycle boundary. -/
  | captureRelease (data : Word)
  /-- TRELLIS_DEADLINE (R267): The timebase reaches a unit's deadline; the unit is reduced and forwarded without its absent children, which are counted. The context, fine channel and first FSI of the unit. -/
  | trellisDeadline (k : Fin 16384) (f fsi : Nat)
  /-- ETH_FRAME_RECEIVE (R327): A whole frame is received on a port, checked, and dispatched to the Trellis or the host ring, or dropped. The frame before its FCS, and what the receiver found. -/
  | ethFrameReceive (p : Fin 4) (bytes : List Byte) (check : RxCheck)
  /-- ETH_LINK_DOWN (R318): A port's link goes down; it is counted and LINK_DOWN is raised. -/
  | ethLinkDown (p : Fin 4) (localFault remoteFault hiSer : Bool)
  /-- ETH_LINK_UP (R318): A port's link comes up and LINK_UP is raised. -/
  | ethLinkUp (p : Fin 4)
  /-- ETH_VERIFY_DONE (R324): IEEE 802.3br preemption verification succeeds or fails. -/
  | ethVerifyDone (p : Fin 4) (ok : Bool)
  /-- ETH_TX_FRAME_END (R322): A frame leaves a port, and the port chooses its next frame by class and rung. `sramBad`: the port buffer held an uncorrectable word of the frame (R285). -/
  | ethTxFrameEnd (p : Fin 4) (sramBad : Bool)
  /-- ETH_TX_UNDERRUN (R325): The rest of a preemptable frame does not arrive in time; the frame ends with an inverted FCS, CUR rises and the frame is resent. -/
  | ethTxUnderrun (p : Fin 4)
  /-- EXPRESS_RATE_WINDOW (R323): A new timebase millisecond begins and the express host frame allowance of 256 frames is renewed. -/
  | expressRateWindow
  /-- GLH_ENABLE (R369): A write of GLH_CTL.EN = 1 starts Glasshouse initialisation. -/
  | glhEnable (data : Word)
  /-- GLH_INIT_COMPLETE (R369): Glasshouse initialisation ends; READY is set and any stack that failed the pattern check is declared failed. Bit s: a pseudo-channel of stack s failed the pattern check. -/
  | glhInitComplete (bad : Nat)
  /-- GLH_CLEAR_FAIL (R374): A write of GLH_CTL.CLEAR_FAIL while the data plane is RESET or IDLE clears the stack-failed declarations. -/
  | glhClearFail (data : Word)
  /-- GLH_REGION_WRITE (R366): A write to a region-table entry is applied, or ignored when the entry would be invalid or is in use. The _HI word. -/
  | glhRegionWrite (e : Fin 32) (data : Word)
  /-- CLOISTER_GRANT (R379): A free target-port path is granted to the next burst by refresh, panic, rung and master order. The target port (0 to 63 of the Glasshouse, 64 the table memories, 65 the register fabric), the requests that can take it and those that cannot yet, their write data not being whole or their port having no room for the read (R377), how full the write FIFO and how empty the read FIFO of each real-time port is, in 64ths (R378), and whether the write buffer of the sampler is full. -/
  | cloisterGrant (t : Fin 66) (ready waiting : List PortRequest) (fills empties : List Nat) (bufFull : Bool)
  /-- HBM_READ_RESPONSE (R370): An HBM read returns; symbol errors are corrected, an uncorrectable beat is returned poisoned, and a trace record may be written. The master and ID, the erroneous symbols of each codeword, and the Cloister clocks since the request entered its port. -/
  | hbmReadResponse (m : Fin 11) (rid : Nat) (errs : List Nat) (latency : Nat) (bufFull : Bool)
  /-- MASTER_RESET (R383): A write of CL_MASTER_RST resets a Cloister master, completing its burst empty and discarding its requests. -/
  | masterReset (data : Word)
  /-- HBM_REFRESH (R373): A stack's refresh interval expires and a refresh is issued, postponed, or forced after 4 intervals. The stack, and whether panic traffic holds it. -/
  | hbmRefresh (st : Fin 8) (busy : Bool)
  /-- HBM_SCRUB_ACCESS (R371): The scrub reads a beat and writes back any corrected codeword. The erroneous symbols of the two codewords of the beat. -/
  | hbmScrubAccess (errs : List Nat)
  /-- SCRUB_PERIOD_END (R372): A scrub period ends, and an unfinished pass counts in GLH_SCRUB_LATE. -/
  | scrubPeriodEnd
  /-- CNT_SEL_WRITE (R387): A write that changes BELV_CNT_SEL[n] MODE or SRC clears the counter and selects its new source. -/
  | cntSelWrite (n : Fin 1024) (data : Word)
  /-- CNT_CLEAR (R388): A write of BELV_CNT_SEL[n].CLEAR clears one counter and its SATURATED bit. -/
  | cntClear (n : Fin 1024) (data : Word)
  /-- CLEAR_ALL (R388): A write of BELV_CTL.CLEAR_ALL clears every Belvedere counter. -/
  | clearAll (data : Word)
  /-- COUNTER_FREEZE (R389): A write of BELV_CTL.FREEZE = 1 stops every counter at one timebase instant. -/
  | counterFreeze (data : Word)
  /-- COUNTER_RESUME (R389): A write of FREEZE = 0 resumes every counter at one instant. -/
  | counterResume (data : Word)
  /-- TRACE_ENABLE (R394): A write of BELV_TS_CFG.EN = 1 starts the sampler with WR = 0, or is ignored for an invalid region. -/
  | traceEnable (data : Word)
  /-- EYE_SCAN_START (R396): A write of BELV_EYE_CTL[k].START starts one eye-scan point on an UP lane, or is ignored. -/
  | eyeScanStart (k : Fin 64) (data : Word)
  /-- EYE_SCAN_ABORT (R397): A write of ABORT ends a running scan with ABORTED and the counts reached so far. `errs`: the errors counted so far. -/
  | eyeScanAbort (k : Fin 64) (data : Word) (errs : Nat)
  /-- EYE_SCAN_DONE (R396): A scan point has compared its symbols, and STATE reads DONE. The errors counted. -/
  | eyeScanDone (k : Fin 64) (errs : Nat)
  /-- SMB_DEVICE_ID (R399): The SMBus DEVICE_ID command returns GLOBAL_ID and GLOBAL_REV. -/
  | smbDeviceId
  /-- SMB_STATUS (R399): The SMBus STATUS command returns the summary status word. -/
  | smbStatus
  /-- SMB_ALERT_STATUS (R402): The SMBus ALERT_STATUS command returns BELV_ALERT_STATUS. -/
  | smbAlertStatus
  /-- SMB_ALERT_CLEAR (R402): The SMBus ALERT_CLEAR command clears alert bits, and MGMT_ALERT_N may be released. `pec`: none when the write carries no PEC byte, else whether it is right. -/
  | smbAlertClear (data : Nat) (pec : Option Bool)
  /-- SMB_ALERT_MASK (R402): The SMBus ALERT_MASK command reads or writes BELV_ALERT_MASK. The word of a write, none for a read. -/
  | smbAlertMask (write : Option Nat) (pec : Option Bool)
  /-- SMB_HEALTH (R399): The SMBus HEALTH command returns the latest health record. -/
  | smbHealth
  /-- SMB_TEMP (R399): The SMBus TEMP command returns the die and stack temperatures. -/
  | smbTemp
  /-- SMB_VOLTAGE (R399): The SMBus VOLTAGE command returns the eight supply voltages. -/
  | smbVoltage
  /-- SMB_ERR_SUMMARY (R399): The SMBus ERR_SUMMARY command returns BELV_ERR_SUMMARY. -/
  | smbErrSummary
  /-- SMB_DATA_RESET (R400): The SMBus DATA_RESET command with its key resets the data plane after the STOP condition. -/
  | smbDataReset (key : Nat) (pec : Option Bool)
  /-- SMB_MGMT_RESET (R400): The SMBus MGMT_RESET command with its key resets the management plane after the STOP condition. -/
  | smbMgmtReset (key : Nat) (pec : Option Bool)
  /-- SMB_REG_READ (R401): The SMBus REG_READ command reads a BAR0 register through master 10, with every side effect of a read. The BAR0 offset. -/
  | smbRegRead (off : Nat)
  /-- SMB_ALERT_RESPONSE (R402): An Alert Response Address read is answered with the device's address, and MGMT_ALERT_N is released. -/
  | smbAlertResponse
  /-- SMB_TIMEOUT (R399): SCL stays low for more than 25 ms and the target abandons the transaction. -/
  | smbTimeout
  /-- REF_ACTIVITY_RETURN (R293): Clock or PPS edges return on a reference whose activity was lost, and its qualification timer starts again. Whether clock or PPS edges return. -/
  | refActivityReturn (r : Fin 4) (clock : Bool)
  /-- POWER_ON_RESET_END (R408): 1 ms after VDD_CORE and VDD_IO are again above their power-on thresholds with COLD_RESET_N high, the cold reset held by the power-on detector ends. -/
  | powerOnResetEnd
  /-- MGMT_RESET_COMPLETE (R400): A management reset ends within 10 µs, and SMBus transactions that started during it are acknowledged again. -/
  | mgmtResetComplete
  /-- TIME_OUT_PULSE_END (R307): WIDTH µs after a slot fired, the TIME_OUT pins that it drove high fall, unless an overlapping pulse keeps them high. -/
  | timeOutPulseEnd (p : Fin 4)
  /-- PPM_UPDATE (R95): Every 1 ms each lane's measured frequency offset against its YG_REFCLK is written to YG_LANE_STATUS[k].PPM. The offset measured on each lane, in units of 0.1 ppm. -/
  | ppmUpdate (values : List Int)
  /-- TAP_CLOCK (R421): A TCK edge advances the IEEE 1149.1 test access port; five clocks with TMS high reset the test logic to BYPASS. -/
  | tapClock (tms tdi : Bool)
  /-- TEST_LOGIC_RESET (R421): TRST_N is asserted and the test logic is reset, with BYPASS selected. -/
  | testLogicReset
  deriving DecidableEq, Repr

end Sys2Proof
end

