-- ==== Sys2Proof/Decode.lean ====
section
/-! DEFINITION. The command that a word spells by the bits of the table of operations. -/
namespace Sys2Proof

/-- No row of the table gives its command any bits: each row's list of fields is empty. So no word spells a command.
DESIGN CHOICE: log entry 4. -/
def decodeTableWord (_nbits _w : Nat) : Option Instr := none

end Sys2Proof
end

