-- ==== Sys2Proof/Machine/Num.lean ====
section
/-! DEFINITION. The arithmetic helpers that every chapter uses with one meaning (chapter 0, "Tables, timing and pseudocode"), and
the IEEE 754 conversions, all exact over the integers. -/
namespace Sys2Proof.Machine

/-- p / q rounded to the nearest integer, ties to even, for positive q. -/
def rneDiv (p : Int) (q : Nat) : Int :=
  let f := p / (q : Int)
  let r := 2 * (p - f * q)
  if r < (q : Int) then f else if (q : Int) < r then f + 1 else if f % 2 = 0 then f else f + 1

/-- x / 2^s rounded to the nearest integer, ties to even. -/
def rne (x : Int) (s : Nat) : Int := rneDiv x (2 ^ s)

/-- x clamped to [lo, hi]. -/
def clamp (lo hi x : Int) : Int := if x < lo then lo else if hi < x then hi else x

/-- x clamped to w bits two's complement. -/
def sat (x : Int) (w : Nat) : Int := clamp (-(2 ^ (w - 1))) (2 ^ (w - 1) - 1) x

/-- x clamped symmetrically to w bits. -/
def satSym (x : Int) (w : Nat) : Int := clamp (-(2 ^ (w - 1) - 1)) (2 ^ (w - 1) - 1) x

/-- ceil(p / q) for positive q. -/
def ceilDiv (p : Int) (q : Nat) : Int := -((-p) / (q : Int))

/-- The sign of an integer. -/
def sgn (x : Int) : Int := if x < 0 then -1 else if 0 < x then 1 else 0

end Sys2Proof.Machine
end

