-- ==== Sys2Proof/Config.lean ====
section
/-! DEFINITION. What one part fixes, and the values the spec leaves open. Nothing here has a body that a proof could
evaluate: a claim about any of these holds for every value of it. DESIGN CHOICE: log entry 9. -/
namespace Sys2Proof

/-- GLOBAL_REV.BARE_DIE, fused from the ordering code (R7). -/
opaque Config.bareDie : Nat

/-- FC_SERIAL, the Device Serial Number, fused and different from part to part (R386). -/
opaque Config.serial : Nat

/-- The FUSE_CAL word at a training-window index, fused (R368). -/
opaque Config.fuseWord : Nat → Nat

/-- The free value number n: what the spec leaves undefined after an operation that goes on. Each use takes the next n
from the counter `State.free`. DESIGN CHOICE: log entry 7. -/
opaque Config.freeValue : Nat → Nat

/-- Sign and payload of the quiet NaN that an operation delivers, by the mantissa width of the format: IEEE 754 leaves them
open, and so does the spec. -/
opaque Config.nanPayload : Nat → Nat

/-- The default values of a lane's training (R102): CTLE setting, gain code, the twelve DFE taps, pre-cursor and post-cursor index. -/
opaque Config.eqDefault : Nat → Nat

/-- The length of the test instruction register (R421), at least 2 in IEEE 1149.1. -/
opaque Config.irLength : Nat

/-- The code of the SAMPLE/PRELOAD instruction (R421). -/
opaque Config.sampleCode : Nat

/-- The length of the register that an instruction other than BYPASS puts between TDI and TDO (R421). -/
opaque Config.scanLength : Nat

end Sys2Proof
end

