-- ==== Sys2Proof/Machine/Field.lean ====
section
/-! DEFINITION. What a register field is: where it lies, its width, its class (R19), its access code (R18), its reset value
(R17) and the encodings that its description reserves (R21). -/
namespace Sys2Proof.Machine

/-- Field class and, for a live field, the boundary its description names (R19, R49). `upd`: a field that the VX4096
itself updates as events occur (R20). -/
inductive Cls where
  | S | E | imm | cycle | second | frame | descriptor | upd
  deriving DecidableEq, Repr

/-- Access codes of Table 0-11. -/
inductive Acc where
  | RW | RO | W1C | WO | RC
  deriving DecidableEq, Repr

/-- A register field: copy k of the register lies at `addr + stride * k` for k below `count`; the field is bits
[lo+width-1 : lo] of it. `wide` marks a 64-bit quantity (R16), held whole at its _LO register. -/
structure Fld where
  id : Nat
  addr : Nat
  stride : Nat
  count : Nat
  lo : Nat
  width : Nat
  cls : Cls
  acc : Acc
  wide : Bool := false
  rst : Nat → Nat := fun _ => 0
  ok : Nat → Nat → Bool := fun _ _ => true

/-- A field with no wide, reset or reserved-encoding entry of its own. -/
@[reducible] def fld (id addr stride count lo width : Nat) (cls : Cls) (acc : Acc) : Fld :=
  { id := id, addr := addr, stride := stride, count := count, lo := lo, width := width, cls := cls, acc := acc }

/-- A binary32 code that is a NaN. -/
def isNaN32 (v : Nat) : Bool := bits v 23 8 == 255 && bits v 0 23 != 0

end Sys2Proof.Machine
end

