-- ==== Sys2Proof/Machine/Tab.lean ====
section
/-! DEFINITION. Sparse tables: what an unlisted key holds is said by the reader of the table. Used for the register file and
for every numbered group of like things (lanes, slots, rings, channels), so that the state after reset lists nothing. -/
namespace Sys2Proof.Machine

/-- A sparse table from keys to values. A key is listed at most once by `Tab.put`. -/
abbrev Tab (κ α : Type) := List (κ × α)

/-- The value listed for a key. -/
def Tab.find {κ α : Type} [DecidableEq κ] : Tab κ α → κ → Option α
  | [], _ => none
  | (k', v) :: t, k => if k' = k then some v else Tab.find t k

/-- The value of a key, with what an unlisted key holds. -/
def Tab.getD {κ α : Type} [DecidableEq κ] (t : Tab κ α) (k : κ) (d : α) : α := (Tab.find t k).getD d

/-- The table with one key's value replaced. -/
def Tab.put {κ α : Type} [DecidableEq κ] : Tab κ α → κ → α → Tab κ α
  | [], k, v => [(k, v)]
  | (k', v') :: t, k, v => if k' = k then (k, v) :: t else (k', v') :: Tab.put t k v

/-- The table with one key unlisted. -/
def Tab.del {κ α : Type} [DecidableEq κ] (t : Tab κ α) (k : κ) : Tab κ α := t.filter fun e => decide (e.1 ≠ k)

/-- The register file: values keyed by field and copy; an unlisted entry holds the field's reset value. -/
abbrev Regs := Tab (Nat × Nat) Nat

/-- The value of copy k of a field in a register file. -/
def Regs.rd (r : Regs) (f : Fld) (k : Nat) : Nat := Tab.getD r (f.id, k) (f.rst k)

/-- The register file with copy k of a field set, truncated to its width. -/
def Regs.wr (r : Regs) (f : Fld) (k v : Nat) : Regs := Tab.put r (f.id, k) (v % 2 ^ f.width)

/-- The register file with the fields of an id range returned to their reset values, but for the ids kept. -/
def Regs.clear (r : Regs) (lo hi : Nat) (keep : List Nat) : Regs :=
  r.filter fun e => decide (e.1.1 < lo ∨ hi ≤ e.1.1) || keep.contains e.1.1

end Sys2Proof.Machine
end

