-- ==== Sys2Proof/Machine/StateAcc.lean ====
section
/-! DEFINITION. The hidden state of accumulation: cycles, the flags that wait for their cycle, and what each bank holds beside
its registers (chapter 8). Plain data. -/
namespace Sys2Proof.Machine

/-- One bank beside its registers: the cycle at which its integration began, the cycles it holds as (first, count) runs, its INTEG_NUM
once closed, the images tagged for it and not yet retired, the preload image region and tally region when it is preloaded, the
block positions and tally positions touched, the epoch fields of its last cycle and the M of its first, the time of its START_FSI
under the anchor table in force at its close (Table 9-2),
the sources in SOURCE_RATE and the first suspect FSI
that its dump reports, and whether a tally count has saturated (R187). -/
structure BankSt where
  firstCycle : Nat := 0
  num : Nat := 0
  outstanding : Nat := 0
  preload : Option Nat := none
  preTally : Option Nat := none
  touched : List Nat := []
  touchedTally : List Nat := []
  rateSrcs : Nat := 0
  suspect : Option Nat := none
  epochRegs : List ((Nat × Nat) × Nat) := []
  epochM : Nat := 0
  startTb : Int := 0
  tallySat : Bool := false
  deriving DecidableEq, Repr

/-- Accumulation beside its registers: the cycle in progress (cycles count from the start of the run), the cycle at which the
epoch in force began, flags that wait for their cycle (R194) and for the first integration after a gap (R94), the losses that wait for
their cycle as (cycle, source entry), losses already announced for an integration (R121, R29), the uncommitted cycles of the gap and the bank closed at its begin, whether the first integration of the epoch has
begun (R197), and the banks. -/
structure AccSt where
  cyc : Nat := 0
  epochCyc : Nat := 0
  pendFlags : Tab Nat Nat := []
  nextFlags : Nat := 0
  lossPend : List (Nat × Nat) := []
  lossDone : List (Nat × Nat) := []
  gapCycles : Nat := 0
  lastClosed : Nat := 0
  preloadDone : Bool := false
  banks : Tab Nat BankSt := []
  deriving DecidableEq, Repr

end Sys2Proof.Machine
end

