-- ==== Sys2Proof/Machine/RegMap.lean ====
section
/-! DEFINITION. The register map: one constant per field of every register of BAR0, from the register tables of the
chapters (the table or rule stands beside each register). `F.<REGISTER>.<FIELD>`; a 64-bit quantity is one field at
its _LO register (R16); a sticky <UNIT>_ERR register is one field `BITS`, and `Err.<UNIT>.<NAME>` are its bit
numbers (R24). -/
namespace Sys2Proof.Machine

def Err.GLOBAL.EPOCH_REJECTED : Nat := 1
def Err.GLOBAL.CFG_IGNORED : Nat := 0
def Err.KIOSK.LINK_DOWN : Nat := 4
def Err.KIOSK.DESC_FETCH : Nat := 3
def Err.KIOSK.IDX_ERR : Nat := 2
def Err.KIOSK.PARTIAL_WR : Nat := 1
def Err.KIOSK.CFG_IGNORED : Nat := 0
def Err.DMA.BUS_ERROR : Nat := 2
def Err.DMA.BEAT_ERR : Nat := 1
def Err.DMA.CFG_IGNORED : Nat := 0
def Err.CL.REG_DECODE : Nat := 2
def Err.CL.DECODE_HANG : Nat := 1
def Err.CL.CFG_IGNORED : Nat := 0
def Err.GLH.SCRUB_UNCORR : Nat := 3
def Err.GLH.UNCORR : Nat := 2
def Err.GLH.STACK : Nat := 1
def Err.GLH.CFG_IGNORED : Nat := 0
def Err.YG.LATE_TWIN : Nat := 7
def Err.YG.TXEQ_TIMEOUT : Nat := 6
def Err.YG.SEQ_RESYNC : Nat := 5
def Err.YG.SINGLE_COPY : Nat := 4
def Err.YG.LANE_DEGRADED : Nat := 3
def Err.YG.TRAIN_FAIL : Nat := 2
def Err.YG.LANE_DOWN : Nat := 1
def Err.YG.CFG_IGNORED : Nat := 0
def Err.GH.INPUT_LOSS : Nat := 6
def Err.GH.DUP_SLOT : Nat := 5
def Err.GH.PATTERN_ERR : Nat := 4
def Err.GH.SOURCE_RATE : Nat := 3
def Err.GH.STALL : Nat := 2
def Err.GH.RING_FULL : Nat := 1
def Err.GH.CFG_IGNORED : Nat := 0
def Err.PR.ROT_SAT : Nat := 3
def Err.PR.FFT_SAT : Nat := 2
def Err.PR.FILT_SAT : Nat := 1
def Err.PR.CFG_IGNORED : Nat := 0
def Err.PAV.UNCORR : Nat := 7
def Err.PAV.COMMIT_WAIT : Nat := 6
def Err.PAV.BLOCK_DROP : Nat := 5
def Err.PAV.NO_SPARE : Nat := 4
def Err.PAV.RETIRED : Nat := 3
def Err.PAV.TALLY_MISMATCH : Nat := 2
def Err.PAV.REJECT : Nat := 1
def Err.PAV.CFG_IGNORED : Nat := 0
def Err.ACC.UNCORR : Nat := 5
def Err.ACC.GAP : Nat := 4
def Err.ACC.TALLY_SAT : Nat := 3
def Err.ACC.STRETCH : Nat := 2
def Err.ACC.OVERFLOW : Nat := 1
def Err.ACC.CFG_IGNORED : Nat := 0
def Err.PO.UNCORR : Nat := 3
def Err.PO.AMEND : Nat := 2
def Err.PO.RANGE_CLIPPED : Nat := 1
def Err.PO.CFG_IGNORED : Nat := 0
def Err.LENS.RING_DROP : Nat := 4
def Err.LENS.DIR_SAT : Nat := 3
def Err.LENS.W_SAT : Nat := 2
def Err.LENS.OVERRUN : Nat := 1
def Err.LENS.CFG_IGNORED : Nat := 0
def Err.EYE.CAP_MISSED : Nat := 5
def Err.EYE.CAP_TRUNC : Nat := 4
def Err.EYE.INT_SAT : Nat := 3
def Err.EYE.BEAM_DROP : Nat := 2
def Err.EYE.IN_OVERRUN : Nat := 1
def Err.EYE.CFG_IGNORED : Nat := 0
def Err.TR.ROOT_DROP : Nat := 8
def Err.TR.TX_DROP : Nat := 7
def Err.TR.HOLD_FULL : Nat := 6
def Err.TR.SAT : Nat := 5
def Err.TR.MISMATCH : Nat := 4
def Err.TR.LATE : Nat := 3
def Err.TR.CHILD_MISS : Nat := 2
def Err.TR.SEQ_GAP : Nat := 1
def Err.TR.CFG_IGNORED : Nat := 0
def Err.ETH.HI_SER : Nat := 7
def Err.ETH.VERIFY_FAIL : Nat := 6
def Err.ETH.TS_DROP : Nat := 5
def Err.ETH.RX_RING_DROP : Nat := 4
def Err.ETH.RX_OVERFLOW : Nat := 3
def Err.ETH.TX_UNDERRUN : Nat := 2
def Err.ETH.LINK_DOWN : Nat := 1
def Err.ETH.CFG_IGNORED : Nat := 0
def Err.SD.EVENT_LATE : Nat := 7
def Err.SD.CAP_DROP : Nat := 6
def Err.SD.TOD_REFUSED : Nat := 5
def Err.SD.JUMP_AS_SLEW : Nat := 4
def Err.SD.REF_DISAGREE : Nat := 3
def Err.SD.HOLDOVER : Nat := 2
def Err.SD.REF_DISQUAL : Nat := 1
def Err.SD.CFG_IGNORED : Nat := 0
def Err.LODGE.DECODE_HANG : Nat := 12
def Err.LODGE.COVERAGE_LOST : Nat := 11
def Err.LODGE.KAT_FAIL : Nat := 10
def Err.LODGE.PCIE_LINK : Nat := 9
def Err.LODGE.SUPPLY : Nat := 8
def Err.LODGE.STACK : Nat := 7
def Err.LODGE.SRAM_UNCORR : Nat := 6
def Err.LODGE.DRAM_UNCORR : Nat := 5
def Err.LODGE.AUDIT_FAULT : Nat := 4
def Err.LODGE.NO_SPARE : Nat := 3
def Err.LODGE.BLOCK_DROP : Nat := 2
def Err.LODGE.INGEST_LOSS : Nat := 1
def Err.LODGE.CFG_IGNORED : Nat := 0
def Err.BELV.TRACE_DROP : Nat := 1
def Err.BELV.CFG_IGNORED : Nat := 0
def Err.POWER.SELFTEST_FAIL : Nat := 2
def Err.POWER.IN_USE_REFUSED : Nat := 1
def Err.POWER.CFG_IGNORED : Nat := 0

-- Table 0-1: GLOBAL_ID
def F.GLOBAL_ID.VENDOR : Fld := { fld 0 0x0 0 1 16 16 .S .RO with rst := fun _ => 0xca5 }
def F.GLOBAL_ID.FAMILY : Fld := { fld 1 0x0 0 1 8 8 .S .RO with rst := fun _ => 0x56 }
def F.GLOBAL_ID.MEMBER : Fld := { fld 2 0x0 0 1 0 8 .S .RO with rst := fun _ => 4 }
-- Table 0-2: GLOBAL_REV
def F.GLOBAL_REV.BARE_DIE : Fld := { fld 3 0x4 0 1 16 1 .S .RO with rst := fun _ => Config.bareDie % 2 }
def F.GLOBAL_REV.STEP_LETTER : Fld := { fld 4 0x4 0 1 8 8 .S .RO with rst := fun _ => 0x42 }
def F.GLOBAL_REV.STEP_NUM : Fld := { fld 5 0x4 0 1 0 8 .S .RO with rst := fun _ => 1 }
-- Table 0-3: GLOBAL_PARAM_ARRAY
def F.GLOBAL_PARAM_ARRAY.PAV_SPARE : Fld := { fld 6 0x10 0 1 24 8 .S .RO with rst := fun _ => 8 }
def F.GLOBAL_PARAM_ARRAY.PAV_LIVE : Fld := { fld 7 0x10 0 1 16 8 .S .RO with rst := fun _ => 0x80 }
def F.GLOBAL_PARAM_ARRAY.N_MAX : Fld := { fld 8 0x10 0 1 0 16 .S .RO with rst := fun _ => 0x1000 }
-- Table 0-4: GLOBAL_PARAM_CHAN
def F.GLOBAL_PARAM_CHAN.C_MAX : Fld := { fld 9 0x14 0 1 16 8 .S .RO with rst := fun _ => 0x20 }
def F.GLOBAL_PARAM_CHAN.PRISM_LANES : Fld := { fld 10 0x14 0 1 8 8 .S .RO with rst := fun _ => 0x20 }
def F.GLOBAL_PARAM_CHAN.STEP_ENTRIES : Fld := { fld 11 0x14 0 1 0 8 .S .RO with rst := fun _ => 0x40 }
-- Table 0-5: GLOBAL_PARAM_BEAM
def F.GLOBAL_PARAM_BEAM.LENS_MASKS : Fld := { fld 12 0x18 0 1 16 8 .S .RO with rst := fun _ => 0x40 }
def F.GLOBAL_PARAM_BEAM.BEAM_CTX : Fld := { fld 13 0x18 0 1 0 16 .S .RO with rst := fun _ => 0x4000 }
-- Table 0-6: GLOBAL_PARAM_IO
def F.GLOBAL_PARAM_IO.YG_LANES : Fld := { fld 14 0x1c 0 1 16 8 .S .RO with rst := fun _ => 0x40 }
def F.GLOBAL_PARAM_IO.HBM_STACKS : Fld := { fld 15 0x1c 0 1 12 4 .S .RO with rst := fun _ => 8 }
def F.GLOBAL_PARAM_IO.ETH_PORTS : Fld := { fld 16 0x1c 0 1 8 4 .S .RO with rst := fun _ => 4 }
def F.GLOBAL_PARAM_IO.PE_WIDTH : Fld := { fld 17 0x1c 0 1 0 8 .S .RO with rst := fun _ => 0x10 }
-- Table 0-7: GLOBAL_PARAM_MEM
def F.GLOBAL_PARAM_MEM.STACK_GIB : Fld := { fld 18 0x20 0 1 16 8 .S .RO with rst := fun _ => 0x10 }
def F.GLOBAL_PARAM_MEM.PCH_PER_STACK : Fld := { fld 19 0x20 0 1 8 8 .S .RO with rst := fun _ => 0x20 }
def F.GLOBAL_PARAM_MEM.REGION_ENTRIES : Fld := { fld 20 0x20 0 1 0 8 .S .RO with rst := fun _ => 0x20 }
-- Table 3-7: GLOBAL_RESET_CTL
def F.GLOBAL_RESET_CTL.INCL_SUNDIAL : Fld := fld 21 0x40 0 1 1 1 .imm .RW
def F.GLOBAL_RESET_CTL.DATA_KEEP : Fld := fld 22 0x40 0 1 0 1 .imm .RW
-- Table 3-8: GLOBAL_DATA_RESET
def F.GLOBAL_DATA_RESET.DATA_RESET : Fld := fld 23 0x44 0 1 0 1 .imm .WO
-- Table 3-9: GLOBAL_RESET_CAUSE
def F.GLOBAL_RESET_CAUSE.MGMT : Fld := fld 24 0x48 0 1 5 1 .upd .W1C
def F.GLOBAL_RESET_CAUSE.DATA_SMB : Fld := fld 25 0x48 0 1 4 1 .upd .W1C
def F.GLOBAL_RESET_CAUSE.DATA_REG : Fld := fld 26 0x48 0 1 3 1 .upd .W1C
def F.GLOBAL_RESET_CAUSE.FLR : Fld := fld 27 0x48 0 1 2 1 .upd .W1C
def F.GLOBAL_RESET_CAUSE.WARM : Fld := fld 28 0x48 0 1 1 1 .upd .W1C
def F.GLOBAL_RESET_CAUSE.COLD : Fld := { fld 29 0x48 0 1 0 1 .upd .W1C with rst := fun _ => 1 }
-- Table 3-19: GLOBAL_DP_CFG
def F.GLOBAL_DP_CFG.T_CODE : Fld := { fld 30 0x4c 0 1 16 3 .E .RW with rst := fun _ => 2, ok := fun _ v => decide (v ≤ 5) }
def F.GLOBAL_DP_CFG.MODE4 : Fld := fld 31 0x4c 0 1 8 1 .S .RW
def F.GLOBAL_DP_CFG.N_BLK : Fld := { fld 32 0x4c 0 1 0 8 .S .RW with rst := fun _ => 0x80, ok := fun _ v => decide (1 ≤ v ∧ v ≤ 128) }
-- Table 3-10: GLOBAL_DP_STATE
def F.GLOBAL_DP_STATE.HORIZON_VALID : Fld := fld 33 0x50 0 1 4 1 .upd .RO
def F.GLOBAL_DP_STATE.ARMED : Fld := fld 34 0x50 0 1 3 1 .upd .RO
def F.GLOBAL_DP_STATE.STATE : Fld := fld 35 0x50 0 1 0 3 .upd .RO
-- Table 3-11: GLOBAL_BANK_SEL
def F.GLOBAL_BANK_SEL.BANK_SEL : Fld := fld 36 0x54 0 1 0 16 .E .RW
-- Table 3-12: GLOBAL_EPOCH_NUM
def F.GLOBAL_EPOCH_NUM.EPOCH_NUM : Fld := fld 37 0x58 0 1 0 32 .upd .RO
-- Table 3-13: GLOBAL_START_FSI
def F.GLOBAL_START_FSI.E_FSI : Fld := { fld 38 0x60 0 1 0 64 .upd .RO with wide := true }
-- Table 3-14: GLOBAL_EPOCH_TARGET
def F.GLOBAL_EPOCH_TARGET.TARGET_FSI : Fld := { fld 39 0x68 0 1 0 64 .upd .RO with wide := true }
-- Table 3-15: GLOBAL_EPOCH_HORIZON
def F.GLOBAL_EPOCH_HORIZON.HORIZON_FSI : Fld := { fld 40 0x70 0 1 0 64 .upd .RO with wide := true }
-- Table 3-16: GLOBAL_ERR
def F.GLOBAL_ERR.BITS : Fld := fld 41 0x80 0 1 0 2 .upd .W1C
-- R24: GLOBAL_ERR_FIRST
def F.GLOBAL_ERR_FIRST.WORD : Fld := fld 42 0x84 0 1 0 32 .upd .RO
-- R24: GLOBAL_ERR_FIRST_TS
def F.GLOBAL_ERR_FIRST_TS.TS : Fld := { fld 43 0x88 0 1 0 64 .upd .RO with wide := true }
-- Table 16-15: KIOSK_CFG
def F.KIOSK_CFG.POLL : Fld := { fld 44 0x100000 0 1 0 9 .imm .RW with rst := fun _ => 4, ok := fun _ v => decide (1 ≤ v ∧ v ≤ 256) }
-- Table 16-16: KIOSK_WAKE
def F.KIOSK_WAKE.WAKE : Fld := fld 45 0x100004 0 1 0 1 .imm .WO
-- Table 16-17: KIOSK_IDX_BASE
def F.KIOSK_IDX_BASE.ADDR : Fld := { fld 46 0x100008 0 1 12 52 .S .RW with wide := true }
-- Table 16-18: KIOSK_STATUS
def F.KIOSK_STATUS.D3 : Fld := fld 47 0x100010 0 1 17 1 .upd .RO
def F.KIOSK_STATUS.BME : Fld := fld 48 0x100010 0 1 16 1 .upd .RO
def F.KIOSK_STATUS.SPEED : Fld := fld 49 0x100010 0 1 10 3 .upd .RO
def F.KIOSK_STATUS.WIDTH : Fld := fld 50 0x100010 0 1 4 6 .upd .RO
def F.KIOSK_STATUS.LINK_UP : Fld := fld 51 0x100010 0 1 0 1 .upd .RO
-- Table 16-19: KIOSK_ERR
def F.KIOSK_ERR.BITS : Fld := fld 52 0x100020 0 1 0 5 .upd .W1C
-- R24: KIOSK_ERR_FIRST
def F.KIOSK_ERR_FIRST.WORD : Fld := fld 53 0x100024 0 1 0 32 .upd .RO
-- R24: KIOSK_ERR_FIRST_TS
def F.KIOSK_ERR_FIRST_TS.TS : Fld := { fld 54 0x100028 0 1 0 64 .upd .RO with wide := true }
-- Table 16-20: KIOSK_RING_BASE
def F.KIOSK_RING_BASE.ADDR : Fld := { fld 55 0x100100 32 12 6 58 .S .RW with wide := true }
-- Table 16-21: KIOSK_RING_CFG
def F.KIOSK_RING_CFG.EN : Fld := fld 56 0x100108 32 12 31 1 .imm .RW
def F.KIOSK_RING_CFG.LOG2_SIZE : Fld := { fld 57 0x100108 32 12 16 4 .S .RW with rst := fun _ => 8, ok := fun _ v => decide (4 ≤ v ∧ v ≤ 16) }
def F.KIOSK_RING_CFG.MOD : Fld := fld 58 0x100108 32 12 8 8 .imm .RW
def F.KIOSK_RING_CFG.VECTOR : Fld := { fld 59 0x100108 32 12 0 6 .S .RW with rst := fun r => if r = 3 then 2 else if 4 ≤ r then r - 1 else 0 }
-- Table 16-22: KIOSK_RING_STATUS
def F.KIOSK_RING_STATUS.STATE : Fld := fld 60 0x10010c 32 12 30 2 .upd .RO
def F.KIOSK_RING_STATUS.DEV_IDX : Fld := fld 61 0x10010c 32 12 0 16 .upd .RO
-- R362: KIOSK_RING_ENTRIES
def F.KIOSK_RING_ENTRIES.COUNT : Fld := fld 62 0x100110 32 12 0 32 .upd .RC
-- Table 16-23: KIOSK_EVT_VEC
def F.KIOSK_EVT_VEC.VECTOR : Fld := { fld 63 0x100400 4 64 0 6 .imm .RW with rst := fun v => if 24 ≤ v ∧ v ≤ 28 then 11 else if (29 ≤ v ∧ v ≤ 31) ∨ v = 33 then 12 else if v = 32 then 13 else 1, ok := fun k v => decide (k = 32 ∨ ¬(v = 0 ∨ (2 ≤ v ∧ v ≤ 10) ∨ v = 13)) }
-- Table 16-24: DMA_CH_CFG
def F.DMA_CH_CFG.CLASS : Fld := { fld 64 0x200000 32 32 28 2 .S .RW with rst := fun c => if c ≤ 2 then 0 else if c ≤ 6 then 2 else if c ≤ 14 then 1 else 3 }
def F.DMA_CH_CFG.HIGH : Fld := { fld 65 0x200000 32 32 8 6 .S .RW with rst := fun _ => 0x18 }
def F.DMA_CH_CFG.LOW : Fld := { fld 66 0x200000 32 32 0 6 .S .RW with rst := fun _ => 8 }
-- Table 16-25: DMA_CH_CTL
def F.DMA_CH_CTL.RESTART : Fld := fld 67 0x200004 32 32 1 1 .descriptor .WO
def F.DMA_CH_CTL.STOP : Fld := fld 68 0x200004 32 32 0 1 .descriptor .WO
-- Table 16-26: DMA_CH_STATUS
def F.DMA_CH_STATUS.ERR_SIDE : Fld := fld 69 0x200008 32 32 8 1 .upd .RO
def F.DMA_CH_STATUS.STATE : Fld := fld 70 0x200008 32 32 0 3 .upd .RO
-- R363: DMA_CH_LAST_BEAT
def F.DMA_CH_LAST_BEAT.BEAT : Fld := fld 71 0x20000c 32 32 0 32 .upd .RO
-- R363: DMA_CH_BYTES
def F.DMA_CH_BYTES.BYTES : Fld := { fld 72 0x200010 32 32 0 64 .upd .RO with wide := true }
-- R363: DMA_CH_PREEMPT
def F.DMA_CH_PREEMPT.COUNT : Fld := fld 73 0x200018 32 32 0 32 .upd .RC
-- R363: DMA_CH_ERRS
def F.DMA_CH_ERRS.COUNT : Fld := fld 74 0x20001c 32 32 0 32 .upd .RC
-- Table 16-27: DMA_ERR
def F.DMA_ERR.BITS : Fld := fld 75 0x200400 0 1 0 3 .upd .W1C
-- R24: DMA_ERR_FIRST
def F.DMA_ERR_FIRST.WORD : Fld := fld 76 0x200404 0 1 0 32 .upd .RO
-- R24: DMA_ERR_FIRST_TS
def F.DMA_ERR_FIRST_TS.TS : Fld := { fld 77 0x200408 0 1 0 64 .upd .RO with wide := true }
-- Table 17-9: CL_MASTER_RST
def F.CL_MASTER_RST.RST : Fld := fld 78 0x300004 0 1 0 11 .imm .WO
-- Table 17-9: CL_HANG_MASK
def F.CL_HANG_MASK.MASK : Fld := fld 79 0x300008 0 1 0 11 .upd .W1C
-- Table 17-9: CL_REG_ADDR
def F.CL_REG_ADDR.OFFSET : Fld := fld 80 0x30000c 0 1 0 26 .upd .RO
-- Table 17-9: CL_ERR
def F.CL_ERR.BITS : Fld := fld 81 0x300020 0 1 0 3 .upd .W1C
-- R24: CL_ERR_FIRST
def F.CL_ERR_FIRST.WORD : Fld := fld 82 0x300024 0 1 0 32 .upd .RO
-- R24: CL_ERR_FIRST_TS
def F.CL_ERR_FIRST_TS.TS : Fld := { fld 83 0x300028 0 1 0 64 .upd .RO with wide := true }
-- Table 17-9: CL_HOLDBACK
def F.CL_HOLDBACK.COUNT : Fld := fld 84 0x300030 0 1 0 32 .upd .RC
-- Table 17-9: CL_REG_DECODE
def F.CL_REG_DECODE.COUNT : Fld := fld 85 0x300034 0 1 0 32 .upd .RC
-- Table 17-9: CL_PORT_STATUS
def F.CL_PORT_STATUS.HUNG : Fld := fld 86 0x300080 4 11 9 1 .upd .RO
def F.CL_PORT_STATUS.RESETTING : Fld := fld 87 0x300080 4 11 8 1 .upd .RO
def F.CL_PORT_STATUS.TAGS : Fld := fld 88 0x300080 4 11 0 7 .upd .RO
-- Table 17-9: CL_HANG_ADDR
def F.CL_HANG_ADDR.WRITE : Fld := { fld 89 0x300100 8 11 63 1 .upd .RO with wide := true }
def F.CL_HANG_ADDR.ADDR : Fld := { fld 90 0x300100 8 11 0 37 .upd .RO with wide := true }
-- Table 17-3: GLH_CFG
def F.GLH_CFG.RATE : Fld := { fld 91 0x400000 0 1 0 3 .S .RW with rst := fun _ => 4, ok := fun _ v => decide (v ≤ 4) }
-- Table 17-4: GLH_CTL
def F.GLH_CTL.CLEAR_FAIL : Fld := fld 92 0x400004 0 1 8 1 .S .WO
def F.GLH_CTL.EN : Fld := fld 93 0x400004 0 1 0 1 .S .RW
-- Table 17-6: GLH_STATUS
def F.GLH_STATUS.HOT : Fld := fld 94 0x400008 0 1 24 8 .upd .RO
def F.GLH_STATUS.STACK_FAILED : Fld := fld 95 0x400008 0 1 16 8 .upd .RO
def F.GLH_STATUS.STACK_BAD : Fld := fld 96 0x400008 0 1 8 8 .upd .RO
def F.GLH_STATUS.INIT_BUSY : Fld := fld 97 0x400008 0 1 1 1 .upd .RO
def F.GLH_STATUS.READY : Fld := fld 98 0x400008 0 1 0 1 .upd .RO
-- Table 17-7: GLH_TRAIN_ADDR
def F.GLH_TRAIN_ADDR.ADDR : Fld := fld 99 0x400010 0 1 0 14 .S .RW
-- Table 17-7: GLH_TRAIN_DATA
def F.GLH_TRAIN_DATA.DATA : Fld := fld 100 0x400014 0 1 0 16 .S .WO
-- Table 17-7: GLH_SCRUB
def F.GLH_SCRUB.PERIOD : Fld := { fld 101 0x400018 0 1 0 17 .S .RW with rst := fun _ => 0xe10, ok := fun _ v => decide (600 ≤ v ∧ v ≤ 86400) }
-- Table 17-7: GLH_PANIC_CFG
def F.GLH_PANIC_CFG.ON : Fld := { fld 102 0x400020 4 4 8 6 .S .RW with rst := fun _ => 0x30 }
def F.GLH_PANIC_CFG.OFF : Fld := { fld 103 0x400020 4 4 0 6 .S .RW with rst := fun _ => 0x20 }
-- Table 17-8: GLH_ERR
def F.GLH_ERR.BITS : Fld := fld 104 0x400040 0 1 0 4 .upd .W1C
-- R24: GLH_ERR_FIRST
def F.GLH_ERR_FIRST.WORD : Fld := fld 105 0x400044 0 1 0 32 .upd .RO
-- R24: GLH_ERR_FIRST_TS
def F.GLH_ERR_FIRST_TS.TS : Fld := { fld 106 0x400048 0 1 0 64 .upd .RO with wide := true }
-- R385: GLH_CORR_SYM
def F.GLH_CORR_SYM.COUNT : Fld := { fld 107 0x400080 0 1 0 64 .upd .RO with wide := true }
-- R385: GLH_UNCORR
def F.GLH_UNCORR.COUNT : Fld := fld 108 0x400088 0 1 0 32 .upd .RC
-- R385: GLH_SCRUB_CORR
def F.GLH_SCRUB_CORR.COUNT : Fld := fld 109 0x40008c 0 1 0 32 .upd .RC
-- R385: GLH_SCRUB_UNCORR
def F.GLH_SCRUB_UNCORR.COUNT : Fld := fld 110 0x400090 0 1 0 32 .upd .RC
-- R385: GLH_SCRUB_LATE
def F.GLH_SCRUB_LATE.COUNT : Fld := fld 111 0x400094 0 1 0 32 .upd .RC
-- R385: GLH_REFRESH_FORCED
def F.GLH_REFRESH_FORCED.COUNT : Fld := fld 112 0x400098 0 1 0 32 .upd .RC
-- R385: GLH_PANIC_CNT
def F.GLH_PANIC_CNT.COUNT : Fld := fld 113 0x4000a0 4 4 0 32 .upd .RC
-- Table 17-5: GLH_REGION
def F.GLH_REGION.VALID : Fld := { fld 114 0x400100 8 32 63 1 .S .RW with wide := true }
def F.GLH_REGION.SIZE_MIB : Fld := { fld 115 0x400100 8 32 32 18 .S .RW with wide := true }
def F.GLH_REGION.BASE_MIB : Fld := { fld 116 0x400100 8 32 0 18 .S .RW with wide := true }
-- Table 17-7: GLH_STACK_TEMP
def F.GLH_STACK_TEMP.TEMP : Fld := fld 117 0x400200 4 8 0 8 .upd .RO
-- Table 4-11: YG_LANE_CTL
def F.YG_LANE_CTL.RETRAIN : Fld := fld 118 0x800000 4096 64 8 1 .S .WO
def F.YG_LANE_CTL.COLD_TRAIN : Fld := fld 119 0x800000 4096 64 6 1 .S .RW
def F.YG_LANE_CTL.TXEQ_SKIP : Fld := fld 120 0x800000 4096 64 5 1 .S .RW
def F.YG_LANE_CTL.PRECODE : Fld := fld 121 0x800000 4096 64 4 1 .S .RW
def F.YG_LANE_CTL.ROLE : Fld := { fld 122 0x800000 4096 64 0 2 .S .RW with ok := fun _ v => decide (v ≠ 3) }
-- Table 4-12: YG_LANE_STATUS
def F.YG_LANE_STATUS.PPM : Fld := fld 123 0x800004 4096 64 16 16 .upd .RO
def F.YG_LANE_STATUS.TXEQ_TIMEOUT : Fld := fld 124 0x800004 4096 64 12 1 .upd .RO
def F.YG_LANE_STATUS.DEGRADED : Fld := fld 125 0x800004 4096 64 11 1 .upd .RO
def F.YG_LANE_STATUS.CW_LOCK : Fld := fld 126 0x800004 4096 64 10 1 .upd .RO
def F.YG_LANE_STATUS.CDR_LOCK : Fld := fld 127 0x800004 4096 64 9 1 .upd .RO
def F.YG_LANE_STATUS.LOS : Fld := { fld 128 0x800004 4096 64 8 1 .upd .RO with rst := fun _ => 1 }
def F.YG_LANE_STATUS.EFF_ROLE : Fld := fld 129 0x800004 4096 64 4 2 .upd .RO
def F.YG_LANE_STATUS.STATE : Fld := fld 130 0x800004 4096 64 0 3 .upd .RO
-- Table 4-13: YG_LANE_EQ
def F.YG_LANE_EQ.TX_POST : Fld := fld 131 0x800008 4096 64 24 4 .upd .RO
def F.YG_LANE_EQ.TX_PRE : Fld := fld 132 0x800008 4096 64 16 4 .upd .RO
def F.YG_LANE_EQ.VGA : Fld := fld 133 0x800008 4096 64 4 8 .upd .RO
def F.YG_LANE_EQ.CTLE : Fld := fld 134 0x800008 4096 64 0 4 .upd .RO
-- Table 4-14: YG_LANE_DFE_A
def F.YG_LANE_DFE_A.TAP3 : Fld := fld 135 0x800010 4096 64 24 8 .upd .RO
def F.YG_LANE_DFE_A.TAP2 : Fld := fld 136 0x800010 4096 64 16 8 .upd .RO
def F.YG_LANE_DFE_A.TAP1 : Fld := fld 137 0x800010 4096 64 8 8 .upd .RO
def F.YG_LANE_DFE_A.TAP0 : Fld := fld 138 0x800010 4096 64 0 8 .upd .RO
-- Table 4-14: YG_LANE_DFE_B
def F.YG_LANE_DFE_B.TAP3 : Fld := fld 139 0x800014 4096 64 24 8 .upd .RO
def F.YG_LANE_DFE_B.TAP2 : Fld := fld 140 0x800014 4096 64 16 8 .upd .RO
def F.YG_LANE_DFE_B.TAP1 : Fld := fld 141 0x800014 4096 64 8 8 .upd .RO
def F.YG_LANE_DFE_B.TAP0 : Fld := fld 142 0x800014 4096 64 0 8 .upd .RO
-- Table 4-14: YG_LANE_DFE_C
def F.YG_LANE_DFE_C.TAP3 : Fld := fld 143 0x800018 4096 64 24 8 .upd .RO
def F.YG_LANE_DFE_C.TAP2 : Fld := fld 144 0x800018 4096 64 16 8 .upd .RO
def F.YG_LANE_DFE_C.TAP1 : Fld := fld 145 0x800018 4096 64 8 8 .upd .RO
def F.YG_LANE_DFE_C.TAP0 : Fld := fld 146 0x800018 4096 64 0 8 .upd .RO
-- Table 4-15: YG_LANE_CELLS
def F.YG_LANE_CELLS.COUNT : Fld := { fld 147 0x800020 4096 64 0 64 .upd .RO with wide := true }
-- Table 4-15: YG_LANE_CW
def F.YG_LANE_CW.COUNT : Fld := { fld 148 0x800028 4096 64 0 64 .upd .RO with wide := true }
-- Table 4-15: YG_LANE_CORR_SYM
def F.YG_LANE_CORR_SYM.COUNT : Fld := { fld 149 0x800030 4096 64 0 64 .upd .RO with wide := true }
-- Table 4-15: YG_LANE_CORR_CW
def F.YG_LANE_CORR_CW.COUNT : Fld := fld 150 0x800040 4096 64 0 32 .upd .RC
-- Table 4-15: YG_LANE_UNCORR_CW
def F.YG_LANE_UNCORR_CW.COUNT : Fld := fld 151 0x800044 4096 64 0 32 .upd .RC
-- Table 4-15: YG_LANE_TRUNC
def F.YG_LANE_TRUNC.COUNT : Fld := fld 152 0x800048 4096 64 0 32 .upd .RC
-- Table 4-15: YG_LANE_LEN_ERR
def F.YG_LANE_LEN_ERR.COUNT : Fld := fld 153 0x80004c 4096 64 0 32 .upd .RC
-- Table 4-15: YG_LANE_FEC_DISCARD
def F.YG_LANE_FEC_DISCARD.COUNT : Fld := fld 154 0x800050 4096 64 0 32 .upd .RC
-- Table 4-15: YG_LANE_HCRC_ERR
def F.YG_LANE_HCRC_ERR.COUNT : Fld := fld 155 0x800054 4096 64 0 32 .upd .RC
-- Table 4-15: YG_LANE_HDR_ERR
def F.YG_LANE_HDR_ERR.COUNT : Fld := fld 156 0x800058 4096 64 0 32 .upd .RC
-- Table 4-15: YG_LANE_PCRC_ERR
def F.YG_LANE_PCRC_ERR.COUNT : Fld := fld 157 0x80005c 4096 64 0 32 .upd .RC
-- Table 4-15: YG_LANE_BAD_BLOCK
def F.YG_LANE_BAD_BLOCK.COUNT : Fld := fld 158 0x800060 4096 64 0 32 .upd .RC
-- Table 4-15: YG_LANE_DOWN_CNT
def F.YG_LANE_DOWN_CNT.COUNT : Fld := fld 159 0x800064 4096 64 0 32 .upd .RC
-- Table 4-15: YG_LANE_TRAIN_FAIL
def F.YG_LANE_TRAIN_FAIL.COUNT : Fld := fld 160 0x800068 4096 64 0 32 .upd .RC
-- Table 4-8: YG_CFG
def F.YG_CFG.REPORT_INTERVAL : Fld := { fld 161 0x840000 0 1 16 8 .S .RW with rst := fun _ => 0x64, ok := fun _ v => decide (v ≠ 0) }
def F.YG_CFG.RCLK_LANE : Fld := fld 162 0x840000 0 1 8 6 .S .RW
def F.YG_CFG.RCLK_EN : Fld := fld 163 0x840000 0 1 1 1 .S .RW
def F.YG_CFG.MIRROR_EN : Fld := fld 164 0x840000 0 1 0 1 .S .RW
-- Table 4-9: YG_DEGRADE
def F.YG_DEGRADE.THRESH : Fld := { fld 165 0x840004 0 1 0 24 .S .RW with rst := fun _ => 0x3e8 }
-- Table 4-10: YG_ERR
def F.YG_ERR.BITS : Fld := fld 166 0x840010 0 1 0 8 .upd .W1C
-- R24: YG_ERR_FIRST
def F.YG_ERR_FIRST.WORD : Fld := fld 167 0x840014 0 1 0 32 .upd .RO
-- R24: YG_ERR_FIRST_TS
def F.YG_ERR_FIRST_TS.TS : Fld := { fld 168 0x840018 0 1 0 64 .upd .RO with wide := true }
-- Table 4-16: YG_SRC_STATE
def F.YG_SRC_STATE.MIRROR_SEEN : Fld := fld 169 0x841000 32 256 2 1 .upd .RO
def F.YG_SRC_STATE.PRIMARY_SEEN : Fld := fld 170 0x841000 32 256 1 1 .upd .RO
def F.YG_SRC_STATE.ESTABLISHED : Fld := fld 171 0x841000 32 256 0 1 .upd .RO
-- R105: YG_SRC_HIGH
def F.YG_SRC_HIGH.H : Fld := fld 172 0x841004 32 256 0 32 .upd .RO
-- R105: YG_SRC_DUP
def F.YG_SRC_DUP.COUNT : Fld := fld 173 0x841008 32 256 0 32 .upd .RC
-- R105: YG_SRC_MISSING
def F.YG_SRC_MISSING.COUNT : Fld := fld 174 0x84100c 32 256 0 32 .upd .RC
-- R105: YG_SRC_SINGLE
def F.YG_SRC_SINGLE.COUNT : Fld := fld 175 0x841010 32 256 0 32 .upd .RC
-- R105: YG_SRC_STALE
def F.YG_SRC_STALE.COUNT : Fld := fld 176 0x841014 32 256 0 32 .upd .RC
-- R105: YG_SRC_LATE_TWIN
def F.YG_SRC_LATE_TWIN.COUNT : Fld := fld 177 0x841018 32 256 0 32 .upd .RC
-- Table 5-5: GH_CFG
def F.GH_CFG.CHAN_BASE : Fld := fld 178 0xa00000 0 1 16 16 .E .RW
def F.GH_CFG.STALL_FILL : Fld := fld 179 0xa00000 0 1 8 1 .S .RW
def F.GH_CFG.PATTERN : Fld := { fld 180 0xa00000 0 1 0 2 .S .RW with ok := fun _ v => decide (v ≤ 1) }
-- Table 5-6: GH_WINDOW
def F.GH_WINDOW.W : Fld := { fld 181 0xa00004 0 1 0 6 .cycle .RW with rst := fun _ => 0xa, ok := fun _ v => decide (1 ≤ v ∧ v ≤ 40) }
-- Table 5-7: GH_SLIP_CFG
def F.GH_SLIP_CFG.EN : Fld := { fld 182 0xa00008 0 1 31 1 .S .RW with rst := fun _ => 1 }
def F.GH_SLIP_CFG.INTERVAL : Fld := { fld 183 0xa00008 0 1 16 8 .S .RW with rst := fun _ => 0x10, ok := fun _ v => decide (v ≠ 0) }
def F.GH_SLIP_CFG.RATE_TOL : Fld := { fld 184 0xa00008 0 1 0 16 .S .RW with rst := fun _ => 0x3e8 }
-- Table 5-8: GH_SLIP_OFFSET_TOL
def F.GH_SLIP_OFFSET_TOL.OFFSET_TOL : Fld := { fld 185 0xa0000c 0 1 0 32 .S .RW with rst := fun _ => 0x10000 }
-- Table 5-9: GH_STALL
def F.GH_STALL.TIMEOUT : Fld := { fld 186 0xa00010 0 1 0 16 .S .RW with rst := fun _ => 0x64, ok := fun _ v => decide (v ≠ 0) }
-- Table 5-10: GH_STATUS
def F.GH_STATUS.RATE_SRCS : Fld := fld 187 0xa00014 0 1 16 16 .upd .RO
def F.GH_STATUS.FILLING : Fld := fld 188 0xa00014 0 1 1 1 .upd .RO
def F.GH_STATUS.STALLED : Fld := fld 189 0xa00014 0 1 0 1 .upd .RO
-- Table 5-11: GH_FRONT
def F.GH_FRONT.FRONT : Fld := { fld 190 0xa00018 0 1 0 64 .upd .RO with wide := true }
-- Table 5-12: GH_ERR
def F.GH_ERR.BITS : Fld := fld 191 0xa00020 0 1 0 7 .upd .W1C
-- R24: GH_ERR_FIRST
def F.GH_ERR_FIRST.WORD : Fld := fld 192 0xa00024 0 1 0 32 .upd .RO
-- R24: GH_ERR_FIRST_TS
def F.GH_ERR_FIRST_TS.TS : Fld := { fld 193 0xa00028 0 1 0 64 .upd .RO with wide := true }
-- Table 5-17: GH_REGIONS
def F.GH_REGIONS.LANDING_REGION : Fld := fld 194 0xa00030 0 1 0 5 .S .RW
-- Table 5-13: GH_UNKNOWN_SOURCE
def F.GH_UNKNOWN_SOURCE.COUNT : Fld := fld 195 0xa00040 0 1 0 32 .upd .RC
-- Table 5-13: GH_GROUP_MISMATCH
def F.GH_GROUP_MISMATCH.COUNT : Fld := fld 196 0xa00044 0 1 0 32 .upd .RC
-- Table 5-13: GH_FMT_MISMATCH
def F.GH_FMT_MISMATCH.COUNT : Fld := fld 197 0xa00048 0 1 0 32 .upd .RC
-- Table 5-13: GH_IDLE_DISCARD
def F.GH_IDLE_DISCARD.COUNT : Fld := fld 198 0xa0004c 0 1 0 32 .upd .RC
-- Table 5-13: GH_CHAN_RANGE
def F.GH_CHAN_RANGE.COUNT : Fld := fld 199 0xa00050 0 1 0 32 .upd .RC
-- Table 5-13: GH_CSI_ALIGN
def F.GH_CSI_ALIGN.COUNT : Fld := fld 200 0xa00054 0 1 0 32 .upd .RC
-- Table 5-13: GH_PRE_START
def F.GH_PRE_START.COUNT : Fld := fld 201 0xa00058 0 1 0 32 .upd .RC
-- Table 5-13: GH_LATE
def F.GH_LATE.COUNT : Fld := fld 202 0xa0005c 0 1 0 32 .upd .RC
-- Table 5-13: GH_EARLY
def F.GH_EARLY.COUNT : Fld := fld 203 0xa00060 0 1 0 32 .upd .RC
-- Table 5-13: GH_RING_FULL
def F.GH_RING_FULL.COUNT : Fld := fld 204 0xa00064 0 1 0 32 .upd .RC
-- Table 5-13: GH_DUP_SLOT
def F.GH_DUP_SLOT.COUNT : Fld := fld 205 0xa00068 0 1 0 32 .upd .RC
-- Table 5-13: GH_MUTED
def F.GH_MUTED.COUNT : Fld := fld 206 0xa0006c 0 1 0 32 .upd .RC
-- Table 5-13: GH_MISSING
def F.GH_MISSING.COUNT : Fld := fld 207 0xa00070 0 1 0 32 .upd .RC
-- Table 5-13: GH_PAT_CELLS
def F.GH_PAT_CELLS.COUNT : Fld := fld 208 0xa00074 0 1 0 32 .upd .RC
-- Table 5-13: GH_PAT_ERR_CELLS
def F.GH_PAT_ERR_CELLS.COUNT : Fld := fld 209 0xa00078 0 1 0 32 .upd .RC
-- Table 5-13: GH_PAT_ERR_BYTES
def F.GH_PAT_ERR_BYTES.COUNT : Fld := fld 210 0xa0007c 0 1 0 32 .upd .RC
-- Table 5-13: GH_LANDED
def F.GH_LANDED.COUNT : Fld := { fld 211 0xa00080 0 1 0 64 .upd .RO with wide := true }
-- Table 5-14: GH_SRC_STATUS
def F.GH_SRC_STATUS.ENDED : Fld := fld 212 0xa01000 64 256 2 1 .upd .RO
def F.GH_SRC_STATUS.OFFSET : Fld := fld 213 0xa01000 64 256 1 1 .upd .RO
def F.GH_SRC_STATUS.RATE : Fld := fld 214 0xa01000 64 256 0 1 .upd .RO
-- Table 5-15: GH_SRC_RATE_ERR
def F.GH_SRC_RATE_ERR.RATE_ERR : Fld := fld 215 0xa01004 64 256 0 32 .upd .RO
-- Table 5-16: GH_SRC_OFFSET
def F.GH_SRC_OFFSET.OFFSET : Fld := { fld 216 0xa01008 64 256 0 64 .upd .RO with wide := true }
-- R127: GH_SRC_LANDED
def F.GH_SRC_LANDED.COUNT : Fld := fld 217 0xa01010 64 256 0 32 .upd .RC
-- R127: GH_SRC_MISSING
def F.GH_SRC_MISSING.COUNT : Fld := fld 218 0xa01014 64 256 0 32 .upd .RC
-- R127: GH_SRC_LATE
def F.GH_SRC_LATE.COUNT : Fld := fld 219 0xa01018 64 256 0 32 .upd .RC
-- R127: GH_SRC_EARLY
def F.GH_SRC_EARLY.COUNT : Fld := fld 220 0xa0101c 64 256 0 32 .upd .RC
-- R127: GH_SRC_MUTED
def F.GH_SRC_MUTED.COUNT : Fld := fld 221 0xa01020 64 256 0 32 .upd .RC
-- Table 6-4: PR_CFG
def F.PR_CFG.PROG_BASE : Fld := fld 222 0xc00000 0 1 24 6 .E .RW
def F.PR_CFG.REQ_SHIFT : Fld := { fld 223 0xc00000 0 1 16 5 .E .RW with rst := fun _ => 0x17 }
def F.PR_CFG.FILT_SHIFT : Fld := fld 224 0xc00000 0 1 12 4 .E .RW
def F.PR_CFG.P : Fld := { fld 225 0xc00000 0 1 8 2 .E .RW with rst := fun _ => 1 }
def F.PR_CFG.M : Fld := { fld 226 0xc00000 0 1 4 3 .E .RW with rst := fun _ => 1, ok := fun _ v => decide (v ≤ 4) }
-- Table 6-5: PR_CHAN
def F.PR_CHAN.C : Fld := { fld 227 0xc00004 0 1 0 6 .E .RW with rst := fun _ => 1, ok := fun _ v => decide (1 ≤ v ∧ v ≤ 32) }
-- Table 6-6: PR_FINE_DF
def F.PR_FINE_DF.DF : Fld := { fld 228 0xc00008 0 1 0 64 .E .RW with wide := true }
-- Table 6-7: PR_STATUS
def F.PR_STATUS.SETTLING : Fld := fld 229 0xc00010 0 1 0 1 .upd .RO
-- Table 6-8: PR_DELAY_N
def F.PR_DELAY_N.N_CYC : Fld := fld 230 0xc00014 0 1 0 32 .upd .RO
-- Table 6-12: PR_REGIONS
def F.PR_REGIONS.VB_REGION : Fld := fld 231 0xc00018 0 1 8 5 .S .RW
def F.PR_REGIONS.CT_REGION : Fld := fld 232 0xc00018 0 1 0 5 .S .RW
-- Table 6-9: PR_ERR
def F.PR_ERR.BITS : Fld := fld 233 0xc00020 0 1 0 4 .upd .W1C
-- R24: PR_ERR_FIRST
def F.PR_ERR_FIRST.WORD : Fld := fld 234 0xc00024 0 1 0 32 .upd .RO
-- R24: PR_ERR_FIRST_TS
def F.PR_ERR_FIRST_TS.TS : Fld := { fld 235 0xc00028 0 1 0 64 .upd .RO with wide := true }
-- Table 6-11: PR_SPECTRA
def F.PR_SPECTRA.COUNT : Fld := { fld 236 0xc00040 0 1 0 64 .upd .RO with wide := true }
-- Table 6-11: PR_SETTLE_SUPP
def F.PR_SETTLE_SUPP.COUNT : Fld := fld 237 0xc00048 0 1 0 32 .upd .RC
-- Table 6-11: PR_INVALID
def F.PR_INVALID.COUNT : Fld := fld 238 0xc0004c 0 1 0 32 .upd .RC
-- Table 6-11: PR_FILT_SAT
def F.PR_FILT_SAT.COUNT : Fld := fld 239 0xc00050 0 1 0 32 .upd .RC
-- Table 6-11: PR_FFT_SAT
def F.PR_FFT_SAT.COUNT : Fld := fld 240 0xc00054 0 1 0 32 .upd .RC
-- Table 6-11: PR_ROT_SAT
def F.PR_ROT_SAT.COUNT : Fld := fld 241 0xc00058 0 1 0 32 .upd .RC
-- Table 6-11: PR_REQ_SAT
def F.PR_REQ_SAT.COUNT : Fld := fld 242 0xc0005c 0 1 0 32 .upd .RC
-- Table 6-10: PR_CHAN_FREQ
def F.PR_CHAN_FREQ.FREQ : Fld := { fld 243 0xc00100 8 32 0 64 .E .RW with wide := true }
-- Table 7-3: PAV_STATUS
def F.PAV_STATUS.HOSTS : Fld := { fld 244 0x1000000 4096 136 16 8 .upd .RO with rst := fun k => if k < 128 then k else 0xFF }
def F.PAV_STATUS.PENDING : Fld := fld 245 0x1000000 4096 136 9 1 .upd .RO
def F.PAV_STATUS.FAILING : Fld := fld 246 0x1000000 4096 136 8 1 .upd .RO
def F.PAV_STATUS.ROLE : Fld := { fld 247 0x1000000 4096 136 0 3 .upd .RO with rst := fun k => if k < 128 then 1 else 2 }
-- Table 7-4: PAV_LAST_REJ
def F.PAV_LAST_REJ.CAUSE : Fld := fld 248 0x1000004 4096 136 30 2 .upd .RO
def F.PAV_LAST_REJ.FINE_CHAN : Fld := fld 249 0x1000004 4096 136 14 10 .upd .RO
def F.PAV_LAST_REJ.BLOCK : Fld := fld 250 0x1000004 4096 136 0 14 .upd .RO
-- Table 7-5: PAV_BLOCKS
def F.PAV_BLOCKS.COUNT : Fld := { fld 251 0x1000010 4096 136 0 64 .upd .RO with wide := true }
-- Table 7-5: PAV_REJECTS
def F.PAV_REJECTS.COUNT : Fld := fld 252 0x1000018 4096 136 0 32 .upd .RC
-- Table 7-5: PAV_TALLY_MISM
def F.PAV_TALLY_MISM.COUNT : Fld := fld 253 0x100001c 4096 136 0 32 .upd .RC
-- Table 7-5: PAV_RERUNS
def F.PAV_RERUNS.COUNT : Fld := fld 254 0x1000020 4096 136 0 32 .upd .RC
-- Table 7-5: PAV_AUDITS
def F.PAV_AUDITS.COUNT : Fld := fld 255 0x1000024 4096 136 0 32 .upd .RC
-- Table 7-5: PAV_TILE_CORR
def F.PAV_TILE_CORR.COUNT : Fld := fld 256 0x1000028 4096 136 0 32 .upd .RC
-- Table 7-5: PAV_BCAST_WAIT
def F.PAV_BCAST_WAIT.COUNT : Fld := fld 257 0x100002c 4096 136 0 32 .upd .RC
-- Table 7-6: PAV_CFG
def F.PAV_CFG.RETIRE_EN : Fld := { fld 258 0x1100000 0 1 0 1 .S .RW with rst := fun _ => 1 }
-- Table 7-7: PAV_MAP_CTL
def F.PAV_MAP_CTL.Q : Fld := fld 259 0x1100004 0 1 8 7 .upd .RO
def F.PAV_MAP_CTL.DEFAULT_MAP : Fld := { fld 260 0x1100004 0 1 0 1 .E .RW with rst := fun _ => 1 }
-- Table 7-8: PAV_SPARES
def F.PAV_SPARES.FREE_COUNT : Fld := { fld 261 0x1100008 0 1 8 4 .upd .RO with rst := fun _ => 8 }
def F.PAV_SPARES.FREE_MASK : Fld := { fld 262 0x1100008 0 1 0 8 .upd .RO with rst := fun _ => 0xff }
-- Table 7-9: PAV_BLOCK_SLOT
def F.PAV_BLOCK_SLOT.G : Fld := { fld 263 0x1100010 0 1 0 64 .upd .RO with wide := true }
-- Table 7-11: PAV_ERR
def F.PAV_ERR.BITS : Fld := fld 264 0x1100020 0 1 0 8 .upd .W1C
-- R24: PAV_ERR_FIRST
def F.PAV_ERR_FIRST.WORD : Fld := fld 265 0x1100024 0 1 0 32 .upd .RO
-- R24: PAV_ERR_FIRST_TS
def F.PAV_ERR_FIRST_TS.TS : Fld := { fld 266 0x1100028 0 1 0 64 .upd .RO with wide := true }
-- Table 7-10: PAV_TAILS
def F.PAV_TAILS.COUNT : Fld := fld 267 0x1100040 0 1 0 32 .upd .RC
-- Table 7-10: PAV_BLOCK_DROP
def F.PAV_BLOCK_DROP.COUNT : Fld := fld 268 0x1100044 0 1 0 32 .upd .RC
-- Table 7-10: PAV_COMMIT_WAIT
def F.PAV_COMMIT_WAIT.COUNT : Fld := fld 269 0x1100048 0 1 0 32 .upd .RC
-- Table 7-10: PAV_FETCH_WAIT
def F.PAV_FETCH_WAIT.COUNT : Fld := fld 270 0x110004c 0 1 0 32 .upd .RC
-- Table 7-10: PAV_RETIREMENTS
def F.PAV_RETIREMENTS.COUNT : Fld := fld 271 0x1100050 0 1 0 32 .upd .RC
-- Table 7-10: PAV_ORANGERY_CORR
def F.PAV_ORANGERY_CORR.COUNT : Fld := fld 272 0x1100054 0 1 0 32 .upd .RC
-- Table 7-12: PAV_HOST
def F.PAV_HOST.HOST : Fld := { fld 273 0x1100100 4 128 0 8 .S .RW with rst := fun k => k, ok := fun _ v => decide (v ≤ 135) }
-- Table 8-3: ACC_CFG
def F.ACC_CFG.WIDE : Fld := fld 274 0x1800000 0 1 0 1 .S .RW
-- Table 8-4: ACC_REGIONS
def F.ACC_REGIONS.TALLY_B : Fld := fld 275 0x1800004 0 1 24 5 .S .RW
def F.ACC_REGIONS.TALLY_A : Fld := fld 276 0x1800004 0 1 16 5 .S .RW
def F.ACC_REGIONS.BANK_B : Fld := fld 277 0x1800004 0 1 8 5 .S .RW
def F.ACC_REGIONS.BANK_A : Fld := fld 278 0x1800004 0 1 0 5 .S .RW
-- Table 8-5: ACC_INTEG
def F.ACC_INTEG.K : Fld := { fld 279 0x1800008 0 1 0 24 .E .RW with rst := fun _ => 1, ok := fun _ v => decide (v ≠ 0) }
-- Table 8-6: ACC_PRELOAD
def F.ACC_PRELOAD.TALLY_REGION : Fld := fld 280 0x180000c 0 1 24 5 .E .RW
def F.ACC_PRELOAD.IMG_REGION : Fld := fld 281 0x180000c 0 1 16 5 .E .RW
def F.ACC_PRELOAD.TALLY : Fld := fld 282 0x180000c 0 1 2 1 .E .RW
def F.ACC_PRELOAD.MODE : Fld := fld 283 0x180000c 0 1 1 1 .E .RW
def F.ACC_PRELOAD.EN : Fld := fld 284 0x180000c 0 1 0 1 .E .RW
-- Table 8-7: ACC_STATUS
def F.ACC_STATUS.GAP : Fld := fld 285 0x1800010 0 1 12 1 .upd .RO
def F.ACC_STATUS.PRELOAD_ACTIVE : Fld := fld 286 0x1800010 0 1 11 1 .upd .RO
def F.ACC_STATUS.STRETCHING : Fld := fld 287 0x1800010 0 1 10 1 .upd .RO
def F.ACC_STATUS.DUMP_PENDING : Fld := fld 288 0x1800010 0 1 9 1 .upd .RO
def F.ACC_STATUS.INTEG_BANK : Fld := fld 289 0x1800010 0 1 8 1 .upd .RO
def F.ACC_STATUS.B_STATE : Fld := fld 290 0x1800010 0 1 4 2 .upd .RO
def F.ACC_STATUS.A_STATE : Fld := fld 291 0x1800010 0 1 0 2 .upd .RO
-- Table 8-8: ACC_INTEG_NUM
def F.ACC_INTEG_NUM.NUM : Fld := fld 292 0x1800014 0 1 0 32 .upd .RO
-- Table 8-9: ACC_INTEG_START
def F.ACC_INTEG_START.FSI : Fld := { fld 293 0x1800018 0 1 0 64 .upd .RO with wide := true }
-- Table 8-10: ACC_INTEG_LEN
def F.ACC_INTEG_LEN.LEN : Fld := fld 294 0x1800020 0 1 0 32 .upd .RO
-- Table 8-11: ACC_ERR
def F.ACC_ERR.BITS : Fld := fld 295 0x1800040 0 1 0 6 .upd .W1C
-- R24: ACC_ERR_FIRST
def F.ACC_ERR_FIRST.WORD : Fld := fld 296 0x1800044 0 1 0 32 .upd .RO
-- R24: ACC_ERR_FIRST_TS
def F.ACC_ERR_FIRST_TS.TS : Fld := { fld 297 0x1800048 0 1 0 64 .upd .RO with wide := true }
-- Table 8-14: ACC_IMAGES
def F.ACC_IMAGES.COUNT : Fld := { fld 298 0x1800080 0 1 0 64 .upd .RO with wide := true }
-- Table 8-14: ACC_OVERFLOWS
def F.ACC_OVERFLOWS.COUNT : Fld := fld 299 0x1800088 0 1 0 32 .upd .RC
-- Table 8-14: ACC_TALLY_SAT
def F.ACC_TALLY_SAT.COUNT : Fld := fld 300 0x180008c 0 1 0 32 .upd .RC
-- Table 8-14: ACC_STRETCHES
def F.ACC_STRETCHES.COUNT : Fld := fld 301 0x1800090 0 1 0 32 .upd .RC
-- Table 8-14: ACC_FILLS
def F.ACC_FILLS.COUNT : Fld := fld 302 0x1800094 0 1 0 32 .upd .RC
-- Table 8-14: ACC_GAP_CYCLES
def F.ACC_GAP_CYCLES.COUNT : Fld := fld 303 0x1800098 0 1 0 32 .upd .RC
-- Table 8-14: ACC_ADDR_WAIT
def F.ACC_ADDR_WAIT.COUNT : Fld := fld 304 0x180009c 0 1 0 32 .upd .RC
-- Table 8-14: ACC_POISON
def F.ACC_POISON.COUNT : Fld := fld 305 0x18000a0 0 1 0 32 .upd .RC
-- Table 8-12: ACC_BANK_FLAGS
def F.ACC_BANK_FLAGS.STRETCH : Fld := fld 306 0x1800100 32 2 16 8 .upd .RO
def F.ACC_BANK_FLAGS.FLAGS : Fld := fld 307 0x1800100 32 2 0 8 .upd .RO
-- Table 8-13: ACC_BANK_OVF
def F.ACC_BANK_OVF.COUNT : Fld := fld 308 0x1800104 32 2 0 32 .upd .RO
-- Table 8-13: ACC_BANK_START
def F.ACC_BANK_START.FSI : Fld := { fld 309 0x1800108 32 2 0 64 .upd .RO with wide := true }
-- Table 8-13: ACC_BANK_END
def F.ACC_BANK_END.FSI : Fld := { fld 310 0x1800110 32 2 0 64 .upd .RO with wide := true }
-- Table 8-13: ACC_BANK_CYCLES
def F.ACC_BANK_CYCLES.COUNT : Fld := fld 311 0x1800118 32 2 0 32 .upd .RO
-- Table 8-13: ACC_BANK_EPOCH
def F.ACC_BANK_EPOCH.EPOCH : Fld := fld 312 0x180011c 32 2 0 32 .upd .RO
-- Table 9-5: PO_CURVE_SCALE
def F.PO_CURVE_SCALE.CSCALE : Fld := { fld 313 0x1801000 0 1 0 32 .E .RW with rst := fun _ => 0x3f800000, ok := fun _ v => !isNaN32 v }
-- Table 9-6: PO_DEVICE_TAG
def F.PO_DEVICE_TAG.TAG : Fld := { fld 314 0x1801008 0 1 0 64 .E .RW with wide := true }
-- Table 9-11: PO_ERR
def F.PO_ERR.BITS : Fld := fld 315 0x1801040 0 1 0 4 .upd .W1C
-- R24: PO_ERR_FIRST
def F.PO_ERR_FIRST.WORD : Fld := fld 316 0x1801044 0 1 0 32 .upd .RO
-- R24: PO_ERR_FIRST_TS
def F.PO_ERR_FIRST_TS.TS : Fld := { fld 317 0x1801048 0 1 0 64 .upd .RO with wide := true }
-- Table 9-12: PO_DUMPS
def F.PO_DUMPS.COUNT : Fld := fld 318 0x1801080 0 1 0 32 .upd .RC
-- Table 9-12: PO_ZEROED
def F.PO_ZEROED.COUNT : Fld := fld 319 0x1801084 0 1 0 32 .upd .RC
-- Table 9-12: PO_POISON
def F.PO_POISON.COUNT : Fld := fld 320 0x1801088 0 1 0 32 .upd .RC
-- Table 9-12: PO_REEXPORTS
def F.PO_REEXPORTS.COUNT : Fld := fld 321 0x180108c 0 1 0 32 .upd .RC
-- Table 9-7: PO_STREAM_CTL
def F.PO_STREAM_CTL.EN : Fld := fld 322 0x1801100 32 4 31 1 .E .RW
def F.PO_STREAM_CTL.ROUTE : Fld := { fld 323 0x1801100 32 4 29 2 .E .RW with ok := fun _ v => decide (v ≠ 3) }
def F.PO_STREAM_CTL.TYPE : Fld := { fld 324 0x1801100 32 4 26 3 .E .RW with rst := fun _ => 1, ok := fun _ v => decide (v ≤ 4) }
def F.PO_STREAM_CTL.TALLY : Fld := fld 325 0x1801100 32 4 25 1 .E .RW
def F.PO_STREAM_CTL.ROWSUM : Fld := fld 326 0x1801100 32 4 24 1 .E .RW
def F.PO_STREAM_CTL.PREVIEW : Fld := fld 327 0x1801100 32 4 23 1 .E .RW
def F.PO_STREAM_CTL.ZMASK : Fld := { fld 328 0x1801100 32 4 19 4 .E .RW with rst := fun _ => 2 }
def F.PO_STREAM_CTL.I16_EXP : Fld := { fld 329 0x1801100 32 4 8 8 .E .RW with ok := fun _ v => decide (v ≤ 63 ∨ 192 ≤ v) }
-- Table 9-8: PO_STREAM_RANGE
def F.PO_STREAM_RANGE.F_COUNT : Fld := { fld 330 0x1801104 32 4 16 16 .E .RW with rst := fun _ => 0x2000, ok := fun _ v => decide (1 ≤ v ∧ v ≤ 8192) }
def F.PO_STREAM_RANGE.F_LO : Fld := { fld 331 0x1801104 32 4 0 16 .E .RW with ok := fun _ v => decide (v ≤ 8191) }
-- Table 9-9: PO_STREAM_ETH
def F.PO_STREAM_ETH.HDR_IDX : Fld := fld 332 0x1801108 32 4 16 8 .E .RW
def F.PO_STREAM_ETH.MIRROR_PORT : Fld := { fld 333 0x1801108 32 4 14 2 .E .RW with rst := fun _ => 1 }
def F.PO_STREAM_ETH.PORT : Fld := fld 334 0x1801108 32 4 12 2 .E .RW
def F.PO_STREAM_ETH.PAYLOAD64 : Fld := { fld 335 0x1801108 32 4 0 8 .E .RW with rst := fun _ => 0x8c, ok := fun _ v => decide (4 ≤ v ∧ v ≤ 140) }
-- Table 9-10: PO_STREAM_STATUS
def F.PO_STREAM_STATUS.WAITING : Fld := fld 336 0x180110c 32 4 1 1 .upd .RO
def F.PO_STREAM_STATUS.BUSY : Fld := fld 337 0x180110c 32 4 0 1 .upd .RO
-- R215: PO_STREAM_BYTES
def F.PO_STREAM_BYTES.COUNT : Fld := { fld 338 0x1801110 32 4 0 64 .upd .RO with wide := true }
-- R215: PO_STREAM_FRAMES
def F.PO_STREAM_FRAMES.COUNT : Fld := fld 339 0x1801118 32 4 0 32 .upd .RC
-- Table 10-6: LENS_CFG
def F.LENS_CFG.GROUPS : Fld := { fld 340 0x1c00000 0 1 0 4 .E .RW with rst := fun _ => 0xf }
-- Table 10-7: LENS_REGIONS
def F.LENS_REGIONS.REORDER_REGION : Fld := fld 341 0x1c00004 0 1 16 5 .E .RW
def F.LENS_REGIONS.WTAB_REGION : Fld := fld 342 0x1c00004 0 1 8 5 .E .RW
def F.LENS_REGIONS.TAPER_REGION : Fld := fld 343 0x1c00004 0 1 0 5 .E .RW
-- Table 10-8: LENS_LOADED
def F.LENS_LOADED.LOADED : Fld := fld 344 0x1c00008 0 1 0 32 .upd .RO
-- Table 10-9: LENS_DIR_N
def F.LENS_DIR_N.N_CYC : Fld := fld 345 0x1c0000c 0 1 0 32 .upd .RO
-- Table 10-10: LENS_LOAD_HWM
def F.LENS_LOAD_HWM.CLOCKS : Fld := fld 346 0x1c00010 0 1 0 32 .upd .RC
-- Table 10-11: LENS_ERR
def F.LENS_ERR.BITS : Fld := fld 347 0x1c00020 0 1 0 5 .upd .W1C
-- R24: LENS_ERR_FIRST
def F.LENS_ERR_FIRST.WORD : Fld := fld 348 0x1c00024 0 1 0 32 .upd .RO
-- R24: LENS_ERR_FIRST_TS
def F.LENS_ERR_FIRST_TS.TS : Fld := { fld 349 0x1c00028 0 1 0 64 .upd .RO with wide := true }
-- Table 10-14: LENS_SAMPLES
def F.LENS_SAMPLES.COUNT : Fld := { fld 350 0x1c00040 0 1 0 64 .upd .RO with wide := true }
-- Table 10-14: LENS_OVERRUN
def F.LENS_OVERRUN.COUNT : Fld := fld 351 0x1c00048 0 1 0 32 .upd .RC
-- Table 10-14: LENS_OUT_SAT
def F.LENS_OUT_SAT.COUNT : Fld := fld 352 0x1c0004c 0 1 0 32 .upd .RC
-- Table 10-14: LENS_W_SAT
def F.LENS_W_SAT.COUNT : Fld := fld 353 0x1c00050 0 1 0 32 .upd .RC
-- Table 10-14: LENS_DIR_SAT
def F.LENS_DIR_SAT.COUNT : Fld := fld 354 0x1c00054 0 1 0 32 .upd .RC
-- Table 10-14: LENS_FETCH_WAIT
def F.LENS_FETCH_WAIT.COUNT : Fld := fld 355 0x1c00058 0 1 0 32 .upd .RC
-- Table 10-14: LENS_RING_DROP
def F.LENS_RING_DROP.COUNT : Fld := fld 356 0x1c0005c 0 1 0 32 .upd .RC
-- Table 10-12: LENS_RING_WR
def F.LENS_RING_WR.WR : Fld := fld 357 0x1c00100 8 16 0 32 .upd .RO
-- Table 10-13: LENS_RING_RD
def F.LENS_RING_RD.RD : Fld := { fld 358 0x1c00104 8 16 0 32 .imm .RW with ok := fun _ v => decide (v % 64 = 0) }
-- Table 11-9: EYE_REGIONS
def F.EYE_REGIONS.CAPTURE_REGION : Fld := fld 359 0x2000000 0 1 0 5 .E .RW
-- Table 11-10: EYE_CAP_CFG
def F.EYE_CAP_CFG.EN : Fld := fld 360 0x2000004 0 1 31 1 .E .RW
def F.EYE_CAP_CFG.ROUTE : Fld := fld 361 0x2000004 0 1 30 1 .E .RW
def F.EYE_CAP_CFG.CAP_PORT : Fld := fld 362 0x2000004 0 1 28 2 .E .RW
def F.EYE_CAP_CFG.CAP_HDR : Fld := fld 363 0x2000004 0 1 16 8 .E .RW
def F.EYE_CAP_CFG.POST : Fld := { fld 364 0x2000004 0 1 8 8 .E .RW with rst := fun _ => 4 }
def F.EYE_CAP_CFG.PRE : Fld := { fld 365 0x2000004 0 1 0 8 .E .RW with rst := fun _ => 4 }
-- Table 11-11: EYE_CAP_CTL
def F.EYE_CAP_CTL.RELEASE : Fld := fld 366 0x2000008 0 1 1 1 .imm .WO
def F.EYE_CAP_CTL.FORCE : Fld := fld 367 0x2000008 0 1 0 1 .imm .WO
-- Table 11-12: EYE_CAP_STATUS
def F.EYE_CAP_STATUS.H : Fld := fld 368 0x200000c 0 1 16 16 .upd .RO
def F.EYE_CAP_STATUS.TRUNCATED : Fld := fld 369 0x200000c 0 1 3 1 .upd .RO
def F.EYE_CAP_STATUS.STATE : Fld := fld 370 0x200000c 0 1 0 3 .upd .RO
-- R259: EYE_CAP_START
def F.EYE_CAP_START.OFFSET : Fld := { fld 371 0x2000010 0 1 0 64 .upd .RO with wide := true }
-- R259: EYE_CAP_LEN
def F.EYE_CAP_LEN.LENGTH : Fld := { fld 372 0x2000018 0 1 0 64 .upd .RO with wide := true }
-- Table 11-13: EYE_ERR
def F.EYE_ERR.BITS : Fld := fld 373 0x2000040 0 1 0 6 .upd .W1C
-- R24: EYE_ERR_FIRST
def F.EYE_ERR_FIRST.WORD : Fld := fld 374 0x2000044 0 1 0 32 .upd .RO
-- R24: EYE_ERR_FIRST_TS
def F.EYE_ERR_FIRST_TS.TS : Fld := { fld 375 0x2000048 0 1 0 64 .upd .RO with wide := true }
-- Table 11-17: EYE_FRAMES
def F.EYE_FRAMES.COUNT : Fld := fld 376 0x2000080 0 1 0 32 .upd .RC
-- Table 11-17: EYE_BEAM_DROP
def F.EYE_BEAM_DROP.COUNT : Fld := fld 377 0x2000084 0 1 0 32 .upd .RC
-- Table 11-17: EYE_IN_OVERRUN
def F.EYE_IN_OVERRUN.COUNT : Fld := fld 378 0x2000088 0 1 0 32 .upd .RC
-- Table 11-17: EYE_INT_SAT
def F.EYE_INT_SAT.COUNT : Fld := fld 379 0x200008c 0 1 0 32 .upd .RC
-- Table 11-17: EYE_SETTLE_SUPP
def F.EYE_SETTLE_SUPP.COUNT : Fld := fld 380 0x2000090 0 1 0 32 .upd .RC
-- Table 11-17: EYE_TRIGGERS
def F.EYE_TRIGGERS.COUNT : Fld := fld 381 0x2000094 0 1 0 32 .upd .RC
-- Table 11-17: EYE_CAPTURES
def F.EYE_CAPTURES.COUNT : Fld := fld 382 0x2000098 0 1 0 32 .upd .RC
-- Table 11-17: EYE_CAP_COVERED
def F.EYE_CAP_COVERED.COUNT : Fld := fld 383 0x200009c 0 1 0 32 .upd .RC
-- Table 11-17: EYE_CAP_MISSED
def F.EYE_CAP_MISSED.COUNT : Fld := fld 384 0x20000a0 0 1 0 32 .upd .RC
-- Table 11-14: EYE_RING_EXP
def F.EYE_RING_EXP.EN : Fld := fld 385 0x2000100 4 16 31 1 .E .RW
def F.EYE_RING_EXP.PORT : Fld := fld 386 0x2000100 4 16 8 2 .E .RW
def F.EYE_RING_EXP.HDR_IDX : Fld := fld 387 0x2000100 4 16 0 8 .E .RW
-- Table 11-15: EYE_PROF_CTL
def F.EYE_PROF_CTL.OUT_EN : Fld := fld 388 0x2001000 64 64 31 1 .E .RW
def F.EYE_PROF_CTL.PORT : Fld := fld 389 0x2001000 64 64 29 2 .E .RW
def F.EYE_PROF_CTL.THR_EN : Fld := fld 390 0x2001000 64 64 28 1 .E .RW
def F.EYE_PROF_CTL.THR_DIR : Fld := fld 391 0x2001000 64 64 27 1 .E .RW
def F.EYE_PROF_CTL.THR_COMP : Fld := fld 392 0x2001000 64 64 25 2 .E .RW
def F.EYE_PROF_CTL.RS_EN : Fld := fld 393 0x2001000 64 64 24 1 .E .RW
def F.EYE_PROF_CTL.FSET : Fld := fld 394 0x2001000 64 64 22 2 .E .RW
def F.EYE_PROF_CTL.STAGES : Fld := { fld 395 0x2001000 64 64 19 3 .E .RW with ok := fun _ v => decide (v ≤ 4) }
def F.EYE_PROF_CTL.DETECT : Fld := fld 396 0x2001000 64 64 16 1 .E .RW
def F.EYE_PROF_CTL.HDR_IDX : Fld := fld 397 0x2001000 64 64 8 8 .E .RW
def F.EYE_PROF_CTL.SH : Fld := fld 398 0x2001000 64 64 0 8 .E .RW
-- Table 11-16: EYE_PROF_NINT
def F.EYE_PROF_NINT.N_INT : Fld := { fld 399 0x2001004 64 64 0 24 .E .RW with rst := fun _ => 1, ok := fun _ v => decide (v ≠ 0) }
-- Table 11-16: EYE_PROF_STEP
def F.EYE_PROF_STEP.STEP : Fld := { fld 400 0x2001008 64 64 0 48 .E .RW with wide := true, rst := fun _ => 0x100000000, ok := fun _ v => decide (2 ^ 30 ≤ v) }
-- Table 11-16: EYE_PROF_THI
def F.EYE_PROF_THI.THI : Fld := { fld 401 0x2001010 64 64 0 32 .E .RW with rst := fun _ => 0x7f800000, ok := fun _ v => !isNaN32 v }
-- Table 11-16: EYE_PROF_TLO
def F.EYE_PROF_TLO.TLO : Fld := { fld 402 0x2001014 64 64 0 32 .E .RW with rst := fun _ => 0x7f800000, ok := fun _ v => !isNaN32 v }
-- Table 11-16: EYE_PROF_DECAY
def F.EYE_PROF_DECAY.DECAY : Fld := { fld 403 0x2001018 64 64 0 32 .E .RW with rst := fun _ => 0x3f800000, ok := fun _ v => decide (v ≤ 0x3F800000 ∨ v = 0x80000000) }
-- Table 11-16: EYE_PROF_REPORT
def F.EYE_PROF_REPORT.REPORT_N : Fld := { fld 404 0x200101c 64 64 0 12 .E .RW with rst := fun _ => 0x400, ok := fun _ v => decide (1 ≤ v ∧ v ≤ 2048) }
-- Table 12-3: TR_CFG
def F.TR_CFG.EN : Fld := fld 405 0x2400000 0 1 31 1 .E .RW
def F.TR_CFG.NODES : Fld := { fld 406 0x2400000 0 1 16 9 .E .RW with rst := fun _ => 1, ok := fun _ v => decide (1 ≤ v ∧ v ≤ 256) }
def F.TR_CFG.NODE_ID : Fld := fld 407 0x2400000 0 1 0 8 .E .RW
-- Table 12-4: TR_TREE
def F.TR_TREE.UDP_PORT : Fld := fld 408 0x2400004 0 1 16 16 .E .RW
def F.TR_TREE.TREE_ID : Fld := fld 409 0x2400004 0 1 0 16 .E .RW
-- Table 12-5: TR_LINK
def F.TR_LINK.ROOT_HDR : Fld := fld 410 0x2400008 0 1 24 8 .E .RW
def F.TR_LINK.ROOT_PORT : Fld := fld 411 0x2400008 0 1 16 2 .E .RW
def F.TR_LINK.UP_HDR : Fld := fld 412 0x2400008 0 1 8 8 .E .RW
def F.TR_LINK.UP_PORT : Fld := fld 413 0x2400008 0 1 0 2 .E .RW
-- Table 12-6: TR_DEADLINE
def F.TR_DEADLINE.DEADLINE : Fld := { fld 414 0x240000c 0 1 0 20 .E .RW with rst := fun _ => 0x3e8, ok := fun _ v => decide (v ≠ 0) }
-- Table 12-7: TR_REGIONS
def F.TR_REGIONS.HOLD_REGION : Fld := fld 415 0x2400010 0 1 0 5 .E .RW
-- Table 12-8: TR_STATUS
def F.TR_STATUS.SUBTREE : Fld := { fld 416 0x2400014 0 1 16 9 .upd .RO with rst := fun _ => 1 }
def F.TR_STATUS.RIGHT : Fld := fld 417 0x2400014 0 1 2 1 .upd .RO
def F.TR_STATUS.LEFT : Fld := fld 418 0x2400014 0 1 1 1 .upd .RO
def F.TR_STATUS.ROOT : Fld := { fld 419 0x2400014 0 1 0 1 .upd .RO with rst := fun _ => 1 }
-- Table 12-9: TR_ERR
def F.TR_ERR.BITS : Fld := fld 420 0x2400020 0 1 0 9 .upd .W1C
-- R24: TR_ERR_FIRST
def F.TR_ERR_FIRST.WORD : Fld := fld 421 0x2400024 0 1 0 32 .upd .RO
-- R24: TR_ERR_FIRST_TS
def F.TR_ERR_FIRST_TS.TS : Fld := { fld 422 0x2400028 0 1 0 64 .upd .RO with wide := true }
-- Table 12-10: TR_UNITS
def F.TR_UNITS.COUNT : Fld := { fld 423 0x2400040 0 1 0 64 .upd .RO with wide := true }
-- Table 12-10: TR_CHILD_MISS
def F.TR_CHILD_MISS.COUNT : Fld := fld 424 0x2400048 0 1 0 32 .upd .RC
-- Table 12-10: TR_LATE
def F.TR_LATE.COUNT : Fld := fld 425 0x240004c 0 1 0 32 .upd .RC
-- Table 12-10: TR_UNKNOWN
def F.TR_UNKNOWN.COUNT : Fld := fld 426 0x2400050 0 1 0 32 .upd .RC
-- Table 12-10: TR_MISMATCH
def F.TR_MISMATCH.COUNT : Fld := fld 427 0x2400054 0 1 0 32 .upd .RC
-- Table 12-10: TR_SEQ_GAP
def F.TR_SEQ_GAP.COUNT : Fld := fld 428 0x2400058 0 1 0 32 .upd .RC
-- Table 12-10: TR_HOLD_FULL
def F.TR_HOLD_FULL.COUNT : Fld := fld 429 0x240005c 0 1 0 32 .upd .RC
-- Table 12-10: TR_TX_DROP
def F.TR_TX_DROP.COUNT : Fld := fld 430 0x2400060 0 1 0 32 .upd .RC
-- Table 12-10: TR_SAT
def F.TR_SAT.COUNT : Fld := fld 431 0x2400064 0 1 0 32 .upd .RC
-- Table 12-10: TR_ROOT_DROP
def F.TR_ROOT_DROP.COUNT : Fld := fld 432 0x2400068 0 1 0 32 .upd .RC
-- Table 15-4: ETH_CFG
def F.ETH_CFG.HOST_EN : Fld := { fld 433 0x2800000 65536 4 15 1 .S .RW with rst := fun _ => 1 }
def F.ETH_CFG.ACCEPT_MCAST : Fld := { fld 434 0x2800000 65536 4 14 1 .S .RW with rst := fun _ => 1 }
def F.ETH_CFG.PROMISC : Fld := fld 435 0x2800000 65536 4 13 1 .S .RW
def F.ETH_CFG.ONE_STEP : Fld := { fld 436 0x2800000 65536 4 12 1 .frame .RW with rst := fun _ => 1 }
def F.ETH_CFG.ADD_FRAG : Fld := fld 437 0x2800000 65536 4 8 2 .S .RW
def F.ETH_CFG.VERIFY_DIS : Fld := fld 438 0x2800000 65536 4 7 1 .S .RW
def F.ETH_CFG.PREEMPT_EN : Fld := { fld 439 0x2800000 65536 4 6 1 .S .RW with rst := fun _ => 1 }
-- Table 15-5: ETH_STATUS
def F.ETH_STATUS.TSQ_COUNT : Fld := fld 440 0x2800004 65536 4 16 7 .upd .RO
def F.ETH_STATUS.VERIFY : Fld := fld 441 0x2800004 65536 4 8 2 .upd .RO
def F.ETH_STATUS.PREEMPT_ACTIVE : Fld := fld 442 0x2800004 65536 4 7 1 .upd .RO
def F.ETH_STATUS.HI_SER : Fld := fld 443 0x2800004 65536 4 3 1 .upd .RO
def F.ETH_STATUS.REMOTE_FAULT : Fld := fld 444 0x2800004 65536 4 2 1 .upd .RO
def F.ETH_STATUS.LOCAL_FAULT : Fld := { fld 445 0x2800004 65536 4 1 1 .upd .RO with rst := fun _ => 1 }
def F.ETH_STATUS.LINK_UP : Fld := fld 446 0x2800004 65536 4 0 1 .upd .RO
-- Table 15-6: ETH_MAC_ADDR
def F.ETH_MAC_ADDR.ADDR : Fld := { fld 447 0x2800008 65536 4 0 48 .S .RW with wide := true }
-- Table 15-7: ETH_TX_THRESH
def F.ETH_TX_THRESH.CUR : Fld := { fld 448 0x2800010 65536 4 8 6 .upd .RO with rst := fun _ => 8 }
def F.ETH_TX_THRESH.BASE : Fld := { fld 449 0x2800010 65536 4 0 6 .frame .RW with rst := fun _ => 8, ok := fun _ v => decide (1 ≤ v ∧ v ≤ 38) }
-- Table 15-8: ETH_ERR
def F.ETH_ERR.BITS : Fld := fld 450 0x2800020 65536 4 0 8 .upd .W1C
-- R24: ETH_ERR_FIRST
def F.ETH_ERR_FIRST.WORD : Fld := fld 451 0x2800024 65536 4 0 32 .upd .RO
-- R24: ETH_ERR_FIRST_TS
def F.ETH_ERR_FIRST_TS.TS : Fld := { fld 452 0x2800028 65536 4 0 64 .upd .RO with wide := true }
-- R336: ETH_TSQ_NS
def F.ETH_TSQ_NS.VALID : Fld := fld 453 0x2800030 65536 4 31 1 .upd .RO
def F.ETH_TSQ_NS.NS : Fld := fld 454 0x2800030 65536 4 0 30 .upd .RO
-- R336: ETH_TSQ_INFO
def F.ETH_TSQ_INFO.HOLDOVER : Fld := fld 455 0x2800034 65536 4 31 1 .upd .RO
def F.ETH_TSQ_INFO.MSG_TYPE : Fld := fld 456 0x2800034 65536 4 24 4 .upd .RO
def F.ETH_TSQ_INFO.DOMAIN : Fld := fld 457 0x2800034 65536 4 16 8 .upd .RO
def F.ETH_TSQ_INFO.SEQ_ID : Fld := fld 458 0x2800034 65536 4 0 16 .upd .RO
-- R336: ETH_TSQ_FRAC
def F.ETH_TSQ_FRAC.FRAC : Fld := fld 459 0x2800038 65536 4 0 16 .upd .RO
-- R336: ETH_TSQ_SEC
def F.ETH_TSQ_SEC.SEC : Fld := { fld 460 0x280003c 65536 4 0 48 .upd .RO with wide := true }
-- Table 15-9: ETH_TX_FRAMES
def F.ETH_TX_FRAMES.COUNT : Fld := { fld 461 0x2800080 65536 4 0 64 .upd .RO with wide := true }
-- Table 15-9: ETH_TX_BYTES
def F.ETH_TX_BYTES.COUNT : Fld := { fld 462 0x2800088 65536 4 0 64 .upd .RO with wide := true }
-- Table 15-9: ETH_RX_FRAMES
def F.ETH_RX_FRAMES.COUNT : Fld := { fld 463 0x2800090 65536 4 0 64 .upd .RO with wide := true }
-- Table 15-9: ETH_RX_BYTES
def F.ETH_RX_BYTES.COUNT : Fld := { fld 464 0x2800098 65536 4 0 64 .upd .RO with wide := true }
-- Table 15-9: ETH_TX_UNDERRUN
def F.ETH_TX_UNDERRUN.COUNT : Fld := fld 465 0x28000a0 65536 4 0 32 .upd .RC
-- Table 15-9: ETH_TX_DISCARD
def F.ETH_TX_DISCARD.COUNT : Fld := fld 466 0x28000a4 65536 4 0 32 .upd .RC
-- Table 15-9: ETH_TX_EXPRESS
def F.ETH_TX_EXPRESS.COUNT : Fld := fld 467 0x28000a8 65536 4 0 32 .upd .RC
-- Table 15-9: ETH_PREEMPTIONS
def F.ETH_PREEMPTIONS.COUNT : Fld := fld 468 0x28000ac 65536 4 0 32 .upd .RC
-- Table 15-9: ETH_RX_FCS_ERR
def F.ETH_RX_FCS_ERR.COUNT : Fld := fld 469 0x28000b0 65536 4 0 32 .upd .RC
-- Table 15-9: ETH_RX_OVERSIZE
def F.ETH_RX_OVERSIZE.COUNT : Fld := fld 470 0x28000b4 65536 4 0 32 .upd .RC
-- Table 15-9: ETH_RX_UNDERSIZE
def F.ETH_RX_UNDERSIZE.COUNT : Fld := fld 471 0x28000b8 65536 4 0 32 .upd .RC
-- Table 15-9: ETH_RX_OVERFLOW
def F.ETH_RX_OVERFLOW.COUNT : Fld := fld 472 0x28000bc 65536 4 0 32 .upd .RC
-- Table 15-9: ETH_RX_CTRL
def F.ETH_RX_CTRL.COUNT : Fld := fld 473 0x28000c0 65536 4 0 32 .upd .RC
-- Table 15-9: ETH_RX_IP_ERR
def F.ETH_RX_IP_ERR.COUNT : Fld := fld 474 0x28000c4 65536 4 0 32 .upd .RC
-- Table 15-9: ETH_RX_TRELLIS
def F.ETH_RX_TRELLIS.COUNT : Fld := fld 475 0x28000c8 65536 4 0 32 .upd .RC
-- Table 15-9: ETH_RX_FILTERED
def F.ETH_RX_FILTERED.COUNT : Fld := fld 476 0x28000cc 65536 4 0 32 .upd .RC
-- Table 15-9: ETH_RX_RING_DROP
def F.ETH_RX_RING_DROP.COUNT : Fld := fld 477 0x28000d0 65536 4 0 32 .upd .RC
-- Table 15-9: ETH_TS_DROP
def F.ETH_TS_DROP.COUNT : Fld := fld 478 0x28000d4 65536 4 0 32 .upd .RC
-- Table 15-9: ETH_FEC_CORR_CW
def F.ETH_FEC_CORR_CW.COUNT : Fld := fld 479 0x28000d8 65536 4 0 32 .upd .RC
-- Table 15-9: ETH_FEC_UNCORR_CW
def F.ETH_FEC_UNCORR_CW.COUNT : Fld := fld 480 0x28000dc 65536 4 0 32 .upd .RC
-- Table 15-9: ETH_LINK_DOWN_CNT
def F.ETH_LINK_DOWN_CNT.COUNT : Fld := fld 481 0x28000e0 65536 4 0 32 .upd .RC
-- Table 15-3: ETH_TS_CORR
def F.ETH_TS_CORR.RX_CORR : Fld := { fld 482 0x2840000 0 1 16 16 .S .RO with rst := fun _ => 0x6180 }
def F.ETH_TS_CORR.TX_CORR : Fld := { fld 483 0x2840000 0 1 0 16 .S .RO with rst := fun _ => 0x4800 }
-- Table 14-5: SD_CFG
def F.SD_CFG.FREQ_WIN : Fld := { fld 484 0x2c00000 0 1 24 8 .second .RW with rst := fun _ => 0x32, ok := fun _ v => decide (v ≠ 0) }
def F.SD_CFG.QUAL_TIME : Fld := { fld 485 0x2c00000 0 1 16 8 .second .RW with rst := fun _ => 0xa, ok := fun _ v => decide (v ≠ 0) }
def F.SD_CFG.REVERTIVE : Fld := { fld 486 0x2c00000 0 1 8 1 .imm .RW with rst := fun _ => 1 }
def F.SD_CFG.ACQ_BW : Fld := { fld 487 0x2c00000 0 1 4 4 .second .RW with rst := fun _ => 8, ok := fun _ v => decide (v ≤ 13) }
def F.SD_CFG.LOOP_BW : Fld := { fld 488 0x2c00000 0 1 0 4 .second .RW with rst := fun _ => 6, ok := fun _ v => decide (v ≤ 13) }
-- Table 14-6: SD_TIMERS
def F.SD_TIMERS.HIST : Fld := { fld 489 0x2c00004 0 1 16 12 .second .RW with rst := fun _ => 0x258, ok := fun _ v => decide (10 ≤ v ∧ v ≤ 3600) }
def F.SD_TIMERS.WTR : Fld := { fld 490 0x2c00004 0 1 0 12 .imm .RW with rst := fun _ => 0x12c, ok := fun _ v => decide (v ≤ 3600) }
-- Table 14-7: SD_THRESH
def F.SD_THRESH.LOCK_THR : Fld := { fld 491 0x2c00008 0 1 24 8 .imm .RW with rst := fun _ => 0x14, ok := fun _ v => decide (v ≠ 0) }
def F.SD_THRESH.AGREE : Fld := { fld 492 0x2c00008 0 1 16 8 .imm .RW with rst := fun _ => 0xa, ok := fun _ v => decide (v ≠ 0) }
def F.SD_THRESH.PJ_THR : Fld := { fld 493 0x2c00008 0 1 0 14 .imm .RW with rst := fun _ => 0x64, ok := fun _ v => decide (1 ≤ v ∧ v ≤ 10000) }
-- Table 14-8: SD_SLEW
def F.SD_SLEW.RATE : Fld := { fld 494 0x2c0000c 0 1 0 17 .imm .RW with rst := fun _ => 0x3e8, ok := fun _ v => decide (1 ≤ v ∧ v ≤ 100000) }
-- Table 14-9: SD_SEL
def F.SD_SEL.FORCE_EN : Fld := fld 495 0x2c00010 0 1 8 1 .imm .RW
def F.SD_SEL.FORCE_REF : Fld := fld 496 0x2c00010 0 1 0 2 .imm .RW
-- Table 14-10: SD_STATUS
def F.SD_STATUS.QUALIFIED : Fld := fld 497 0x2c00014 0 1 24 4 .upd .RO
def F.SD_STATUS.DISAGREE_NOSEL : Fld := fld 498 0x2c00014 0 1 13 1 .upd .RO
def F.SD_STATUS.ALARM : Fld := { fld 499 0x2c00014 0 1 12 1 .upd .RO with rst := fun _ => 1 }
def F.SD_STATUS.WTR_RUN : Fld := fld 500 0x2c00014 0 1 11 1 .upd .RO
def F.SD_STATUS.SLEWING : Fld := fld 501 0x2c00014 0 1 10 1 .upd .RO
def F.SD_STATUS.HIST_VALID : Fld := fld 502 0x2c00014 0 1 9 1 .upd .RO
def F.SD_STATUS.DISAGREE : Fld := fld 503 0x2c00014 0 1 8 1 .upd .RO
def F.SD_STATUS.TRACEABLE : Fld := fld 504 0x2c00014 0 1 7 1 .upd .RO
def F.SD_STATUS.SEL_VALID : Fld := fld 505 0x2c00014 0 1 6 1 .upd .RO
def F.SD_STATUS.SELECTED : Fld := fld 506 0x2c00014 0 1 4 2 .upd .RO
def F.SD_STATUS.STATE : Fld := fld 507 0x2c00014 0 1 0 3 .upd .RO
-- Table 14-11: SD_PHASE_ERR
def F.SD_PHASE_ERR.ERR : Fld := fld 508 0x2c00018 0 1 0 32 .upd .RO
-- Table 14-11: SD_FREQ_OFS
def F.SD_FREQ_OFS.OFS : Fld := fld 509 0x2c0001c 0 1 0 32 .upd .RO
-- Table 14-11: SD_TIME_NS
def F.SD_TIME_NS.NS : Fld := fld 510 0x2c00020 0 1 0 30 .upd .RO
-- Table 14-11: SD_TIME_FRAC
def F.SD_TIME_FRAC.FRAC : Fld := fld 511 0x2c00024 0 1 0 16 .upd .RO
-- Table 14-11: SD_TIME_SEC
def F.SD_TIME_SEC.SEC : Fld := { fld 512 0x2c00028 0 1 0 64 .upd .RO with wide := true }
-- Table 14-11: SD_TOD_SET
def F.SD_TOD_SET.SEC : Fld := { fld 513 0x2c00030 0 1 0 64 .imm .RW with wide := true }
-- Table 14-11: SD_STEP
def F.SD_STEP.STEP : Fld := { fld 514 0x2c00038 0 1 0 64 .imm .RW with wide := true, ok := fun _ v => decide (v ≤ 2 ^ 47 ∨ 2 ^ 64 - 2 ^ 47 ≤ v) }
-- Table 14-12: SD_STEP_CTL
def F.SD_STEP_CTL.MODE : Fld := fld 515 0x2c00040 0 1 1 1 .imm .RW
def F.SD_STEP_CTL.GO : Fld := fld 516 0x2c00040 0 1 0 1 .imm .WO
-- Table 14-11: SD_OFFSET
def F.SD_OFFSET.OFFSET : Fld := { fld 517 0x2c00048 0 1 0 64 .upd .RO with wide := true }
-- Table 14-11: SD_SLEW_REMAIN
def F.SD_SLEW_REMAIN.REMAIN : Fld := { fld 518 0x2c00050 0 1 0 64 .upd .RO with wide := true }
-- Table 14-11: SD_VIRT_FREQ
def F.SD_VIRT_FREQ.FREQ : Fld := fld 519 0x2c00058 0 1 0 32 .imm .RW
-- Table 14-13: SD_VIRT_CFG
def F.SD_VIRT_CFG.TIMEOUT : Fld := { fld 520 0x2c0005c 0 1 0 8 .imm .RW with rst := fun _ => 4, ok := fun _ v => decide (v ≠ 0) }
-- Table 14-14: SD_ERR
def F.SD_ERR.BITS : Fld := fld 521 0x2c00060 0 1 0 8 .upd .W1C
-- R24: SD_ERR_FIRST
def F.SD_ERR_FIRST.WORD : Fld := fld 522 0x2c00064 0 1 0 32 .upd .RO
-- R24: SD_ERR_FIRST_TS
def F.SD_ERR_FIRST_TS.TS : Fld := { fld 523 0x2c00068 0 1 0 64 .upd .RO with wide := true }
-- Table 14-15: SD_REF_CFG
def F.SD_REF_CFG.EN : Fld := fld 524 0x2c00080 16 4 31 1 .imm .RW
def F.SD_REF_CFG.PPS_EN : Fld := fld 525 0x2c00080 16 4 30 1 .imm .RW
def F.SD_REF_CFG.FREQ_KHZ : Fld := { fld 526 0x2c00080 16 4 8 18 .imm .RW with rst := fun _ => 0x2710, ok := fun k v => decide (2 ≤ k ∨ (1000 ≤ v ∧ v ≤ 100000)) }
def F.SD_REF_CFG.RANK : Fld := { fld 527 0x2c00080 16 4 0 4 .imm .RW with rst := fun _ => 0xf }
-- R314: SD_REF_DELAY
def F.SD_REF_DELAY.DELAY_PS : Fld := fld 528 0x2c00084 16 4 0 32 .imm .RW
-- R314: SD_REF_STATUS
def F.SD_REF_STATUS.QUAL_TIMER : Fld := fld 529 0x2c00088 16 4 24 8 .upd .RO
def F.SD_REF_STATUS.PJ : Fld := fld 530 0x2c00088 16 4 3 1 .upd .RO
def F.SD_REF_STATUS.FREQ_OK : Fld := fld 531 0x2c00088 16 4 2 1 .upd .RO
def F.SD_REF_STATUS.ACTIVE : Fld := fld 532 0x2c00088 16 4 1 1 .upd .RO
def F.SD_REF_STATUS.QUALIFIED : Fld := fld 533 0x2c00088 16 4 0 1 .upd .RO
-- R314: SD_REF_FREQ
def F.SD_REF_FREQ.FREQ : Fld := fld 534 0x2c0008c 16 4 0 32 .upd .RO
-- Table 14-16: SD_CLKOUT
def F.SD_CLKOUT.EN : Fld := fld 535 0x2c000c0 4 2 31 1 .imm .RW
def F.SD_CLKOUT.FREQ : Fld := { fld 536 0x2c000c0 4 2 0 28 .second .RW with rst := fun _ => 0x989680 }
-- Table 14-17: SD_TIN_CFG
def F.SD_TIN_CFG.FILTER : Fld := { fld 537 0x2c000d0 4 4 8 8 .imm .RW with rst := fun _ => 0xa }
def F.SD_TIN_CFG.EDGE : Fld := fld 538 0x2c000d0 4 4 0 2 .imm .RW
-- R314: SD_CAPQ_STATUS
def F.SD_CAPQ_STATUS.COUNT : Fld := fld 539 0x2c000e0 0 1 0 7 .upd .RO
-- R314: SD_CAPQ_NS
def F.SD_CAPQ_NS.VALID : Fld := fld 540 0x2c000e4 0 1 31 1 .upd .RO
def F.SD_CAPQ_NS.NS : Fld := fld 541 0x2c000e4 0 1 0 30 .upd .RO
-- R314: SD_CAPQ_INFO
def F.SD_CAPQ_INFO.HOLDOVER : Fld := fld 542 0x2c000e8 0 1 19 1 .upd .RO
def F.SD_CAPQ_INFO.EDGE : Fld := fld 543 0x2c000e8 0 1 18 1 .upd .RO
def F.SD_CAPQ_INFO.PIN : Fld := fld 544 0x2c000e8 0 1 16 2 .upd .RO
def F.SD_CAPQ_INFO.FRAC : Fld := fld 545 0x2c000e8 0 1 0 16 .upd .RO
-- R314: SD_CAPQ_SEC
def F.SD_CAPQ_SEC.SEC : Fld := { fld 546 0x2c000ec 0 1 0 64 .upd .RO with wide := true }
-- R314: SD_SWITCHES
def F.SD_SWITCHES.COUNT : Fld := fld 547 0x2c00100 0 1 0 32 .upd .RC
-- R314: SD_DISQUALS
def F.SD_DISQUALS.COUNT : Fld := fld 548 0x2c00104 0 1 0 32 .upd .RC
-- R314: SD_HOLDOVERS
def F.SD_HOLDOVERS.COUNT : Fld := fld 549 0x2c00108 0 1 0 32 .upd .RC
-- R314: SD_CAP_DROP
def F.SD_CAP_DROP.COUNT : Fld := fld 550 0x2c0010c 0 1 0 32 .upd .RC
-- R314: SD_EV_FIRED
def F.SD_EV_FIRED.COUNT : Fld := fld 551 0x2c00110 0 1 0 32 .upd .RC
-- R316: SD_EV_NS
def F.SD_EV_NS.NS : Fld := fld 552 0x2c00400 32 64 0 30 .imm .RW
-- R316: SD_EV_SEC
def F.SD_EV_SEC.SEC : Fld := { fld 553 0x2c00404 32 64 0 64 .imm .RW with wide := true }
-- R316: SD_EV_PERIOD
def F.SD_EV_PERIOD.PERIOD : Fld := { fld 554 0x2c0040c 32 64 0 64 .imm .RW with wide := true }
-- Table 14-18: SD_EV_CTL
def F.SD_EV_CTL.ARM : Fld := fld 555 0x2c00414 32 64 31 1 .imm .RW
def F.SD_EV_CTL.ACTION : Fld := { fld 556 0x2c00414 32 64 24 3 .imm .RW with ok := fun _ v => decide (v ≤ 4) }
def F.SD_EV_CTL.PINS : Fld := fld 557 0x2c00414 32 64 16 4 .imm .RW
def F.SD_EV_CTL.WIDTH : Fld := { fld 558 0x2c00414 32 64 0 16 .imm .RW with rst := fun _ => 1, ok := fun _ v => decide (v ≠ 0) }
-- R316: SD_EV_LEAD
def F.SD_EV_LEAD.LEAD : Fld := fld 559 0x2c00418 32 64 0 24 .imm .RW
-- R316: SD_EV_STATUS
def F.SD_EV_STATUS.FIRES : Fld := fld 560 0x2c0041c 32 64 16 16 .upd .RC
def F.SD_EV_STATUS.LATE : Fld := fld 561 0x2c0041c 32 64 0 1 .upd .W1C
-- Table 13-6: LODGE_CFG
def F.LODGE_CFG.AUDIT_RETIRE : Fld := { fld 562 0x3000000 0 1 1 1 .S .RW with rst := fun _ => 1 }
def F.LODGE_CFG.HEALTH_EVT : Fld := { fld 563 0x3000000 0 1 0 1 .imm .RW with rst := fun _ => 1 }
-- Table 13-7: LODGE_STATUS
def F.LODGE_STATUS.SUSPECT_OPEN : Fld := fld 564 0x3000004 0 1 16 8 .upd .RO
def F.LODGE_STATUS.FAULT : Fld := fld 565 0x3000004 0 1 9 1 .upd .RO
def F.LODGE_STATUS.COVERED : Fld := fld 566 0x3000004 0 1 8 1 .upd .RO
def F.LODGE_STATUS.COVERAGE : Fld := { fld 567 0x3000004 0 1 0 6 .upd .RO with rst := fun _ => 0x20 }
-- Table 13-8: LODGE_ERR
def F.LODGE_ERR.BITS : Fld := fld 568 0x3000020 0 1 0 13 .upd .W1C
-- R24: LODGE_ERR_FIRST
def F.LODGE_ERR_FIRST.WORD : Fld := fld 569 0x3000024 0 1 0 32 .upd .RO
-- R24: LODGE_ERR_FIRST_TS
def F.LODGE_ERR_FIRST_TS.TS : Fld := { fld 570 0x3000028 0 1 0 64 .upd .RO with wide := true }
-- Table 13-10: LODGE_KAT_PASS
def F.LODGE_KAT_PASS.COUNT : Fld := fld 571 0x3000040 0 1 0 32 .upd .RC
-- Table 13-10: LODGE_KAT_FAIL
def F.LODGE_KAT_FAIL.COUNT : Fld := fld 572 0x3000044 0 1 0 32 .upd .RC
-- Table 13-10: LODGE_KAT_OVERDUE
def F.LODGE_KAT_OVERDUE.COUNT : Fld := fld 573 0x3000048 0 1 0 32 .upd .RC
-- Table 13-10: LODGE_AUDIT_MISM
def F.LODGE_AUDIT_MISM.COUNT : Fld := fld 574 0x300004c 0 1 0 32 .upd .RC
-- Table 13-10: LODGE_AUDIT_FAULT
def F.LODGE_AUDIT_FAULT.COUNT : Fld := fld 575 0x3000050 0 1 0 32 .upd .RC
-- Table 13-10: LODGE_REFEREE
def F.LODGE_REFEREE.COUNT : Fld := fld 576 0x3000054 0 1 0 32 .upd .RC
-- Table 13-10: LODGE_SRAM_CORR
def F.LODGE_SRAM_CORR.COUNT : Fld := fld 577 0x3000058 0 1 0 32 .upd .RC
-- Table 13-10: LODGE_SRAM_UNCORR
def F.LODGE_SRAM_UNCORR.COUNT : Fld := fld 578 0x300005c 0 1 0 32 .upd .RC
-- Table 13-10: LODGE_HEALTH
def F.LODGE_HEALTH.COUNT : Fld := fld 579 0x3000060 0 1 0 32 .upd .RC
-- Table 13-9: LODGE_AUDIT
def F.LODGE_AUDIT.G : Fld := { fld 580 0x3000400 8 128 0 64 .upd .RO with wide := true }
-- Table 18-5: BELV_CTL
def F.BELV_CTL.FREEZE : Fld := fld 581 0x3400000 0 1 1 1 .imm .RW
def F.BELV_CTL.CLEAR_ALL : Fld := fld 582 0x3400000 0 1 0 1 .imm .WO
-- Table 18-8: BELV_USER_EN
def F.BELV_USER_EN.GROUPS : Fld := fld 583 0x3400004 0 1 0 16 .imm .RW
-- Table 18-8: BELV_STATUS
def F.BELV_STATUS.FROZEN : Fld := fld 584 0x3400008 0 1 0 1 .upd .RO
-- Table 18-6: BELV_TS_CFG
def F.BELV_TS_CFG.EN : Fld := fld 585 0x3400010 0 1 31 1 .imm .RW
def F.BELV_TS_CFG.REGION : Fld := fld 586 0x3400010 0 1 24 5 .S .RW
def F.BELV_TS_CFG.MASTERS : Fld := { fld 587 0x3400010 0 1 0 11 .S .RW with rst := fun _ => 0x5ff }
-- Table 18-8: BELV_TS_PERIOD
def F.BELV_TS_PERIOD.S : Fld := { fld 588 0x3400014 0 1 0 21 .S .RW with rst := fun _ => 0x400, ok := fun _ v => decide (1 ≤ v ∧ v ≤ 1048576) }
-- Table 18-8: BELV_TRACE_WR
def F.BELV_TRACE_WR.WR : Fld := fld 589 0x3400018 0 1 0 30 .upd .RO
-- Table 18-8: BELV_TRACE_RD
def F.BELV_TRACE_RD.RD : Fld := { fld 590 0x340001c 0 1 0 30 .imm .RW with ok := fun _ v => decide (v % 32 = 0) }
-- Table 18-7: BELV_ERR
def F.BELV_ERR.BITS : Fld := fld 591 0x3400030 0 1 0 2 .upd .W1C
-- R24: BELV_ERR_FIRST
def F.BELV_ERR_FIRST.WORD : Fld := fld 592 0x3400034 0 1 0 32 .upd .RO
-- R24: BELV_ERR_FIRST_TS
def F.BELV_ERR_FIRST_TS.TS : Fld := { fld 593 0x3400038 0 1 0 64 .upd .RO with wide := true }
-- Table 18-8: BELV_ERR_SUMMARY
def F.BELV_ERR_SUMMARY.SUMMARY : Fld := fld 594 0x3400040 0 1 0 22 .upd .RO
-- Table 18-8: BELV_ERR_FIRST_UNIT
def F.BELV_ERR_FIRST_UNIT.UNIT : Fld := fld 595 0x3400044 0 1 0 8 .upd .RO
-- Table 18-8: BELV_SMB_CFG
def F.BELV_SMB_CFG.PEC_REQ : Fld := { fld 596 0x3400048 0 1 8 1 .imm .RW with rst := fun _ => 1 }
def F.BELV_SMB_CFG.ADDR : Fld := { fld 597 0x3400048 0 1 0 7 .imm .RW with rst := fun _ => 0x5a, ok := fun _ v => decide (8 ≤ v ∧ v ≤ 0x77) }
-- Table 18-8: BELV_ALERT_STATUS
def F.BELV_ALERT_STATUS.STATUS : Fld := fld 598 0x340004c 0 1 0 7 .upd .W1C
-- Table 18-8: BELV_ALERT_MASK
def F.BELV_ALERT_MASK.MASK : Fld := { fld 599 0x3400050 0 1 0 7 .imm .RW with rst := fun _ => 0x3f }
-- Table 18-8: BELV_TEMP_WARN
def F.BELV_TEMP_WARN.TEMP : Fld := { fld 600 0x3400054 0 1 0 8 .imm .RW with rst := fun _ => 0x5a }
-- Table 18-8: BELV_DIE_TEMP
def F.BELV_DIE_TEMP.TEMP : Fld := fld 601 0x3400060 4 8 0 8 .upd .RO
-- Table 18-8: BELV_VMON
def F.BELV_VMON.MV : Fld := fld 602 0x3400080 4 8 0 16 .upd .RO
-- Table 18-8: BELV_TRACE_RECORDS
def F.BELV_TRACE_RECORDS.COUNT : Fld := fld 603 0x34000a0 0 1 0 32 .upd .RC
-- Table 18-8: BELV_TRACE_DROPPED
def F.BELV_TRACE_DROPPED.COUNT : Fld := fld 604 0x34000a4 0 1 0 32 .upd .RC
-- Table 18-8: BELV_SMB_PEC_ERR
def F.BELV_SMB_PEC_ERR.COUNT : Fld := fld 605 0x34000a8 0 1 0 32 .upd .RC
-- Table 18-8: BELV_SMB_REJECT
def F.BELV_SMB_REJECT.COUNT : Fld := fld 606 0x34000ac 0 1 0 32 .upd .RC
-- Table 18-9: BELV_CNT_SEL
def F.BELV_CNT_SEL.MODE : Fld := { fld 607 0x3401000 4 1024 30 2 .imm .RW with ok := fun _ v => decide (v ≠ 3) }
def F.BELV_CNT_SEL.CLEAR : Fld := fld 608 0x3401000 4 1024 29 1 .imm .WO
def F.BELV_CNT_SEL.SRC : Fld := fld 609 0x3401000 4 1024 0 24 .imm .RW
-- Table 18-10: BELV_CNT
def F.BELV_CNT.SATURATED : Fld := { fld 610 0x3402000 8 1024 63 1 .upd .RO with wide := true }
def F.BELV_CNT.VALUE : Fld := { fld 611 0x3402000 8 1024 0 48 .upd .RO with wide := true }
-- Table 18-11: BELV_EYE_CTL
def F.BELV_EYE_CTL.START : Fld := fld 612 0x3404000 32 64 31 1 .imm .WO
def F.BELV_EYE_CTL.ABORT : Fld := fld 613 0x3404000 32 64 30 1 .imm .WO
def F.BELV_EYE_CTL.EYE : Fld := { fld 614 0x3404000 32 64 26 2 .imm .RW with rst := fun _ => 1, ok := fun _ v => decide (v ≠ 3) }
def F.BELV_EYE_CTL.DWELL : Fld := { fld 615 0x3404000 32 64 16 5 .imm .RW with rst := fun _ => 0xa, ok := fun _ v => decide (v ≠ 31) }
def F.BELV_EYE_CTL.PHASE : Fld := fld 616 0x3404000 32 64 8 6 .imm .RW
def F.BELV_EYE_CTL.VOFS : Fld := { fld 617 0x3404000 32 64 0 7 .imm .RW with ok := fun _ v => decide (v ≠ 64) }
-- Table 18-12: BELV_EYE_STATUS
def F.BELV_EYE_STATUS.CAUSE : Fld := fld 618 0x3404004 32 64 8 2 .upd .RO
def F.BELV_EYE_STATUS.STATE : Fld := fld 619 0x3404004 32 64 0 2 .upd .RO
-- Table 18-12: BELV_EYE_ERRS
def F.BELV_EYE_ERRS.ERRS : Fld := { fld 620 0x3404008 32 64 0 64 .upd .RO with wide := true }
-- Table 18-12: BELV_EYE_SYMS
def F.BELV_EYE_SYMS.SYMS : Fld := { fld 621 0x3404010 32 64 0 64 .upd .RO with wide := true }
-- Table 3-17: POWER_DOM
def F.POWER_DOM.IN_USE : Fld := fld 622 0x3800000 4 44 9 1 .upd .RO
def F.POWER_DOM.ST_PASS : Fld := fld 623 0x3800000 4 44 8 1 .upd .RO
def F.POWER_DOM.STATE : Fld := fld 624 0x3800000 4 44 4 3 .upd .RO
def F.POWER_DOM.REQ : Fld := { fld 625 0x3800000 4 44 0 1 .imm .RW with rst := fun _ => 1 }
-- Table 3-18: POWER_ERR
def F.POWER_ERR.BITS : Fld := fld 626 0x3800100 0 1 0 3 .upd .W1C
-- R24: POWER_ERR_FIRST
def F.POWER_ERR_FIRST.WORD : Fld := fld 627 0x3800104 0 1 0 32 .upd .RO
-- R24: POWER_ERR_FIRST_TS
def F.POWER_ERR_FIRST_TS.TS : Fld := { fld 628 0x3800108 0 1 0 64 .upd .RO with wide := true }
-- Table 19-8: POWER_SSC
def F.POWER_SSC.SPREAD : Fld := { fld 629 0x3800200 0 1 0 3 .imm .RW with rst := fun _ => 2, ok := fun _ v => decide (v ≤ 4) }
-- Table 19-5: POWER_IO_CFG
def F.POWER_IO_CFG.SLEW2 : Fld := fld 630 0x3800204 0 1 10 1 .imm .RW
def F.POWER_IO_CFG.DRIVE2 : Fld := { fld 631 0x3800204 0 1 8 2 .imm .RW with rst := fun _ => 1 }
def F.POWER_IO_CFG.SLEW1 : Fld := fld 632 0x3800204 0 1 6 1 .imm .RW
def F.POWER_IO_CFG.DRIVE1 : Fld := { fld 633 0x3800204 0 1 4 2 .imm .RW with rst := fun _ => 1 }
def F.POWER_IO_CFG.SLEW0 : Fld := fld 634 0x3800204 0 1 2 1 .imm .RW
def F.POWER_IO_CFG.DRIVE0 : Fld := { fld 635 0x3800204 0 1 0 2 .imm .RW with rst := fun _ => 1 }
-- R386: FC_WIN_ADDR
def F.FC_WIN_ADDR.ADDR : Fld := fld 636 0x3c00000 0 1 0 17 .S .RW
-- R386: FC_WIN_DATA
def F.FC_WIN_DATA.DATA : Fld := fld 637 0x3c00004 0 1 0 16 .upd .RO
-- R386: FC_SERIAL
def F.FC_SERIAL.SERIAL : Fld := { fld 638 0x3c00008 0 1 0 64 .S .RO with wide := true, rst := fun _ => Config.serial % 2 ^ 64 }

def RegMap.global0 : List Fld := [
  F.GLOBAL_ID.VENDOR, F.GLOBAL_ID.FAMILY, F.GLOBAL_ID.MEMBER, F.GLOBAL_REV.BARE_DIE,
  F.GLOBAL_REV.STEP_LETTER, F.GLOBAL_REV.STEP_NUM, F.GLOBAL_PARAM_ARRAY.PAV_SPARE, F.GLOBAL_PARAM_ARRAY.PAV_LIVE,
  F.GLOBAL_PARAM_ARRAY.N_MAX, F.GLOBAL_PARAM_CHAN.C_MAX, F.GLOBAL_PARAM_CHAN.PRISM_LANES, F.GLOBAL_PARAM_CHAN.STEP_ENTRIES,
  F.GLOBAL_PARAM_BEAM.LENS_MASKS, F.GLOBAL_PARAM_BEAM.BEAM_CTX, F.GLOBAL_PARAM_IO.YG_LANES, F.GLOBAL_PARAM_IO.HBM_STACKS,
  F.GLOBAL_PARAM_IO.ETH_PORTS, F.GLOBAL_PARAM_IO.PE_WIDTH, F.GLOBAL_PARAM_MEM.STACK_GIB, F.GLOBAL_PARAM_MEM.PCH_PER_STACK,
  F.GLOBAL_PARAM_MEM.REGION_ENTRIES, F.GLOBAL_RESET_CTL.INCL_SUNDIAL, F.GLOBAL_RESET_CTL.DATA_KEEP, F.GLOBAL_DATA_RESET.DATA_RESET]

def RegMap.global1 : List Fld := [
  F.GLOBAL_RESET_CAUSE.MGMT, F.GLOBAL_RESET_CAUSE.DATA_SMB, F.GLOBAL_RESET_CAUSE.DATA_REG, F.GLOBAL_RESET_CAUSE.FLR,
  F.GLOBAL_RESET_CAUSE.WARM, F.GLOBAL_RESET_CAUSE.COLD, F.GLOBAL_DP_CFG.T_CODE, F.GLOBAL_DP_CFG.MODE4,
  F.GLOBAL_DP_CFG.N_BLK, F.GLOBAL_DP_STATE.HORIZON_VALID, F.GLOBAL_DP_STATE.ARMED, F.GLOBAL_DP_STATE.STATE,
  F.GLOBAL_BANK_SEL.BANK_SEL, F.GLOBAL_EPOCH_NUM.EPOCH_NUM, F.GLOBAL_START_FSI.E_FSI, F.GLOBAL_EPOCH_TARGET.TARGET_FSI,
  F.GLOBAL_EPOCH_HORIZON.HORIZON_FSI, F.GLOBAL_ERR.BITS, F.GLOBAL_ERR_FIRST.WORD, F.GLOBAL_ERR_FIRST_TS.TS]
/-- Every field of the global registers. -/
def RegMap.global : List Fld := RegMap.global0 ++ RegMap.global1

def RegMap.kiosk0 : List Fld := [
  F.KIOSK_CFG.POLL, F.KIOSK_WAKE.WAKE, F.KIOSK_IDX_BASE.ADDR, F.KIOSK_STATUS.D3,
  F.KIOSK_STATUS.BME, F.KIOSK_STATUS.SPEED, F.KIOSK_STATUS.WIDTH, F.KIOSK_STATUS.LINK_UP,
  F.KIOSK_ERR.BITS, F.KIOSK_ERR_FIRST.WORD, F.KIOSK_ERR_FIRST_TS.TS, F.KIOSK_RING_BASE.ADDR,
  F.KIOSK_RING_CFG.EN, F.KIOSK_RING_CFG.LOG2_SIZE, F.KIOSK_RING_CFG.MOD, F.KIOSK_RING_CFG.VECTOR,
  F.KIOSK_RING_STATUS.STATE, F.KIOSK_RING_STATUS.DEV_IDX, F.KIOSK_RING_ENTRIES.COUNT, F.KIOSK_EVT_VEC.VECTOR]
/-- Every field of the kiosk registers. -/
def RegMap.kiosk : List Fld := RegMap.kiosk0

def RegMap.dma0 : List Fld := [
  F.DMA_CH_CFG.CLASS, F.DMA_CH_CFG.HIGH, F.DMA_CH_CFG.LOW, F.DMA_CH_CTL.RESTART,
  F.DMA_CH_CTL.STOP, F.DMA_CH_STATUS.ERR_SIDE, F.DMA_CH_STATUS.STATE, F.DMA_CH_LAST_BEAT.BEAT,
  F.DMA_CH_BYTES.BYTES, F.DMA_CH_PREEMPT.COUNT, F.DMA_CH_ERRS.COUNT, F.DMA_ERR.BITS,
  F.DMA_ERR_FIRST.WORD, F.DMA_ERR_FIRST_TS.TS]
/-- Every field of the dma registers. -/
def RegMap.dma : List Fld := RegMap.dma0

def RegMap.cloister0 : List Fld := [
  F.CL_MASTER_RST.RST, F.CL_HANG_MASK.MASK, F.CL_REG_ADDR.OFFSET, F.CL_ERR.BITS,
  F.CL_ERR_FIRST.WORD, F.CL_ERR_FIRST_TS.TS, F.CL_HOLDBACK.COUNT, F.CL_REG_DECODE.COUNT,
  F.CL_PORT_STATUS.HUNG, F.CL_PORT_STATUS.RESETTING, F.CL_PORT_STATUS.TAGS, F.CL_HANG_ADDR.WRITE,
  F.CL_HANG_ADDR.ADDR]
/-- Every field of the cloister registers. -/
def RegMap.cloister : List Fld := RegMap.cloister0

def RegMap.glasshouse0 : List Fld := [
  F.GLH_CFG.RATE, F.GLH_CTL.CLEAR_FAIL, F.GLH_CTL.EN, F.GLH_STATUS.HOT,
  F.GLH_STATUS.STACK_FAILED, F.GLH_STATUS.STACK_BAD, F.GLH_STATUS.INIT_BUSY, F.GLH_STATUS.READY,
  F.GLH_TRAIN_ADDR.ADDR, F.GLH_TRAIN_DATA.DATA, F.GLH_SCRUB.PERIOD, F.GLH_PANIC_CFG.ON,
  F.GLH_PANIC_CFG.OFF, F.GLH_ERR.BITS, F.GLH_ERR_FIRST.WORD, F.GLH_ERR_FIRST_TS.TS,
  F.GLH_CORR_SYM.COUNT, F.GLH_UNCORR.COUNT, F.GLH_SCRUB_CORR.COUNT, F.GLH_SCRUB_UNCORR.COUNT,
  F.GLH_SCRUB_LATE.COUNT, F.GLH_REFRESH_FORCED.COUNT, F.GLH_PANIC_CNT.COUNT, F.GLH_REGION.VALID]

def RegMap.glasshouse1 : List Fld := [
  F.GLH_REGION.SIZE_MIB, F.GLH_REGION.BASE_MIB, F.GLH_STACK_TEMP.TEMP]
/-- Every field of the glasshouse registers. -/
def RegMap.glasshouse : List Fld := RegMap.glasshouse0 ++ RegMap.glasshouse1

def RegMap.yargil0 : List Fld := [
  F.YG_LANE_CTL.RETRAIN, F.YG_LANE_CTL.COLD_TRAIN, F.YG_LANE_CTL.TXEQ_SKIP, F.YG_LANE_CTL.PRECODE,
  F.YG_LANE_CTL.ROLE, F.YG_LANE_STATUS.PPM, F.YG_LANE_STATUS.TXEQ_TIMEOUT, F.YG_LANE_STATUS.DEGRADED,
  F.YG_LANE_STATUS.CW_LOCK, F.YG_LANE_STATUS.CDR_LOCK, F.YG_LANE_STATUS.LOS, F.YG_LANE_STATUS.EFF_ROLE,
  F.YG_LANE_STATUS.STATE, F.YG_LANE_EQ.TX_POST, F.YG_LANE_EQ.TX_PRE, F.YG_LANE_EQ.VGA,
  F.YG_LANE_EQ.CTLE, F.YG_LANE_DFE_A.TAP3, F.YG_LANE_DFE_A.TAP2, F.YG_LANE_DFE_A.TAP1,
  F.YG_LANE_DFE_A.TAP0, F.YG_LANE_DFE_B.TAP3, F.YG_LANE_DFE_B.TAP2, F.YG_LANE_DFE_B.TAP1]

def RegMap.yargil1 : List Fld := [
  F.YG_LANE_DFE_B.TAP0, F.YG_LANE_DFE_C.TAP3, F.YG_LANE_DFE_C.TAP2, F.YG_LANE_DFE_C.TAP1,
  F.YG_LANE_DFE_C.TAP0, F.YG_LANE_CELLS.COUNT, F.YG_LANE_CW.COUNT, F.YG_LANE_CORR_SYM.COUNT,
  F.YG_LANE_CORR_CW.COUNT, F.YG_LANE_UNCORR_CW.COUNT, F.YG_LANE_TRUNC.COUNT, F.YG_LANE_LEN_ERR.COUNT,
  F.YG_LANE_FEC_DISCARD.COUNT, F.YG_LANE_HCRC_ERR.COUNT, F.YG_LANE_HDR_ERR.COUNT, F.YG_LANE_PCRC_ERR.COUNT,
  F.YG_LANE_BAD_BLOCK.COUNT, F.YG_LANE_DOWN_CNT.COUNT, F.YG_LANE_TRAIN_FAIL.COUNT, F.YG_CFG.REPORT_INTERVAL,
  F.YG_CFG.RCLK_LANE, F.YG_CFG.RCLK_EN, F.YG_CFG.MIRROR_EN, F.YG_DEGRADE.THRESH]

def RegMap.yargil2 : List Fld := [
  F.YG_ERR.BITS, F.YG_ERR_FIRST.WORD, F.YG_ERR_FIRST_TS.TS, F.YG_SRC_STATE.MIRROR_SEEN,
  F.YG_SRC_STATE.PRIMARY_SEEN, F.YG_SRC_STATE.ESTABLISHED, F.YG_SRC_HIGH.H, F.YG_SRC_DUP.COUNT,
  F.YG_SRC_MISSING.COUNT, F.YG_SRC_SINGLE.COUNT, F.YG_SRC_STALE.COUNT, F.YG_SRC_LATE_TWIN.COUNT]
/-- Every field of the yargil registers. -/
def RegMap.yargil : List Fld := RegMap.yargil0 ++ RegMap.yargil1 ++ RegMap.yargil2

def RegMap.gatehouse0 : List Fld := [
  F.GH_CFG.CHAN_BASE, F.GH_CFG.STALL_FILL, F.GH_CFG.PATTERN, F.GH_WINDOW.W,
  F.GH_SLIP_CFG.EN, F.GH_SLIP_CFG.INTERVAL, F.GH_SLIP_CFG.RATE_TOL, F.GH_SLIP_OFFSET_TOL.OFFSET_TOL,
  F.GH_STALL.TIMEOUT, F.GH_STATUS.RATE_SRCS, F.GH_STATUS.FILLING, F.GH_STATUS.STALLED,
  F.GH_FRONT.FRONT, F.GH_ERR.BITS, F.GH_ERR_FIRST.WORD, F.GH_ERR_FIRST_TS.TS,
  F.GH_REGIONS.LANDING_REGION, F.GH_UNKNOWN_SOURCE.COUNT, F.GH_GROUP_MISMATCH.COUNT, F.GH_FMT_MISMATCH.COUNT,
  F.GH_IDLE_DISCARD.COUNT, F.GH_CHAN_RANGE.COUNT, F.GH_CSI_ALIGN.COUNT, F.GH_PRE_START.COUNT]

def RegMap.gatehouse1 : List Fld := [
  F.GH_LATE.COUNT, F.GH_EARLY.COUNT, F.GH_RING_FULL.COUNT, F.GH_DUP_SLOT.COUNT,
  F.GH_MUTED.COUNT, F.GH_MISSING.COUNT, F.GH_PAT_CELLS.COUNT, F.GH_PAT_ERR_CELLS.COUNT,
  F.GH_PAT_ERR_BYTES.COUNT, F.GH_LANDED.COUNT, F.GH_SRC_STATUS.ENDED, F.GH_SRC_STATUS.OFFSET,
  F.GH_SRC_STATUS.RATE, F.GH_SRC_RATE_ERR.RATE_ERR, F.GH_SRC_OFFSET.OFFSET, F.GH_SRC_LANDED.COUNT,
  F.GH_SRC_MISSING.COUNT, F.GH_SRC_LATE.COUNT, F.GH_SRC_EARLY.COUNT, F.GH_SRC_MUTED.COUNT]
/-- Every field of the gatehouse registers. -/
def RegMap.gatehouse : List Fld := RegMap.gatehouse0 ++ RegMap.gatehouse1

def RegMap.prism0 : List Fld := [
  F.PR_CFG.PROG_BASE, F.PR_CFG.REQ_SHIFT, F.PR_CFG.FILT_SHIFT, F.PR_CFG.P,
  F.PR_CFG.M, F.PR_CHAN.C, F.PR_FINE_DF.DF, F.PR_STATUS.SETTLING,
  F.PR_DELAY_N.N_CYC, F.PR_REGIONS.VB_REGION, F.PR_REGIONS.CT_REGION, F.PR_ERR.BITS,
  F.PR_ERR_FIRST.WORD, F.PR_ERR_FIRST_TS.TS, F.PR_SPECTRA.COUNT, F.PR_SETTLE_SUPP.COUNT,
  F.PR_INVALID.COUNT, F.PR_FILT_SAT.COUNT, F.PR_FFT_SAT.COUNT, F.PR_ROT_SAT.COUNT,
  F.PR_REQ_SAT.COUNT, F.PR_CHAN_FREQ.FREQ]
/-- Every field of the prism registers. -/
def RegMap.prism : List Fld := RegMap.prism0

def RegMap.pavilion0 : List Fld := [
  F.PAV_STATUS.HOSTS, F.PAV_STATUS.PENDING, F.PAV_STATUS.FAILING, F.PAV_STATUS.ROLE,
  F.PAV_LAST_REJ.CAUSE, F.PAV_LAST_REJ.FINE_CHAN, F.PAV_LAST_REJ.BLOCK, F.PAV_BLOCKS.COUNT,
  F.PAV_REJECTS.COUNT, F.PAV_TALLY_MISM.COUNT, F.PAV_RERUNS.COUNT, F.PAV_AUDITS.COUNT,
  F.PAV_TILE_CORR.COUNT, F.PAV_BCAST_WAIT.COUNT, F.PAV_CFG.RETIRE_EN, F.PAV_MAP_CTL.Q,
  F.PAV_MAP_CTL.DEFAULT_MAP, F.PAV_SPARES.FREE_COUNT, F.PAV_SPARES.FREE_MASK, F.PAV_BLOCK_SLOT.G,
  F.PAV_ERR.BITS, F.PAV_ERR_FIRST.WORD, F.PAV_ERR_FIRST_TS.TS, F.PAV_TAILS.COUNT]

def RegMap.pavilion1 : List Fld := [
  F.PAV_BLOCK_DROP.COUNT, F.PAV_COMMIT_WAIT.COUNT, F.PAV_FETCH_WAIT.COUNT, F.PAV_RETIREMENTS.COUNT,
  F.PAV_ORANGERY_CORR.COUNT, F.PAV_HOST.HOST]
/-- Every field of the pavilion registers. -/
def RegMap.pavilion : List Fld := RegMap.pavilion0 ++ RegMap.pavilion1

def RegMap.accum0 : List Fld := [
  F.ACC_CFG.WIDE, F.ACC_REGIONS.TALLY_B, F.ACC_REGIONS.TALLY_A, F.ACC_REGIONS.BANK_B,
  F.ACC_REGIONS.BANK_A, F.ACC_INTEG.K, F.ACC_PRELOAD.TALLY_REGION, F.ACC_PRELOAD.IMG_REGION,
  F.ACC_PRELOAD.TALLY, F.ACC_PRELOAD.MODE, F.ACC_PRELOAD.EN, F.ACC_STATUS.GAP,
  F.ACC_STATUS.PRELOAD_ACTIVE, F.ACC_STATUS.STRETCHING, F.ACC_STATUS.DUMP_PENDING, F.ACC_STATUS.INTEG_BANK,
  F.ACC_STATUS.B_STATE, F.ACC_STATUS.A_STATE, F.ACC_INTEG_NUM.NUM, F.ACC_INTEG_START.FSI,
  F.ACC_INTEG_LEN.LEN, F.ACC_ERR.BITS, F.ACC_ERR_FIRST.WORD, F.ACC_ERR_FIRST_TS.TS]

def RegMap.accum1 : List Fld := [
  F.ACC_IMAGES.COUNT, F.ACC_OVERFLOWS.COUNT, F.ACC_TALLY_SAT.COUNT, F.ACC_STRETCHES.COUNT,
  F.ACC_FILLS.COUNT, F.ACC_GAP_CYCLES.COUNT, F.ACC_ADDR_WAIT.COUNT, F.ACC_POISON.COUNT,
  F.ACC_BANK_FLAGS.STRETCH, F.ACC_BANK_FLAGS.FLAGS, F.ACC_BANK_OVF.COUNT, F.ACC_BANK_START.FSI,
  F.ACC_BANK_END.FSI, F.ACC_BANK_CYCLES.COUNT, F.ACC_BANK_EPOCH.EPOCH]
/-- Every field of the accum registers. -/
def RegMap.accum : List Fld := RegMap.accum0 ++ RegMap.accum1

def RegMap.portico0 : List Fld := [
  F.PO_CURVE_SCALE.CSCALE, F.PO_DEVICE_TAG.TAG, F.PO_ERR.BITS, F.PO_ERR_FIRST.WORD,
  F.PO_ERR_FIRST_TS.TS, F.PO_DUMPS.COUNT, F.PO_ZEROED.COUNT, F.PO_POISON.COUNT,
  F.PO_REEXPORTS.COUNT, F.PO_STREAM_CTL.EN, F.PO_STREAM_CTL.ROUTE, F.PO_STREAM_CTL.TYPE,
  F.PO_STREAM_CTL.TALLY, F.PO_STREAM_CTL.ROWSUM, F.PO_STREAM_CTL.PREVIEW, F.PO_STREAM_CTL.ZMASK,
  F.PO_STREAM_CTL.I16_EXP, F.PO_STREAM_RANGE.F_COUNT, F.PO_STREAM_RANGE.F_LO, F.PO_STREAM_ETH.HDR_IDX,
  F.PO_STREAM_ETH.MIRROR_PORT, F.PO_STREAM_ETH.PORT, F.PO_STREAM_ETH.PAYLOAD64, F.PO_STREAM_STATUS.WAITING]

def RegMap.portico1 : List Fld := [
  F.PO_STREAM_STATUS.BUSY, F.PO_STREAM_BYTES.COUNT, F.PO_STREAM_FRAMES.COUNT]
/-- Every field of the portico registers. -/
def RegMap.portico : List Fld := RegMap.portico0 ++ RegMap.portico1

def RegMap.lens0 : List Fld := [
  F.LENS_CFG.GROUPS, F.LENS_REGIONS.REORDER_REGION, F.LENS_REGIONS.WTAB_REGION, F.LENS_REGIONS.TAPER_REGION,
  F.LENS_LOADED.LOADED, F.LENS_DIR_N.N_CYC, F.LENS_LOAD_HWM.CLOCKS, F.LENS_ERR.BITS,
  F.LENS_ERR_FIRST.WORD, F.LENS_ERR_FIRST_TS.TS, F.LENS_SAMPLES.COUNT, F.LENS_OVERRUN.COUNT,
  F.LENS_OUT_SAT.COUNT, F.LENS_W_SAT.COUNT, F.LENS_DIR_SAT.COUNT, F.LENS_FETCH_WAIT.COUNT,
  F.LENS_RING_DROP.COUNT, F.LENS_RING_WR.WR, F.LENS_RING_RD.RD]
/-- Every field of the lens registers. -/
def RegMap.lens : List Fld := RegMap.lens0

def RegMap.eyepiece0 : List Fld := [
  F.EYE_REGIONS.CAPTURE_REGION, F.EYE_CAP_CFG.EN, F.EYE_CAP_CFG.ROUTE, F.EYE_CAP_CFG.CAP_PORT,
  F.EYE_CAP_CFG.CAP_HDR, F.EYE_CAP_CFG.POST, F.EYE_CAP_CFG.PRE, F.EYE_CAP_CTL.RELEASE,
  F.EYE_CAP_CTL.FORCE, F.EYE_CAP_STATUS.H, F.EYE_CAP_STATUS.TRUNCATED, F.EYE_CAP_STATUS.STATE,
  F.EYE_CAP_START.OFFSET, F.EYE_CAP_LEN.LENGTH, F.EYE_ERR.BITS, F.EYE_ERR_FIRST.WORD,
  F.EYE_ERR_FIRST_TS.TS, F.EYE_FRAMES.COUNT, F.EYE_BEAM_DROP.COUNT, F.EYE_IN_OVERRUN.COUNT,
  F.EYE_INT_SAT.COUNT, F.EYE_SETTLE_SUPP.COUNT, F.EYE_TRIGGERS.COUNT, F.EYE_CAPTURES.COUNT]

def RegMap.eyepiece1 : List Fld := [
  F.EYE_CAP_COVERED.COUNT, F.EYE_CAP_MISSED.COUNT, F.EYE_RING_EXP.EN, F.EYE_RING_EXP.PORT,
  F.EYE_RING_EXP.HDR_IDX, F.EYE_PROF_CTL.OUT_EN, F.EYE_PROF_CTL.PORT, F.EYE_PROF_CTL.THR_EN,
  F.EYE_PROF_CTL.THR_DIR, F.EYE_PROF_CTL.THR_COMP, F.EYE_PROF_CTL.RS_EN, F.EYE_PROF_CTL.FSET,
  F.EYE_PROF_CTL.STAGES, F.EYE_PROF_CTL.DETECT, F.EYE_PROF_CTL.HDR_IDX, F.EYE_PROF_CTL.SH,
  F.EYE_PROF_NINT.N_INT, F.EYE_PROF_STEP.STEP, F.EYE_PROF_THI.THI, F.EYE_PROF_TLO.TLO,
  F.EYE_PROF_DECAY.DECAY, F.EYE_PROF_REPORT.REPORT_N]
/-- Every field of the eyepiece registers. -/
def RegMap.eyepiece : List Fld := RegMap.eyepiece0 ++ RegMap.eyepiece1

def RegMap.trellis0 : List Fld := [
  F.TR_CFG.EN, F.TR_CFG.NODES, F.TR_CFG.NODE_ID, F.TR_TREE.UDP_PORT,
  F.TR_TREE.TREE_ID, F.TR_LINK.ROOT_HDR, F.TR_LINK.ROOT_PORT, F.TR_LINK.UP_HDR,
  F.TR_LINK.UP_PORT, F.TR_DEADLINE.DEADLINE, F.TR_REGIONS.HOLD_REGION, F.TR_STATUS.SUBTREE,
  F.TR_STATUS.RIGHT, F.TR_STATUS.LEFT, F.TR_STATUS.ROOT, F.TR_ERR.BITS,
  F.TR_ERR_FIRST.WORD, F.TR_ERR_FIRST_TS.TS, F.TR_UNITS.COUNT, F.TR_CHILD_MISS.COUNT,
  F.TR_LATE.COUNT, F.TR_UNKNOWN.COUNT, F.TR_MISMATCH.COUNT, F.TR_SEQ_GAP.COUNT]

def RegMap.trellis1 : List Fld := [
  F.TR_HOLD_FULL.COUNT, F.TR_TX_DROP.COUNT, F.TR_SAT.COUNT, F.TR_ROOT_DROP.COUNT]
/-- Every field of the trellis registers. -/
def RegMap.trellis : List Fld := RegMap.trellis0 ++ RegMap.trellis1

def RegMap.eth0 : List Fld := [
  F.ETH_CFG.HOST_EN, F.ETH_CFG.ACCEPT_MCAST, F.ETH_CFG.PROMISC, F.ETH_CFG.ONE_STEP,
  F.ETH_CFG.ADD_FRAG, F.ETH_CFG.VERIFY_DIS, F.ETH_CFG.PREEMPT_EN, F.ETH_STATUS.TSQ_COUNT,
  F.ETH_STATUS.VERIFY, F.ETH_STATUS.PREEMPT_ACTIVE, F.ETH_STATUS.HI_SER, F.ETH_STATUS.REMOTE_FAULT,
  F.ETH_STATUS.LOCAL_FAULT, F.ETH_STATUS.LINK_UP, F.ETH_MAC_ADDR.ADDR, F.ETH_TX_THRESH.CUR,
  F.ETH_TX_THRESH.BASE, F.ETH_ERR.BITS, F.ETH_ERR_FIRST.WORD, F.ETH_ERR_FIRST_TS.TS,
  F.ETH_TSQ_NS.VALID, F.ETH_TSQ_NS.NS, F.ETH_TSQ_INFO.HOLDOVER, F.ETH_TSQ_INFO.MSG_TYPE]

def RegMap.eth1 : List Fld := [
  F.ETH_TSQ_INFO.DOMAIN, F.ETH_TSQ_INFO.SEQ_ID, F.ETH_TSQ_FRAC.FRAC, F.ETH_TSQ_SEC.SEC,
  F.ETH_TX_FRAMES.COUNT, F.ETH_TX_BYTES.COUNT, F.ETH_RX_FRAMES.COUNT, F.ETH_RX_BYTES.COUNT,
  F.ETH_TX_UNDERRUN.COUNT, F.ETH_TX_DISCARD.COUNT, F.ETH_TX_EXPRESS.COUNT, F.ETH_PREEMPTIONS.COUNT,
  F.ETH_RX_FCS_ERR.COUNT, F.ETH_RX_OVERSIZE.COUNT, F.ETH_RX_UNDERSIZE.COUNT, F.ETH_RX_OVERFLOW.COUNT,
  F.ETH_RX_CTRL.COUNT, F.ETH_RX_IP_ERR.COUNT, F.ETH_RX_TRELLIS.COUNT, F.ETH_RX_FILTERED.COUNT,
  F.ETH_RX_RING_DROP.COUNT, F.ETH_TS_DROP.COUNT, F.ETH_FEC_CORR_CW.COUNT, F.ETH_FEC_UNCORR_CW.COUNT]

def RegMap.eth2 : List Fld := [
  F.ETH_LINK_DOWN_CNT.COUNT]
/-- Every field of the eth registers. -/
def RegMap.eth : List Fld := RegMap.eth0 ++ RegMap.eth1 ++ RegMap.eth2

def RegMap.tsu0 : List Fld := [
  F.ETH_TS_CORR.RX_CORR, F.ETH_TS_CORR.TX_CORR]
/-- Every field of the tsu registers. -/
def RegMap.tsu : List Fld := RegMap.tsu0

def RegMap.sundial0 : List Fld := [
  F.SD_CFG.FREQ_WIN, F.SD_CFG.QUAL_TIME, F.SD_CFG.REVERTIVE, F.SD_CFG.ACQ_BW,
  F.SD_CFG.LOOP_BW, F.SD_TIMERS.HIST, F.SD_TIMERS.WTR, F.SD_THRESH.LOCK_THR,
  F.SD_THRESH.AGREE, F.SD_THRESH.PJ_THR, F.SD_SLEW.RATE, F.SD_SEL.FORCE_EN,
  F.SD_SEL.FORCE_REF, F.SD_STATUS.QUALIFIED, F.SD_STATUS.DISAGREE_NOSEL, F.SD_STATUS.ALARM,
  F.SD_STATUS.WTR_RUN, F.SD_STATUS.SLEWING, F.SD_STATUS.HIST_VALID, F.SD_STATUS.DISAGREE,
  F.SD_STATUS.TRACEABLE, F.SD_STATUS.SEL_VALID, F.SD_STATUS.SELECTED, F.SD_STATUS.STATE]

def RegMap.sundial1 : List Fld := [
  F.SD_PHASE_ERR.ERR, F.SD_FREQ_OFS.OFS, F.SD_TIME_NS.NS, F.SD_TIME_FRAC.FRAC,
  F.SD_TIME_SEC.SEC, F.SD_TOD_SET.SEC, F.SD_STEP.STEP, F.SD_STEP_CTL.MODE,
  F.SD_STEP_CTL.GO, F.SD_OFFSET.OFFSET, F.SD_SLEW_REMAIN.REMAIN, F.SD_VIRT_FREQ.FREQ,
  F.SD_VIRT_CFG.TIMEOUT, F.SD_ERR.BITS, F.SD_ERR_FIRST.WORD, F.SD_ERR_FIRST_TS.TS,
  F.SD_REF_CFG.EN, F.SD_REF_CFG.PPS_EN, F.SD_REF_CFG.FREQ_KHZ, F.SD_REF_CFG.RANK,
  F.SD_REF_DELAY.DELAY_PS, F.SD_REF_STATUS.QUAL_TIMER, F.SD_REF_STATUS.PJ, F.SD_REF_STATUS.FREQ_OK]

def RegMap.sundial2 : List Fld := [
  F.SD_REF_STATUS.ACTIVE, F.SD_REF_STATUS.QUALIFIED, F.SD_REF_FREQ.FREQ, F.SD_CLKOUT.EN,
  F.SD_CLKOUT.FREQ, F.SD_TIN_CFG.FILTER, F.SD_TIN_CFG.EDGE, F.SD_CAPQ_STATUS.COUNT,
  F.SD_CAPQ_NS.VALID, F.SD_CAPQ_NS.NS, F.SD_CAPQ_INFO.HOLDOVER, F.SD_CAPQ_INFO.EDGE,
  F.SD_CAPQ_INFO.PIN, F.SD_CAPQ_INFO.FRAC, F.SD_CAPQ_SEC.SEC, F.SD_SWITCHES.COUNT,
  F.SD_DISQUALS.COUNT, F.SD_HOLDOVERS.COUNT, F.SD_CAP_DROP.COUNT, F.SD_EV_FIRED.COUNT,
  F.SD_EV_NS.NS, F.SD_EV_SEC.SEC, F.SD_EV_PERIOD.PERIOD, F.SD_EV_CTL.ARM]

def RegMap.sundial3 : List Fld := [
  F.SD_EV_CTL.ACTION, F.SD_EV_CTL.PINS, F.SD_EV_CTL.WIDTH, F.SD_EV_LEAD.LEAD,
  F.SD_EV_STATUS.FIRES, F.SD_EV_STATUS.LATE]
/-- Every field of the sundial registers. -/
def RegMap.sundial : List Fld := RegMap.sundial0 ++ RegMap.sundial1 ++ RegMap.sundial2 ++ RegMap.sundial3

def RegMap.lodge0 : List Fld := [
  F.LODGE_CFG.AUDIT_RETIRE, F.LODGE_CFG.HEALTH_EVT, F.LODGE_STATUS.SUSPECT_OPEN, F.LODGE_STATUS.FAULT,
  F.LODGE_STATUS.COVERED, F.LODGE_STATUS.COVERAGE, F.LODGE_ERR.BITS, F.LODGE_ERR_FIRST.WORD,
  F.LODGE_ERR_FIRST_TS.TS, F.LODGE_KAT_PASS.COUNT, F.LODGE_KAT_FAIL.COUNT, F.LODGE_KAT_OVERDUE.COUNT,
  F.LODGE_AUDIT_MISM.COUNT, F.LODGE_AUDIT_FAULT.COUNT, F.LODGE_REFEREE.COUNT, F.LODGE_SRAM_CORR.COUNT,
  F.LODGE_SRAM_UNCORR.COUNT, F.LODGE_HEALTH.COUNT, F.LODGE_AUDIT.G]
/-- Every field of the lodge registers. -/
def RegMap.lodge : List Fld := RegMap.lodge0

def RegMap.belvedere0 : List Fld := [
  F.BELV_CTL.FREEZE, F.BELV_CTL.CLEAR_ALL, F.BELV_USER_EN.GROUPS, F.BELV_STATUS.FROZEN,
  F.BELV_TS_CFG.EN, F.BELV_TS_CFG.REGION, F.BELV_TS_CFG.MASTERS, F.BELV_TS_PERIOD.S,
  F.BELV_TRACE_WR.WR, F.BELV_TRACE_RD.RD, F.BELV_ERR.BITS, F.BELV_ERR_FIRST.WORD,
  F.BELV_ERR_FIRST_TS.TS, F.BELV_ERR_SUMMARY.SUMMARY, F.BELV_ERR_FIRST_UNIT.UNIT, F.BELV_SMB_CFG.PEC_REQ,
  F.BELV_SMB_CFG.ADDR, F.BELV_ALERT_STATUS.STATUS, F.BELV_ALERT_MASK.MASK, F.BELV_TEMP_WARN.TEMP,
  F.BELV_DIE_TEMP.TEMP, F.BELV_VMON.MV, F.BELV_TRACE_RECORDS.COUNT, F.BELV_TRACE_DROPPED.COUNT]

def RegMap.belvedere1 : List Fld := [
  F.BELV_SMB_PEC_ERR.COUNT, F.BELV_SMB_REJECT.COUNT, F.BELV_CNT_SEL.MODE, F.BELV_CNT_SEL.CLEAR,
  F.BELV_CNT_SEL.SRC, F.BELV_CNT.SATURATED, F.BELV_CNT.VALUE, F.BELV_EYE_CTL.START,
  F.BELV_EYE_CTL.ABORT, F.BELV_EYE_CTL.EYE, F.BELV_EYE_CTL.DWELL, F.BELV_EYE_CTL.PHASE,
  F.BELV_EYE_CTL.VOFS, F.BELV_EYE_STATUS.CAUSE, F.BELV_EYE_STATUS.STATE, F.BELV_EYE_ERRS.ERRS,
  F.BELV_EYE_SYMS.SYMS]
/-- Every field of the belvedere registers. -/
def RegMap.belvedere : List Fld := RegMap.belvedere0 ++ RegMap.belvedere1

def RegMap.power0 : List Fld := [
  F.POWER_DOM.IN_USE, F.POWER_DOM.ST_PASS, F.POWER_DOM.STATE, F.POWER_DOM.REQ,
  F.POWER_ERR.BITS, F.POWER_ERR_FIRST.WORD, F.POWER_ERR_FIRST_TS.TS, F.POWER_SSC.SPREAD,
  F.POWER_IO_CFG.SLEW2, F.POWER_IO_CFG.DRIVE2, F.POWER_IO_CFG.SLEW1, F.POWER_IO_CFG.DRIVE1,
  F.POWER_IO_CFG.SLEW0, F.POWER_IO_CFG.DRIVE0]
/-- Every field of the power registers. -/
def RegMap.power : List Fld := RegMap.power0

def RegMap.fuse0 : List Fld := [
  F.FC_WIN_ADDR.ADDR, F.FC_WIN_DATA.DATA, F.FC_SERIAL.SERIAL]
/-- Every field of the fuse registers. -/
def RegMap.fuse : List Fld := RegMap.fuse0

/-- One unit's sticky error register (R24): its bits, its first-error capture, its copy k (a port), its place in
BELV_ERR_SUMMARY (Table 18-2). -/
structure ErrUnit where
  bits : Fld
  first : Fld
  ts : Fld
  k : Nat
  sum : Nat

def Err.GLOBAL.unit : ErrUnit := ⟨F.GLOBAL_ERR.BITS, F.GLOBAL_ERR_FIRST.WORD, F.GLOBAL_ERR_FIRST_TS.TS, 0, 0⟩
def Err.KIOSK.unit : ErrUnit := ⟨F.KIOSK_ERR.BITS, F.KIOSK_ERR_FIRST.WORD, F.KIOSK_ERR_FIRST_TS.TS, 0, 1⟩
def Err.DMA.unit : ErrUnit := ⟨F.DMA_ERR.BITS, F.DMA_ERR_FIRST.WORD, F.DMA_ERR_FIRST_TS.TS, 0, 2⟩
def Err.CL.unit : ErrUnit := ⟨F.CL_ERR.BITS, F.CL_ERR_FIRST.WORD, F.CL_ERR_FIRST_TS.TS, 0, 3⟩
def Err.GLH.unit : ErrUnit := ⟨F.GLH_ERR.BITS, F.GLH_ERR_FIRST.WORD, F.GLH_ERR_FIRST_TS.TS, 0, 4⟩
def Err.YG.unit : ErrUnit := ⟨F.YG_ERR.BITS, F.YG_ERR_FIRST.WORD, F.YG_ERR_FIRST_TS.TS, 0, 5⟩
def Err.GH.unit : ErrUnit := ⟨F.GH_ERR.BITS, F.GH_ERR_FIRST.WORD, F.GH_ERR_FIRST_TS.TS, 0, 6⟩
def Err.PR.unit : ErrUnit := ⟨F.PR_ERR.BITS, F.PR_ERR_FIRST.WORD, F.PR_ERR_FIRST_TS.TS, 0, 7⟩
def Err.PAV.unit : ErrUnit := ⟨F.PAV_ERR.BITS, F.PAV_ERR_FIRST.WORD, F.PAV_ERR_FIRST_TS.TS, 0, 8⟩
def Err.ACC.unit : ErrUnit := ⟨F.ACC_ERR.BITS, F.ACC_ERR_FIRST.WORD, F.ACC_ERR_FIRST_TS.TS, 0, 9⟩
def Err.PO.unit : ErrUnit := ⟨F.PO_ERR.BITS, F.PO_ERR_FIRST.WORD, F.PO_ERR_FIRST_TS.TS, 0, 10⟩
def Err.LENS.unit : ErrUnit := ⟨F.LENS_ERR.BITS, F.LENS_ERR_FIRST.WORD, F.LENS_ERR_FIRST_TS.TS, 0, 11⟩
def Err.EYE.unit : ErrUnit := ⟨F.EYE_ERR.BITS, F.EYE_ERR_FIRST.WORD, F.EYE_ERR_FIRST_TS.TS, 0, 12⟩
def Err.TR.unit : ErrUnit := ⟨F.TR_ERR.BITS, F.TR_ERR_FIRST.WORD, F.TR_ERR_FIRST_TS.TS, 0, 13⟩
def Err.ETH.unit (p : Nat) : ErrUnit := ⟨F.ETH_ERR.BITS, F.ETH_ERR_FIRST.WORD, F.ETH_ERR_FIRST_TS.TS, p, 14 + p⟩
def Err.SD.unit : ErrUnit := ⟨F.SD_ERR.BITS, F.SD_ERR_FIRST.WORD, F.SD_ERR_FIRST_TS.TS, 0, 18⟩
def Err.LODGE.unit : ErrUnit := ⟨F.LODGE_ERR.BITS, F.LODGE_ERR_FIRST.WORD, F.LODGE_ERR_FIRST_TS.TS, 0, 19⟩
def Err.BELV.unit : ErrUnit := ⟨F.BELV_ERR.BITS, F.BELV_ERR_FIRST.WORD, F.BELV_ERR_FIRST_TS.TS, 0, 20⟩
def Err.POWER.unit : ErrUnit := ⟨F.POWER_ERR.BITS, F.POWER_ERR_FIRST.WORD, F.POWER_ERR_FIRST_TS.TS, 0, 21⟩

/-- Every error register, in the order of Table 18-2. -/
def Err.units : List ErrUnit :=
  [Err.GLOBAL.unit, Err.KIOSK.unit, Err.DMA.unit, Err.CL.unit, Err.GLH.unit, Err.YG.unit, Err.GH.unit, Err.PR.unit, Err.PAV.unit, Err.ACC.unit, Err.PO.unit, Err.LENS.unit, Err.EYE.unit, Err.TR.unit, Err.ETH.unit 0, Err.ETH.unit 1, Err.ETH.unit 2, Err.ETH.unit 3, Err.SD.unit, Err.LODGE.unit, Err.BELV.unit, Err.POWER.unit]

/-- The ids of the fields of class E (R50). -/
def RegMap.epochIds : List Nat := [30, 36, 178, 222, 223, 224, 225, 226, 227, 228, 243, 260, 279, 280, 281, 282, 283, 284, 313, 314, 322, 323, 324, 325, 326, 327, 328, 329, 330, 331, 332, 333, 334, 335, 340, 341, 342, 343, 359, 360, 361, 362, 363, 364, 365, 385, 386, 387, 388, 389, 390, 391, 392, 393, 394, 395, 396, 397, 398, 399, 400, 401, 402, 403, 404, 405, 406, 407, 408, 409, 410, 411, 412, 413, 414, 415]
def RegMap.globalLo : Nat := 0
def RegMap.globalHi : Nat := 44
def RegMap.kioskLo : Nat := 44
def RegMap.kioskHi : Nat := 64
def RegMap.dmaLo : Nat := 64
def RegMap.dmaHi : Nat := 78
def RegMap.cloisterLo : Nat := 78
def RegMap.cloisterHi : Nat := 91
def RegMap.glasshouseLo : Nat := 91
def RegMap.glasshouseHi : Nat := 118
def RegMap.yargilLo : Nat := 118
def RegMap.yargilHi : Nat := 178
def RegMap.gatehouseLo : Nat := 178
def RegMap.gatehouseHi : Nat := 222
def RegMap.prismLo : Nat := 222
def RegMap.prismHi : Nat := 244
def RegMap.pavilionLo : Nat := 244
def RegMap.pavilionHi : Nat := 274
def RegMap.accumLo : Nat := 274
def RegMap.accumHi : Nat := 313
def RegMap.porticoLo : Nat := 313
def RegMap.porticoHi : Nat := 340
def RegMap.lensLo : Nat := 340
def RegMap.lensHi : Nat := 359
def RegMap.eyepieceLo : Nat := 359
def RegMap.eyepieceHi : Nat := 405
def RegMap.trellisLo : Nat := 405
def RegMap.trellisHi : Nat := 433
def RegMap.ethLo : Nat := 433
def RegMap.ethHi : Nat := 482
def RegMap.tsuLo : Nat := 482
def RegMap.tsuHi : Nat := 484
def RegMap.sundialLo : Nat := 484
def RegMap.sundialHi : Nat := 562
def RegMap.lodgeLo : Nat := 562
def RegMap.lodgeHi : Nat := 581
def RegMap.belvedereLo : Nat := 581
def RegMap.belvedereHi : Nat := 622
def RegMap.powerLo : Nat := 622
def RegMap.powerHi : Nat := 636
def RegMap.fuseLo : Nat := 636
def RegMap.fuseHi : Nat := 639

end Sys2Proof.Machine
end

