-- ==== Sys2Proof/Machine/StateCtl.lean ====
section
/-! DEFINITION. Pieces of the state of the control and management planes, of Sundial, of the memory and of the power and reset
logic: what the spec gives these units beside their registers. Plain data throughout. -/
namespace Sys2Proof.Machine

/-- A record waiting for the event ring (R28, R353): its kind, event code, KIND-specific bytes 1 to 3 (`head`), the
timebase when it was raised, and its kind-specific bytes as (offset, length, value). -/
structure EvRec where
  kind : Nat := 4
  code : Nat := 0
  head : Nat := 0
  tb : Nat := 0
  body : List (Nat × Nat × Nat) := []
  deriving DecidableEq, Repr

/-- What a transmitter does from an instant of a report burst on (Table 4-6): the wake pattern, PAM4 levels, or electrical idle. -/
inductive LineEvent where
  | wake
  | levels (l : List Nat)
  | idle
  deriving DecidableEq, Repr

/-- What a command sent out of the part: read data, host memory writes, interrupts, frames, bursts, SMBus bytes. -/
inductive Output where
  | readData (v : Nat)
  | hostWrite (addr : Nat) (bytes : List Byte)
  | hostPayload (addr : Nat) (bytes : List Byte) (relaxed : Bool)
  | hostRead (addr len : Nat)
  | msix (vector addr data : Nat)
  | frame (port : Nat) (bytes : List Byte) (fcsGood : Bool)
  | frameCut (port : Nat)
  | burst (lane : Nat) (report : List Byte) (line : List (Nat × LineEvent))
  | report (lane : Nat) (report : List Byte)
  | smb (bytes : List Byte)
  | smbNack
  | grant (target master addr : Nat)
  | scrub (addr : Nat)
  | refresh (stack : Nat)
  | unsupportedRequest
  deriving DecidableEq, Repr

/-- The armed epoch (R59): its target, its flags, and the shadow copies captured for it (R51). -/
structure Armed where
  target : Nat
  start : Bool
  stop : Bool
  capt : Regs
  deriving DecidableEq, Repr

/-- Reset inputs and the epoch logic: the armed epoch with the source entries whose filter was cleared for it (R108), H of R58, the first
coarse sample at or beyond a STOP's target, which resets are held, and the PERST_N level. -/
structure GlobSt where
  armed : Option Armed := none
  fresh : List Nat := []
  hCsi : Option Nat := none
  stopAt : Nat := 0
  coldHeld : Bool := true
  ponHeld : Bool := false
  perstHeld : Bool := true
  mgmtBusy : Bool := false
  deriving DecidableEq, Repr

/-- One ring of the Kiosk (R341 to R346): HOST_IDX of the latest poll, the full DEV_IDX, the index of the next entry to take,
and whether a moderation interval runs, from when, and whether it has an advance to signal; the entries written back above DEV_IDX,
which it does not cover yet (R343); and the value of a write of KIOSK_RING_CFG that enables the ring anew once it has stopped (R345). -/
structure Ring where
  hostIdx : Nat := 0
  devIdx : Nat := 0
  next : Nat := 0
  modRun : Bool := false
  modAt : Nat := 0
  modPend : Bool := false
  done : List Nat := []
  anew : Option Nat := none
  deriving DecidableEq, Repr

/-- What a DMA channel moves: its ring and entry, the descriptor's bytes, the host address and the number of its beats, the beats
answered, the first erroneous beat with its side (true: device), the bytes read from the host or next to be written to it, and what the
write-back tells beside the status (offset in the stream dump, first and last buffer); every erroneous beat; whether a word of the
channel's buffer was uncorrectable; the bytes asked for, the read requests not wholly answered as (offset, length), and, towards the
host, the bytes written and the beats answered ahead of them; and whether the channel asks for no more until its buffer has fallen to
LOW (R359). -/
structure Job where
  ring : Nat
  idx : Nat
  desc : List Byte
  addr : Nat
  beats : Nat
  answered : List Nat := []
  err : Option (Nat × Bool) := none
  data : List Byte := []
  offset : Nat := 0
  first : Bool := false
  last : Bool := false
  info : Nat := 0
  errs : List Nat := []
  bus : Bool := false
  asked : Nat := 0
  reqs : List (Nat × Nat) := []
  sent : Nat := 0
  ahead : Tab Nat (List Byte) := []
  full : Bool := false
  deriving DecidableEq, Repr

/-- A command that the Kiosk has read and not yet completed (R351): its index, its descriptor, the DMA channel that it started on, and its
status with BEAT and RESULT once they are decided. -/
structure Cmd where
  idx : Nat
  desc : List Byte
  chan : Option Nat := none
  res : Option (Nat × Nat × Nat) := none
  deriving DecidableEq, Repr

/-- A write of the host's memory that waits until the Kiosk may issue requests again (R340), with the ring whose DEV_IDX it carries. -/
structure Posted where
  addr : Nat
  bytes : List Byte
  dev : Option (Nat × Nat) := none
  deriving DecidableEq, Repr

/-- The Kiosk beside its registers: the rings; the DMA channels' descriptors, the commands not yet completed (R351), the last channel served
in each class (R358), and the host writes that wait (R340); the function's configuration and the AER status of uncorrectable errors (R338,
R340); the event queue with its lost count and EVSEQ (R28, R353); the write and read holding registers of the PCIe path and of the SMBus
path (R16, R401), and that of BAR2 (R391); the MSI-X table and pending bits (R339); a poll due at once (R342) and the time of the last; the
time since which the link has been out of L0, and whether its fault is reported (R286). -/
structure KioskSt where
  rings : Tab Nat Ring := []
  chans : Tab Nat Job := []
  cmds : List Cmd := []
  turns : Tab Nat Nat := []
  posted : List Posted := []
  pci : PciCfg := { bme := false, mps := 0, mrrs := 2, relaxed := true, msixEn := false, msixMask := false }
  aer : Nat := 0
  evq : List EvRec := []
  evLost : Nat := 0
  evSeq : Nat := 0
  holdRd : Tab Nat Nat := []
  holdWr : Tab Nat Nat := []
  holdSmb : Tab Nat Nat := []
  bar2 : Tab Nat Nat := []
  msixTable : Tab Nat Nat := []
  msixPba : List Nat := []
  pollNow : Bool := false
  pollAt : Nat := 0
  linkDownAt : Option Nat := none
  linkFault : Bool := false
  deriving DecidableEq, Repr

/-- One Sundial reference (R290 to R293). `clk`, `pps`: clock and PPS edges arrive; `freqOk`: the last measurement lay within
FREQ_WIN; `since`: the elapsed time from which conditions 1 to 3 of R293 have held; `delay`: SD_REF_DELAY in timebase units;
`offset`: the distance of the timebase's second from the reference's PPS when the edge was seen, less the phase moved until
then; `wroteAt`: when SD_VIRT_FREQ was last written; `measAt`: when the frequency was last measured, if it has been; `ppsAt`: when the
last PPS edge arrived. -/
structure Ref where
  clk : Bool := false
  pps : Bool := false
  freqOk : Bool := false
  since : Option Nat := none
  delay : Int := 0
  offset : Option Int := none
  wroteAt : Nat := 0
  measAt : Option Nat := none
  ppsAt : Nat := 0
  deriving DecidableEq, Repr

/-- One entry of the capture queue (R310). -/
structure Capture where
  tb : Nat
  pin : Nat
  rising : Bool
  holdover : Bool
  deriving DecidableEq, Repr

/-- Sundial beside its registers: the references; the wait-to-restore timers (reference and start), and the references whose timer has
expired; a revert that waits for the slew; since when the phase error has lain within LOCK_THR; the slew (its offset and start), the phase
moved before it and the accumulated offset, in timebase units; the pending time of day; the capture queue; the TIME_OUT pulses (pin and
end); the frequency history (from when, frequency without and of the slew), newest first, and its start; the holdover frequency; whether the
phase of ACQUIRE is aligned; whether the timebase was untraceable since the last slice release. -/
structure SundialSt where
  refs : Tab Nat Ref := []
  wtr : Tab Nat Nat := []
  wtrSpent : List Nat := []
  revert : Option Nat := none
  lockSince : Option Nat := none
  remain : Int := 0
  slewAt : Nat := 0
  moved : Int := 0
  offTb : Int := 0
  tod : Option Nat := none
  capq : List Capture := []
  pulses : List (Nat × Nat) := []
  hist : List (Nat × Int × Int) := []
  histFrom : Nat := 0
  holdFreq : Int := 0
  aligned : Bool := false
  untraced : Bool := true
  deriving DecidableEq, Repr

/-- The Lodge beside its registers (R276 to R287): the domains whose failed self-test was reported to it (R74); which known-answer passes
are due, failures waiting for a clean pass, when the last late twin was counted, SEQ, TJ_MAX and the interval counts of the health record,
the latest record, and for each supply the consecutive readings outside and inside its range and whether its excursion has been reported. -/
structure LodgeSt where
  domFailed : List Nat := []
  katDue : List Nat := []
  katFailed : Tab Nat Nat := []
  lateTwinAt : Option Nat := none
  seq : Nat := 0
  tjMax : Option Int := none
  counts : Tab Nat Nat := []
  latest : List Byte := []
  supplyOut : Tab Nat Nat := []
  supplyIn : Tab Nat Nat := []
  supplyRaised : List Nat := []
  deriving DecidableEq, Repr

/-- A granted or hung request of a Cloister master (R365, R376): its address, direction, beats and ID, its target (0 Glasshouse, 1
table memories, 2 register fabric), its number among the eligible bursts when the sampler takes it (R392), and the timebase at its
grant. -/
structure Req where
  master : Nat
  addr : Nat
  write : Bool
  beats : Nat
  rid : Nat := 0
  target : Nat := 0
  ordinal : Option Nat := none
  tb : Nat := 0
  deriving DecidableEq, Repr

/-- The Cloister beside its registers: reads granted and not yet answered, requests held after a hang, the parked master of each
target port, the last master served in each port and rung, masters being reset, reads whose answer is discarded, the real-time
ports in panic, and the requests already counted as held back. -/
structure CloisterSt where
  issued : List Req := []
  hung : Tab Nat Req := []
  parked : Tab Nat Nat := []
  turn : Tab (Nat × Nat) Nat := []
  resetting : List Nat := []
  discard : List Req := []
  panic : List Nat := []
  held : List PortRequest := []
  deriving DecidableEq, Repr

/-- The Glasshouse beside its registers: the taps and Vref words written, codewords left uncorrectable (by codeword number), recent
uncorrectable reads (stack, pseudo-channel, instant), refreshes owed by stack, stacks whose refresh is forced; the beats of each
pseudo-channel that the scrub has been granted in its pass and the instant of the last grant, the beats granted and not yet read, and the
start of its period. -/
structure GlassSt where
  taps : Tab Nat Nat := []
  bad : List Nat := []
  recent : List (Nat × Nat × Nat) := []
  postponed : Tab Nat Nat := []
  forced : List Nat := []
  scrubPos : Tab Nat Nat := []
  scrubAt : Tab Nat Nat := []
  scrubs : List Nat := []
  scrubStart : Nat := 0
  deriving DecidableEq, Repr

/-- Belvedere beside its registers: the sampler's next ordinal, the dropped records not yet reported, whether an alert response has
released MGMT_ALERT_N, the sensors at or above the warning temperature, and when each eye scan started. -/
structure BelvSt where
  ordinal : Nat := 0
  dropped : Nat := 0
  released : Bool := false
  hotSensors : List Nat := []
  eyeAt : Tab Nat Nat := []
  deriving DecidableEq, Repr

/-- The states of the IEEE 1149.1 controller (R421). -/
inductive TapState where
  | testLogicReset | runTestIdle
  | selectDr | captureDr | shiftDr | exit1Dr | pauseDr | exit2Dr | updateDr
  | selectIr | captureIr | shiftIr | exit1Ir | pauseIr | exit2Ir | updateIr
  deriving DecidableEq, Repr

/-- The test access port (R421): the controller state, the instruction (none for BYPASS after a test-logic reset), the shift
register between TDI and TDO, its least significant bit first, and TDO, which drives only while shifting. -/
structure TapSt where
  state : TapState := .testLogicReset
  ir : Option Nat := none
  shift : List Bool := []
  tdo : Option Bool := none
  deriving DecidableEq, Repr

/-- Pins and package (R407, R408, R420): the thermal-trip latch and the last die temperatures, in °C. -/
structure PinSt where
  thermTrip : Bool := false
  dieTemp : List Int := []
  deriving DecidableEq, Repr

end Sys2Proof.Machine
end

