-- ==== Sys2Proof/Machine/StateIn.lean ====
section
/-! DEFINITION. The hidden state of the ingest side: the Yargil lanes, the duplicate filter and the Gatehouse (chapters 4
and 5). Plain data. -/
namespace Sys2Proof.Machine

/-- A cell on its way in on a lane, or ended: its bytes, the number of its data blocks, its CRC-32 as received, whether a block of it
lay in an uncorrectable codeword, and whether it was ended by something other than its CEND. -/
structure LaneCell where
  bytes : List Byte := []
  blocks : Nat := 0
  crc : Nat := 0
  uncorr : Bool := false
  broken : Bool := false
  trunc : Bool := false
  deriving DecidableEq, Repr

/-- The training of a lane (R100, R101): when the training timer started and the present state was entered, the request number,
its cursors and how many were made, when the last matching TSTAT arrived and the request was made, and whether R100 is
complete; how many codewords of TX_TRAIN have been sent with their reports; the F-engine's cursor indices from which TX_TRAIN started (R102). -/
structure LaneTrain where
  timerAt : Nat := 0
  stateAt : Nat := 0
  reqNum : Nat := 0
  preReq : Nat := 0
  postReq : Nat := 0
  requests : Nat := 0
  matchAt : Nat := 0
  reqAt : Nat := 0
  fin : Bool := false
  sent : Nat := 0
  txFrom : Nat × Nat := (0, 0)
  deriving DecidableEq, Repr

/-- A Yargil lane beside its registers: the cell in progress and the cells ended but not yet checked; consecutive good codewords with
their boundary, and consecutive uncorrectable ones; its training; the counts since the last report (R98) and when it was sent;
the degrade window (R103); the histories of the descrambler and the scrambler, and the level received last (R82, R83). -/
structure Lane where
  cell : Option LaneCell := none
  ended : List LaneCell := []
  good : Nat := 0
  boundary : Nat := 0
  bad : Nat := 0
  train : LaneTrain := {}
  counts : List Nat := [0, 0, 0, 0, 0]
  repAt : Nat := 0
  winSym : Nat := 0
  winAt : Nat := 0
  quiet : Nat := 0
  descr : Nat := 0
  scram : Nat := 0
  lastIn : Nat := 0
  deriving DecidableEq, Repr

/-- The duplicate filter of a source entry (R90). `seen`: the roles seen for a sequence number in the window (1 PRIMARY, 2 MIRROR,
4 UNIQUE as bits); `since`: how far h has advanced since the window was opened, to 4,096: an unseen number further back than that
is void, any other unseen number is empty. -/
structure DupFilter where
  established : Bool := false
  h : Nat := 0
  seen : Tab Nat Nat := []
  since : Nat := 0
  staleRun : Nat := 0
  deriving DecidableEq, Repr

/-- Yargil: its lanes, the duplicate filters, and the sources whose MIRROR_DEGRADED event was raised in this integration. -/
structure YargilSt where
  lanes : Tab Nat Lane := []
  filters : Tab Nat DupFilter := []
  mirrorDone : List Nat := []
  deriving DecidableEq, Repr

/-- A cell landed in the landing ring, with its place in the ring. -/
structure LandedCell where
  grp : Nat
  chan : Nat
  slice : Nat
  mute : Bool
  payload : List Byte
  place : Nat := 0
  deriving DecidableEq, Repr

/-- Slices up to `upto` (and beyond those of the entry before) whose window opened at `at_` with the W then in force. -/
structure SliceWindow where
  upto : Nat
  at_ : Nat
  w : Nat
  deriving DecidableEq, Repr

/-- What the slip monitor keeps for a source entry (R124): the end of its latest cell and its landing instant, in the
timebase and in elapsed time; the offsets recorded at each second as (second, numerator and denominator), newest first; the first offset. -/
structure SlipSt where
  csiEnd : Nat := 0
  land : Nat := 0
  landEl : Nat := 0
  offsets : List (Nat × Int × Nat) := []
  first : Option (Int × Nat) := none
  deriving DecidableEq, Repr

/-- The Gatehouse beside its registers: the oldest unreleased slice of each channel, and the slice below which the Prism has read
it; the windows; the landed cells, kept while the Prism can still need their samples; the slices from which a group is ended in
a channel, as intervals; when a slice was last released; whether any was released in this run; the slip monitor. -/
structure GatehouseSt where
  fronts : Tab Nat Nat := []
  freed : Tab Nat Nat := []
  windows : List SliceWindow := []
  landed : List LandedCell := []
  ended : Tab (Nat × Nat) (List (Nat × Option Nat)) := []
  lastRelease : Nat := 0
  started : Bool := false
  firstSlice : Nat := 0
  slip : Tab Nat SlipSt := []
  deriving DecidableEq, Repr

end Sys2Proof.Machine
end

