-- ==== Sys2Proof/Machine/StateNet.lean ====
section
/-! DEFINITION. The hidden state of the Portico and of the Ethernet ports (chapters 9 and 15). Plain data. -/
namespace Sys2Proof.Machine

/-- One stream dump of the Portico: its header, its size, the byte to send next, the ports that have taken the current frame, the
values and tally counts exported as poisoned (fine or coarse channel times the number of baselines, plus baseline), and
whether it is complete. -/
structure StreamSt where
  header : List Byte := []
  size : Nat := 0
  off : Nat := 0
  taken : List Nat := []
  bad : List Nat := []
  badTally : List Nat := []
  fin : Bool := false
  deriving DecidableEq, Repr

/-- The Portico beside its registers: the bank whose dump is exported, its stream dumps, and SEQ of every stream, and whether the host streams start
again when ring 3 is enabled (R203). -/
structure PorticoSt where
  bank : Nat := 0
  streams : Tab Nat StreamSt := []
  seq : Tab Nat Nat := []
  again : Bool := false
  deriving DecidableEq, Repr

/-- Who sends a frame: Portico stream, Eyepiece, Trellis partial, Trellis root output, host (R321, R322). -/
inductive Sender where
  | portico (s : Nat)
  | eye
  | partial_
  | root
  | host
  deriving DecidableEq, Repr

/-- A frame at a port: its sender, the context that it belongs to, whether it is express, its bytes before the FCS, and the
transmit stamp with HOLDOVER once it has begun; `waits`: it stays over a loss of the link (R318); `begun`: an underrun cut it, and it is sent again (R325). -/
structure TxFrame where
  sender : Sender
  ctx : Nat := 0
  express : Bool := false
  bytes : List Byte
  stamp : Nat := 0
  holdover : Bool := false
  waits : Bool := false
  begun : Bool := false
  deriving DecidableEq, Repr

/-- A received frame in the receive buffer, with its stamp, and how many of its buffers are filled (R328, R329). -/
structure RxFrame where
  bytes : List Byte
  stamp : Nat
  holdover : Bool
  filled : Nat := 0
  marks : List (Nat × Nat) := []
  deriving DecidableEq, Repr

/-- One entry of a transmit timestamp queue (R333). -/
structure TsEntry where
  stamp : Nat
  msgType : Nat
  domain : Nat
  seqId : Nat
  holdover : Bool
  deriving DecidableEq, Repr

/-- An Ethernet port beside its registers: the frames ready, in the order in which they became ready; the preemptable frame and the
express frame being sent; who sent last in each rung; the express host frames sent in this millisecond; the receive buffer;
the timestamp queue; and whether a write of BASE waits for the frame boundary. -/
structure EthPort where
  ready : List TxFrame := []
  cur : Option TxFrame := none
  exp : Option TxFrame := none
  last : Tab Nat Nat := []
  expressSent : Nat := 0
  rx : List RxFrame := []
  tsq : List TsEntry := []
  basePend : Bool := false
  deriving DecidableEq, Repr

end Sys2Proof.Machine
end

