-- ==== Sys2Proof/Machine/StatePipe.lean ====
section
/-! DEFINITION. The hidden state of the pipeline from the Prism to the commit queue: spectra, channel blocks, block slots, runs,
tile images and held counts (chapters 6, 7 and 13). Plain data. -/
namespace Sys2Proof.Machine

/-- The Prism beside its registers. Positions are coarse samples. `next`: where the next spectrum of an input and channel begins;
`base`: where the run began, which an input and channel not listed has reached; `chanBase`: the same
for a channel that an epoch added; `s0`: the first coarse sample of the settling
spectra (R137); `hist`: the first coarse sample that the history memory holds, all before it reading as zero and invalid (R134);
`delayCyc`: the cycle in which n is 0 (R140); `cyc`: the latest cycle whose marker has reached the Prism; `written`: the cycles
declared written (R148); `fetched`: the cycles whose last channel block has been read (R29); `settle`: the coarse sample that every input
must pass, in how many channels, before SETTLING falls (R143). -/
structure PrismSt where
  next : Tab (Nat × Nat) Nat := []
  base : Nat := 0
  chanBase : Tab Nat Nat := []
  s0 : Nat := 0
  hist : Nat := 0
  delayCyc : Nat := 0
  cyc : Nat := 0
  written : Nat := 0
  fetched : Nat := 0
  settle : Nat × Nat := (0, 0)
  deriving DecidableEq, Repr

/-- One half of the Orangery (R156): the channel block it holds, its sample and valid-bit stores by byte offset, whether the
fetch is complete, and the input blocks whose words are uncorrectable (R162). -/
structure Orangery where
  cyc : Nat
  f : Nat
  samples : List Host.Cell
  valids : List Host.Cell
  ready : Bool := false
  bad : List Nat := []
  deriving DecidableEq, Repr

/-- A tile image with its tally counts (R159): its tags, the logical slot it belongs to and the Pavilion that ran it, its
nonzero components and counts by cell 32 r + s, whether the counts are committed (R163, R170), and its bank. -/
structure Img where
  cyc : Nat
  f : Nat
  beta : Nat
  order : Nat
  logical : Nat
  pav : Nat
  cells : List (Nat × Int × Int) := []
  counts : List (Nat × Nat) := []
  withTally : Bool := false
  bank : Nat := 0
  deriving DecidableEq, Repr

/-- What a Pavilion runs in a stream (R166, R168, R282). -/
inductive Duty where
  | live | audit | rerun | referee
  deriving DecidableEq, Repr

/-- One run of a block on a Pavilion: its duty, its block, the re-runs made with it, whether it joined late and so ends in the next
stream, the faults it met, and for a referee the live and the audit image and the scheduled block slot of the audit, and how many slots it still waits. -/
structure PavRun where
  duty : Duty
  pav : Nat
  logical : Nat
  beta : Nat
  order : Nat
  tries : Nat := 0
  late : Bool := false
  delay : Nat := 0
  faults : List PavFault := []
  between : Option (Img × Img) := none
  g : Nat := 0
  deriving DecidableEq, Repr

/-- A held count (R163): the counts, the Pavilion whose accepted run gave them, and whether a word of them is uncorrectable. -/
structure HeldCount where
  counts : List (Nat × Nat)
  runner : Nat
  bad : Bool := false
  deriving DecidableEq, Repr

/-- The Pavilions beside their registers. `fetch`: the half whose fetch is in progress; `nextF`: the fine channel to fetch next in
the cycle in progress; `halves`: the Orangery; `cur`: the half of the channel block in progress and how many of its block slots
have begun; `settled`: the last block slot begun has been judged; `waited`: the next block slot has been counted as delayed
(R161); `runs`: the runs of the stream; `waiting`: re-runs and referees that start from instant 0 of a later slot; `tail`:
those that need a full tail; `held`: the tally stores, by host and order; `queue`, `issued`: the commit queue and the images
whose writes are outstanding; `lastRej`: the scheduled block slot of the last rejection of a Pavilion (R171); `suspect`: the open suspect intervals of logical slots (R284); `cleanG`: the last clean audit of
a logical slot, and `since` the cycles, with their first FSI, in which it has committed a block since, by its own runs and not a referee's; `cycles`: the first scheduled block slot and FSI of every cycle of the run; `closedInts`: closed integrations still open to a
suspect mark; `selfFailed`: Pavilions whose FAILED
role a power-domain self-test set (R173). -/
structure PavSt where
  fetch : Option Nat := none
  nextF : Nat := 0
  halves : Tab Nat Orangery := []
  cur : Option Nat := none
  order : Nat := 0
  settled : Bool := true
  waited : Bool := false
  runs : List PavRun := []
  waiting : List PavRun := []
  tail : List PavRun := []
  held : Tab (Nat × Nat) HeldCount := []
  queue : List Img := []
  issued : List Img := []
  lastRej : Tab Nat Nat := []
  suspect : Tab Nat Nat := []
  cleanG : Tab Nat Nat := []
  since : Tab Nat (List (Nat × Nat)) := []
  cycles : List (Nat × Nat × Nat) := []
  closedInts : List (Nat × Nat × Nat) := []
  selfFailed : List Nat := []
  deriving DecidableEq, Repr

end Sys2Proof.Machine
end

