-- ==== Sys2Proof/Machine/StateSky.lean ====
section
/-! DEFINITION. The hidden state of the Lens, the Eyepiece and the Trellis (chapters 10 to 12). Plain data. -/
namespace Sys2Proof.Machine

/-- The Lens beside its registers. `isOpen`: a window runs; `cyc`, `f`, `fsi`, `epochNum`, `n`, `act`: the cycle, fine channel, first
FSI, epoch number, Lens cycle count and active fields of its channel block; `nextK`: contexts below it are served or lost;
`lost`: contexts above it that are lost already; `fetched`, `ahead`: data that has arrived for this and the next channel block,
with whether it is poisoned; `wait`: clocks waited; `cache`: the taper sets on die; `dirCounted`: contexts whose direction was
formed in the cycle; `from_`: the first FSI of its epoch, none before the run's first window; `discont`: contexts whose next record carries DISCONT; `dropped`: BEAM_DROP was raised in the window. -/
structure LensSt where
  isOpen : Bool := false
  cyc : Nat := 0
  f : Nat := 0
  fsi : Nat := 0
  epochNum : Nat := 0
  n : Nat := 0
  act : Regs := []
  from_ : Option Nat := none
  nextK : Nat := 0
  lost : List Nat := []
  fetched : List (Nat × Bool) := []
  ahead : List (Nat × Bool) := []
  wait : Nat := 0
  cache : List Nat := []
  dirCounted : List Nat := []
  discont : List Nat := []
  dropped : Bool := false
  deriving DecidableEq, Repr

/-- One collapse element (R241). -/
structure Element where
  sums : List Int := []
  n : Nat := 0
  inc : Bool := false
  sat : Bool := false
  deriving DecidableEq, Repr

/-- One sample of a series: its index, its components as binary32, its marks, and the epoch in force. -/
structure Sample where
  idx : Nat
  vals : List Nat
  inc : Bool
  sat : Bool
  epoch : Nat
  deriving DecidableEq, Repr

/-- An open threshold event (R251). -/
structure TrigSt where
  start : Nat
  fsi : Nat
  extIdx : Nat
  ext : Nat
  inc : Bool
  capFlags : Nat
  deriving DecidableEq, Repr

/-- One Eyepiece context. `key`: what a retune compares (R249); `from_`: the FSI of the retune; `dmax`: D_k; `els`: the collapse
elements by FSI; `win`: the window being integrated; `levels`: the latest windows and stage outputs; `final`: settled outputs of
the interval in progress; `trig`: the open event; `env`: the envelope; `last`: the last settled index; `dropped`: frames dropped
since the last sent; `discont`: the next frame carries DISCONT. -/
structure EyeCtx where
  key : List Nat := []
  from_ : Nat := 0
  dmax : Nat := 0
  els : Tab Nat Element := []
  win : Option (Nat × Element) := none
  levels : List (List Sample) := []
  final : List Sample := []
  trig : Option TrigSt := none
  env : Option Nat := none
  last : Nat := 0
  dropped : Nat := 0
  discont : Bool := false
  deriving DecidableEq, Repr

/-- The cycle whose windows have ended and which the Eyepiece has still to close: cycle, first FSI, instants, epoch number, and the
active fields of its epoch. -/
structure EyeCycle where
  cyc : Nat
  first : Nat
  T : Nat
  epochNum : Nat
  act : Regs
  deriving DecidableEq, Repr

/-- The capture in the capture ring (R255, R256): its window runs from cycle `lo` to `last`, and its records from `first`. -/
structure Capture_ where
  u : Nat
  k : Nat
  forced : Bool
  trunc : Bool
  lo : Int
  first : Nat
  last : Nat
  number : Nat
  deriving DecidableEq, Repr

/-- The capture ring beside its registers: the write offset, the records held as (cycle, offset, length, context), oldest first, the
cycle from which every record is held, the capture, the bytes exported, a RELEASE that waits, how many captures began, and Z, the
bytes that a cycle adds (R255). -/
structure CapSt where
  wr : Nat := 0
  recs : List (Nat × Nat × Nat × Nat) := []
  oldest : Nat := 0
  cap : Option Capture_ := none
  sent : Nat := 0
  released : Bool := false
  count : Nat := 0
  z : Nat := 0
  deriving DecidableEq, Repr

/-- The Eyepiece beside its registers: its contexts, the cycle to close, SEQ by (KIND, SOURCE), the capture ring, and per Lens ring
the bytes of the record at RD that have left. -/
structure EyeSt where
  ctxs : Tab Nat EyeCtx := []
  pend : Option EyeCycle := none
  seq : Tab (Nat × Nat) Nat := []
  cap : CapSt := {}
  exports : Tab Nat Nat := []
  deriving DecidableEq, Repr

/-- One part of a Trellis unit (R266). -/
structure Part where
  sums : List (Int × Int)
  nodes : Nat
  inputs : Nat
  valid : Nat
  deriving DecidableEq, Repr

/-- An epoch as the Trellis meets it: its first FSI, the FSI at which it ends, in its own fine samples, and its active fields. -/
structure EpochRef where
  E : Nat := 0
  upto : Option Nat := none
  act : Regs := []
  deriving DecidableEq, Repr

/-- A unit held at this node, of an epoch. `ready`: its own part is ready, or lost. -/
structure Unit_ where
  ep : EpochRef
  k : Nat
  f : Nat
  fsi : Nat
  ready : Bool := false
  own : Option Part := none
  left : Option Part := none
  right : Option Part := none
  deriving DecidableEq, Repr

/-- The Trellis beside its registers: units held, SEQ of partial and root frames, the last SEQ of each child, the children announced in the
integration, and the epochs of the run before the one in force, latest first. -/
structure TrellisSt where
  units : List Unit_ := []
  seqUp : Nat := 0
  seqRoot : Nat := 0
  childSeq : Tab Nat Nat := []
  missed : List Nat := []
  past : List EpochRef := []
  deriving DecidableEq, Repr

end Sys2Proof.Machine
end

