-- ==== Sys2Proof/Machine/State.lean ====
section
/-! DEFINITION. The state of the block: its registers, its memories and tables, the hidden state of its units, what the last
command sent out, and the queue of the commands that wait. Plain data. -/
namespace Sys2Proof.Machine

/-- Why a command stops the machine. The spec gives every command an effect, so no meaning answers with a fault and the type is
empty: safe. -/
inductive Fault where
  deriving DecidableEq, Repr

/-- Why a command is not performed. -/
inductive Refusal where
  /-- Raised by an arm of `exec` whose command has no meaning in this model yet. Safe: nothing is claimed of it. -/
  | notModelled (mnemonic : String)
  deriving DecidableEq, Repr

/-- The whole state. `regs`: what a read of each register field returns, which is the shadow copy for a field of class E (R50).
`act`: the active copies of the E fields. `force`: the value in force of a live field that waits for its boundary (R49).
`tb`: the timebase in units of 2^-16 ns from the TAI epoch (R301).
`el`: the time elapsed in the same units, which no jump of the timebase changes: every duration is measured in it (R297).
`free`: how many free values have been taken. `tables`: both banks of every table, keyed by table ID,
bank, Lens group and byte offset (R53, R221); `tableBad`: the entries found uncorrectable and not reloaded since, as table ID, bank, Lens
group and entry (R285). `hbm`: the memory of the stacks, in canonical form. -/
structure State where
  pending : List Instr := []
  out : List Output := []
  regs : Regs := []
  act : Regs := []
  force : Regs := []
  tb : Nat := 0
  el : Nat := 0
  free : Nat := 0
  tables : Tab (Nat × Nat × Nat × Nat) Byte := []
  tableBad : List (Nat × Nat × Nat × Nat) := []
  hbm : List Host.Cell := []
  glob : GlobSt := {}
  ko : KioskSt := {}
  sd : SundialSt := {}
  lo : LodgeSt := {}
  cl : CloisterSt := {}
  gl : GlassSt := {}
  bv : BelvSt := {}
  tap : TapSt := {}
  pins : PinSt := {}
  yg : YargilSt := {}
  gh : GatehouseSt := {}
  acs : AccSt := {}
  px : PrismSt := {}
  pv : PavSt := {}
  po : PorticoSt := {}
  eth : Tab Nat EthPort := []
  le : LensSt := {}
  eye : EyeSt := {}
  tr : TrellisSt := {}
  deriving DecidableEq, Repr

/-- The machine right after reset: every register at its reset value (Tables 0-1 to 19-8), nothing in any memory, the cold reset
still held by COLD_RESET_N and the warm reset by PERST_N (R69), and no command waiting. DESIGN CHOICE: log entry 4. -/
def State.reset : State := {}

/-- What a read of copy k of a field returns. -/
def State.rd (s : State) (f : Fld) (k : Nat) : Nat := Regs.rd s.regs f k

/-- The state with copy k of a field set. -/
def State.wr (s : State) (f : Fld) (k v : Nat) : State := { s with regs := Regs.wr s.regs f k v }

/-- The active copy of an E field (R50). -/
def State.ac (s : State) (f : Fld) (k : Nat) : Nat := Regs.rd s.act f k

/-- The value in force of a live field that takes effect at a boundary (R49). -/
def State.inForce (s : State) (f : Fld) (k : Nat) : Nat := Regs.rd s.force f k

end Sys2Proof.Machine
end

