-- ==== Sys2Proof/Machine/Bytes.lean ====
section
/-! DEFINITION. Byte sequences, and the HBM and table memories. Host data and payloads are little-endian, on-wire headers are in
network byte order (R13). -/
namespace Sys2Proof.Machine

/-- n bytes of a number, least significant first. -/
def leBytes : Nat → Nat → List Byte
  | 0, _ => []
  | n + 1, v => BitVec.ofNat 8 v :: leBytes n (v / 256)

/-- The number whose bytes stand least significant first. -/
def leNat : List Byte → Nat
  | [] => 0
  | b :: t => b.toNat + 256 * leNat t

/-- n bytes of a number, most significant first. -/
def beBytes (n v : Nat) : List Byte := (leBytes n v).reverse

/-- The number whose bytes stand most significant first. -/
def beNat (l : List Byte) : Nat := leNat l.reverse

/-- The little-endian field of `len` bytes at an offset. -/
def leAt (l : List Byte) (off len : Nat) : Nat := leNat ((l.drop off).take len)

/-- The big-endian field of `len` bytes at an offset. -/
def beAt (l : List Byte) (off len : Nat) : Nat := beNat ((l.drop off).take len)

/-- A record of `size` bytes with the (offset, length, value) fields given; every other byte is 0. -/
def record (size : Nat) (fields : List (Nat × Nat × Nat)) : List Byte :=
  fields.foldl (fun l f => l.take f.1 ++ leBytes f.2.1 f.2.2 ++ l.drop (f.1 + f.2.1)) (List.replicate size 0)

/-- One bit into a reflected CRC-32 remainder. -/
def crcBit (r : Nat) : Nat := if r % 2 = 1 then (r / 2) ^^^ 0xEDB88320 else r / 2

/-- The CRC-32 of IEEE 802.3 over bytes, least significant bit first. -/
def crc32 (l : List Byte) : Nat :=
  (l.foldl (fun r b => crcBit (crcBit (crcBit (crcBit (crcBit (crcBit (crcBit (crcBit (r ^^^ b.toNat))))))))) 0xFFFFFFFF) ^^^ 0xFFFFFFFF

/-- The value of a memory byte; an unlisted byte reads 0. DESIGN CHOICE: log entry 8. -/
def Memory.get : List Host.Cell → Nat → Byte
  | [], _ => 0
  | (k, v) :: t, a => if k = a then v else Memory.get t a

/-- The memory with one byte written, in canonical form: addresses strictly rising, and no listed byte 0. -/
def Memory.put : List Host.Cell → Nat → Byte → List Host.Cell
  | [], a, b => if b = 0 then [] else [(a, b)]
  | (k, v) :: t, a, b =>
    if a < k then (if b = 0 then (k, v) :: t else (a, b) :: (k, v) :: t)
    else if a = k then (if b = 0 then t else (a, b) :: t)
    else (k, v) :: Memory.put t a b

/-- The canonical form: addresses from `lo` strictly rising and no zero byte listed. -/
def Memory.wfFrom : Nat → List Host.Cell → Bool
  | _, [] => true
  | lo, (k, v) :: t => decide (lo ≤ k) && decide (v ≠ 0) && Memory.wfFrom (k + 1) t

/-- The canonical form of the HBM. -/
def Memory.wf (m : List Host.Cell) : Bool := Memory.wfFrom 0 m

/-- Consecutive bytes written from an address. -/
def Memory.putAll : List Host.Cell → Nat → List Byte → List Host.Cell
  | m, _, [] => m
  | m, a, b :: t => Memory.putAll (Memory.put m a b) (a + 1) t

/-- Consecutive bytes read from an address. -/
def Memory.getAll (m : List Host.Cell) (a : Nat) : Nat → List Byte
  | 0 => []
  | n + 1 => Memory.get m a :: Memory.getAll m (a + 1) n

/-- The pseudo-channel g of a physical address: A[19:12] XOR A[27:20] (R364). -/
def pchOf (a : Nat) : Nat := bits a 12 8 ^^^ bits a 20 8

/-- The stack of a physical address, g mod 8 (R364). -/
def stackOf (a : Nat) : Nat := pchOf a % 8

/-- The address within its pseudo-channel (R364). -/
def pchAddr (a : Nat) : Nat := bits a 20 17 * 4096 + a % 4096

/-- The stack of an address is declared failed (R374). -/
def stackDead (s : State) (a : Nat) : Bool := bit (s.rd F.GLH_STATUS.STACK_FAILED 0) (stackOf a)

/-- Consecutive bytes written from an address; a failed stack discards what is written to it (R374). -/
def Memory.putLive (s : State) : List Host.Cell → Nat → List Byte → List Host.Cell
  | m, _, [] => m
  | m, a, b :: t => Memory.putLive s (if stackDead s a then m else Memory.put m a b) (a + 1) t

/-- Codeword w lies whole in n bytes from a. -/
def wholeIn (a n w : Nat) : Bool := decide (a ≤ 32 * w) && decide (32 * w + 32 ≤ a + n)

/-- The 64-byte beat of codeword w, which is poisoned as a whole (R370), meets n bytes from a. -/
def meets (a n w : Nat) : Bool := decide (64 * (w / 2) < a + n) && decide (a < 64 * (w / 2) + 64)

/-- A write of whole codewords leaves codeword w uncorrectable: it lies in a failed stack, which discards the write (R374), or in none of the
runs written (R370). -/
def staysBad (s : State) (runs : List (Nat × Nat)) (w : Nat) : Bool := stackDead s (32 * w) || !runs.any fun r => wholeIn r.1 r.2 w

/-- Bytes written to the HBM. A codeword written whole is written afresh, whatever errors it held (R370). -/
def State.hbmWrite (s : State) (a : Nat) (bs : List Byte) : State :=
  { s with
    hbm := if s.rd F.GLH_STATUS.STACK_FAILED 0 = 0 then Memory.putAll s.hbm a bs else Memory.putLive s s.hbm a bs
    gl := { s.gl with bad := s.gl.bad.filter (staysBad s [(a, bs.length)]) } }

/-- Runs of bytes, as (address, length), each written as one write: the codewords whole in one of them are written afresh (R370). -/
def State.healRuns (s : State) (runs : List (Nat × Nat)) : State :=
  { s with gl := { s.gl with bad := s.gl.bad.filter (staysBad s runs) } }

/-- Every read of the HBM can be answered without poison: no stack has failed and no codeword is left uncorrectable. -/
def State.sound (s : State) : Bool := decide (s.rd F.GLH_STATUS.STACK_FAILED 0 = 0) && s.gl.bad.isEmpty

/-- A read of n bytes from a is poisoned by a failed stack (R374) or by a beat with a codeword left uncorrectable (R370). DEDUCED: log entry 81. -/
def poisonedAt (s : State) (a n : Nat) : Bool :=
  !s.sound && (((List.range ((a % 4096 + n + 4095) / 4096)).any fun p => stackDead s (a + 4096 * p)) || s.gl.bad.any (meets a n))

/-- Bytes read from the HBM. DESIGN CHOICE: log entry 8. -/
def State.hbmRead (s : State) (a n : Nat) : List Byte := Memory.getAll s.hbm a n

/-- A little-endian quantity of n bytes in the HBM. -/
def State.hbmNat (s : State) (a n : Nat) : Nat := leNat (s.hbmRead a n)

/-- A byte of a table bank (R53), of the copy in a Lens group for a Lens table (R221), of copy 0 for any other. -/
def State.tbByte (s : State) (id bank grp off : Nat) : Byte := Tab.getD s.tables (id, bank, grp, off) 0

/-- A little-endian quantity in a table bank. -/
def State.tbNat (s : State) (id bank grp off : Nat) : Nat → Nat
  | 0 => 0
  | n + 1 => (s.tbByte id bank grp off).toNat + 256 * State.tbNat s id bank grp (off + 1) n

/-- Bytes written into a table bank; a byte that becomes 0 is unlisted. -/
def State.tbWrite (s : State) (id bank grp : Nat) : Nat → List Byte → State
  | _, [] => s
  | off, b :: t =>
    State.tbWrite { s with tables := if b = 0 then Tab.del s.tables (id, bank, grp, off) else Tab.put s.tables (id, bank, grp, off) b }
      id bank grp (off + 1) t

/-- The bank of a table that is in force (R53). -/
def State.bankOf (s : State) (id : Nat) : Nat := b2n (bit (s.ac F.GLOBAL_BANK_SEL.BANK_SEL 0) id)

/-- A little-endian quantity of the bank in force. -/
def State.tbl (s : State) (id off n : Nat) : Nat := s.tbNat id (s.bankOf id) 0 off n

end Sys2Proof.Machine
end

