-- ==== Sys2Proof/Machine/Ops.lean ====
section
/-! DEFINITION. The shared operations: time, free values, counters with the Belvedere counters that follow them, sticky errors,
events, alerts, faults of the Lodge, and what a command sends out. -/
namespace Sys2Proof.Machine

/-- One nanosecond in timebase units (R301). -/
abbrev nsUnits : Nat := 65536

/-- One second in timebase units. -/
abbrev secUnits : Nat := 65536000000000

/-- SEC of the timebase. -/
def State.sec (s : State) : Nat := s.tb / secUnits % 2 ^ 64

/-- NS of the timebase. -/
def State.ns (s : State) : Nat := s.tb / nsUnits % 1000000000

/-- FRAC of the timebase. -/
def State.frac (s : State) : Nat := s.tb % nsUnits

/-- A timestamp in the layout of GLOBAL_ERR_FIRST_TS: NS in bits [29:0], SEC[31:0] in bits [63:32]. -/
def State.stamp (s : State) : Nat := s.tb / secUnits % 2 ^ 32 * 2 ^ 32 + s.ns

/-- What the command sends out. -/
def State.emit (s : State) (o : Output) : State := { s with out := s.out ++ [o] }

/-- A free value (what the spec leaves undefined), and the state with the next free value taken up. DESIGN CHOICE: log entry 7. -/
def State.takeFree (s : State) : Nat × State := (Config.freeValue s.free, { s with free := s.free + 1 })

/-- n added to Belvedere counter k, which stays at 2^48 - 1 and sets SATURATED there (R388). -/
def cntAdd (s : State) (k n : Nat) : State :=
  let v := s.rd F.BELV_CNT.VALUE k + n
  if v < 2 ^ 48 - 1 then s.wr F.BELV_CNT.VALUE k v
  else (s.wr F.BELV_CNT.VALUE k (2 ^ 48 - 1)).wr F.BELV_CNT.SATURATED k 1

/-- The Belvedere counters whose MODE is the one given. -/
def cntsOfMode (s : State) (mode : Nat) : List Nat :=
  (s.regs.filter fun e => decide (e.1.1 = F.BELV_CNT_SEL.MODE.id) && decide (e.2 = mode)).map fun e => e.1.2

/-- Every Belvedere counter that follows the unit counter at a BAR0 word index adds what that counter adds, unless the
counters are frozen (R387, R389). DEDUCED: log entry 28. -/
def belvAdd (s : State) (word n : Nat) : State :=
  if s.rd F.BELV_CTL.FREEZE 0 = 1 then s
  else (cntsOfMode s 1).foldl (fun s k => if s.rd F.BELV_CNT_SEL.SRC k = word then cntAdd s k n else s) s

/-- n added to a unit counter, which saturates at its maximum, and to the Belvedere counters that follow it. DEDUCED: log entry 28. -/
def bump (s : State) (f : Fld) (k n : Nat) : State :=
  belvAdd (s.wr f k (min (s.rd f k + n) (2 ^ f.width - 1))) ((f.addr + f.stride * k) / 4) n

/-- Nominal clocks per microsecond of the island that SRC names in MODE 2 (R387, Table 1-7). -/
def islandMHz (src : Nat) : Nat :=
  if src < 136 then 1750 else if src = 136 then 1200 else if src = 137 then 1500 else if src = 138 then 1600 else if src = 139 then 800 else 1000

/-- The island counters over `dt` timebase units: the timebase's own clocks exactly, and for an island a free number of
clocks, since no rule ties an island's clock to the timebase (R33). DESIGN CHOICE: log entry 29. -/
def countClocks (s : State) (dt : Nat) : State :=
  if s.rd F.BELV_CTL.FREEZE 0 = 1 then s
  else (cntsOfMode s 2).foldl (fun s k =>
    if s.rd F.BELV_CNT_SEL.SRC k = 140 then cntAdd s k ((s.tb % nsUnits + dt) / nsUnits)
    else cntAdd (s.takeFree).2 k (s.takeFree).1) s

/-- The state at a later timebase instant; an instant not later changes nothing. DESIGN CHOICE: log entry 3. -/
def advanceTo (s : State) (t : Nat) : State :=
  if t ≤ s.tb then s else { countClocks s (t - s.tb) with tb := t, el := s.el + (t - s.tb) }

/-- The state at a later elapsed time. DESIGN CHOICE: log entry 3. -/
def advanceEl (s : State) (e : Nat) : State := advanceTo s (s.tb + (e - s.el))

/-- The least instant after the present one at which the timebase is a multiple of a period. DESIGN CHOICE: log entry 3. -/
def nextMultiple (s : State) (period : Nat) : Nat := (s.tb / period + 1) * period

/-- A record for the event queue: it is held while the queue has room, and counted otherwise (R28). -/
def pushEvent (s : State) (e : EvRec) : State :=
  if s.ko.evq.length < 1024 then { s with ko := { s.ko with evq := s.ko.evq ++ [e] } }
  else { s with ko := { s.ko with evLost := s.ko.evLost + 1 } }

/-- The argument fields of an event record: 8 bytes each from byte 16 (R354). -/
def argFields : Nat → List Nat → List (Nat × Nat × Nat)
  | _, [] => []
  | off, a :: t => (off, 8, a) :: argFields (off + 8) t

/-- An event of Table 16-9 is raised with its arguments. -/
def raise (s : State) (code : Nat) (args : List Nat) : State :=
  pushEvent s { kind := 4, code := code, head := 0, tb := s.tb, body := argFields 16 args }

/-- Two items paired in one event argument (R354). -/
def pair (lo hi : Nat) : Nat := lo % 2 ^ 32 + hi % 2 ^ 32 * 2 ^ 32

/-- A bit of BELV_ALERT_STATUS is set; an unmasked bit that becomes 1 asserts MGMT_ALERT_N again (R402). DEDUCED: log entry 91. -/
def setAlert (s : State) (i : Nat) : State :=
  let old := s.rd F.BELV_ALERT_STATUS.STATUS 0
  let s1 := s.wr F.BELV_ALERT_STATUS.STATUS 0 (setBit old i)
  if bit old i || !bit (s.rd F.BELV_ALERT_MASK.MASK 0) i then s1 else { s1 with bv := { s1.bv with released := false } }

/-- MGMT_ALERT_N is driven low (R402). DEDUCED: log entry 91. -/
def alertAsserted (s : State) : Bool :=
  decide ((s.rd F.BELV_ALERT_STATUS.STATUS 0) &&& (s.rd F.BELV_ALERT_MASK.MASK 0) ≠ 0) && !s.bv.released

/-- A sticky error bit of a unit is set with the item that ERR_FIRST holds beside the code (R24). -/
def setErr (s : State) (u : ErrUnit) (i info : Nat) : State :=
  let old := s.rd u.bits u.k
  let s1 := if old = 0 then (s.wr u.first u.k (i + 1 + 256 * info)).wr u.ts u.k s.stamp else s
  s1.wr u.bits u.k (setBit old i)

/-- The bits of LODGE_ERR that drive FAULT_N (Table 13-4). -/
def faultBits (v : Nat) : Nat := v &&& 0x11FE

/-- LODGE_STATUS.FAULT: FAULT_N is driven low (R286). -/
def faultLow (s : State) : Bool := decide (faultBits (s.rd F.LODGE_ERR.BITS 0) ≠ 0)

/-- A bit of LODGE_ERR is set, with the alerts that follow (R286, R402). -/
def lodgeBit (s : State) (i info : Nat) : State :=
  let s1 := setErr s Err.LODGE.unit i info
  let s2 := if !faultLow s && faultLow s1 then setAlert s1 0 else s1
  if i = Err.LODGE.PCIE_LINK then setAlert s2 5 else s2

/-- The Lodge reports a fault of Table 13-4: its LODGE_ERR bit, and the FAULT event with the cause paired with an item and the
further arguments (R286). -/
def lodgeErr (s : State) (i info item : Nat) (args : List Nat) : State := raise (lodgeBit s i info) 29 (pair i item :: args)

/-- n added to one of the interval counts of the health record (Table 13-5): 0 REJECTS, 1 RERUNS, 2 AUDITS, 3 AUDIT_MISM,
4 KAT_FAIL, 5 SRAM_CORR, 6 SRAM_UNCORR, 7 HBM_CORR, 8 HBM_UNCORR, 9 BLOCK_DROPS. -/
def lodgeNote (s : State) (i n : Nat) : State :=
  { s with lo := { s.lo with counts := Tab.put s.lo.counts i (Tab.getD s.lo.counts i 0 + n) } }

/-- An uncorrectable word of the on-die memory in row `mem` of Table 13-3: counted and reported, the event naming the row
(R285). -/
def sramFault (s : State) (mem : Nat) : State := lodgeErr (lodgeNote (bump s F.LODGE_SRAM_UNCORR.COUNT 0 1) 6 1) Err.LODGE.SRAM_UNCORR 0 0 [mem]

/-- Data-plane states (Table 3-10). -/
abbrev dpRESET : Nat := 0
abbrev dpIDLE : Nat := 1
abbrev dpARMED : Nat := 2
abbrev dpRUNNING : Nat := 3
abbrev dpSTOPPING : Nat := 4

/-- GLOBAL_DP_STATE.STATE. -/
def State.dp (s : State) : Nat := s.rd F.GLOBAL_DP_STATE.STATE 0

/-- The data plane is RESET or IDLE: what most S fields call stopped. -/
def State.dpStopped (s : State) : Bool := decide (s.dp ≤ dpIDLE)

/-- The data plane moves to a state; a change sets the alert of Table 18-4. -/
def setDp (s : State) (v : Nat) : State :=
  if s.dp = v then s else setAlert (s.wr F.GLOBAL_DP_STATE.STATE 0 v) 4

/-- A valid region of the region table (R366): base and size in bytes. Regions are present only while the Glasshouse is ready
(R367). -/
def regionOf (s : State) (e : Nat) : Option (Nat × Nat) :=
  if e < 32 ∧ s.rd F.GLH_REGION.VALID e = 1 ∧ s.rd F.GLH_STATUS.READY 0 = 1 then some (s.rd F.GLH_REGION.BASE_MIB e * 2 ^ 20, s.rd F.GLH_REGION.SIZE_MIB e * 2 ^ 20) else none

/-- The base of a region; 0 for one that is not valid. -/
def regionBase (s : State) (e : Nat) : Nat := ((regionOf s e).map Prod.fst).getD 0

/-- The size of a region; 0 for one that is not valid. -/
def regionSize (s : State) (e : Nat) : Nat := ((regionOf s e).map Prod.snd).getD 0

/-- A Cloister master has hung on a memory-side decode error, and no reset has released it (R381): the units that depend on it
wait or lose what they would have moved (R424). DEDUCED: log entry 77. -/
def hung (s : State) (m : Nat) : Bool := (Tab.find s.cl.hung m).isSome

/-- Copies 0 to n-1 for which a test holds. -/
def countWhere (n : Nat) (p : Nat → Bool) : Nat := ((List.range n).filter p).length

/-- f applied to the state for each index in turn. -/
def State.each (s : State) (l : List Nat) (f : State → Nat → State) : State := l.foldl f s

end Sys2Proof.Machine
end

