-- ==== Sys2Proof/Machine/Sundial.lean ====
section
/-! DEFINITION. Sundial: the qualification of its references (R293), the selection and its states (R294 to R300), the slew (R298),
and the anchor table's conversions (R305, R306). -/
namespace Sys2Proof.Machine

/-- Sundial states (Table 14-2). -/
abbrev sdFREERUN : Nat := 0
abbrev sdACQUIRE : Nat := 1
abbrev sdLOCKED : Nat := 2
abbrev sdHOLDOVER : Nat := 3
abbrev sdSWITCHING : Nat := 4

/-- The hidden state of a reference. -/
def getRef (s : State) (r : Nat) : Ref := Tab.getD s.sd.refs r {}

/-- The hidden state of a reference, replaced. -/
def setRef (s : State) (r : Nat) (x : Ref) : State := { s with sd := { s.sd with refs := Tab.put s.sd.refs r x } }

/-- SD_STATUS.STATE. -/
def State.sdState (s : State) : Nat := s.rd F.SD_STATUS.STATE 0

/-- A reference is time-bearing (R290). -/
def timeBearing (s : State) (r : Nat) : Bool := decide (r = 3) || (decide (r < 2) && decide (s.rd F.SD_REF_CFG.PPS_EN r = 1))

/-- Picoseconds in timebase units, rounded once to the nearest, ties to even (R292). -/
def psToTb (ps : Int) : Int := rneDiv (ps * 65536) 1000

/-- Timebase units in picoseconds, rounded to the nearest, ties to even (R292). -/
def tbToPs (t : Int) : Int := rneDiv (t * 1000) 65536

/-- The activity of a reference (Table 14-1). -/
def refActive (s : State) (r : Nat) : Bool :=
  let x := getRef s r
  if r < 2 then x.clk && (x.pps || decide (s.rd F.SD_REF_CFG.PPS_EN r = 0))
  else if r = 2 then x.clk && decide (s.rd F.YG_CFG.RCLK_EN 0 = 1)
  else x.clk

/-- A frequency offset in parts per 10^12 lies within FREQ_WIN, whose value in force waits for the second. -/
def inFreqWin (s : State) (f : Int) : Bool := decide (f.natAbs ≤ s.inForce F.SD_CFG.FREQ_WIN 0 * 1000000)

/-- SD_REF_FREQ[r] as a signed value. -/
def refFreq (s : State) (r : Nat) : Int := signed 32 (s.rd F.SD_REF_FREQ.FREQ r)

/-- Reference r is qualified. -/
def qualified (s : State) (r : Nat) : Bool := bit (s.rd F.SD_STATUS.QUALIFIED 0) r

/-- Conditions 1 and 2 of R293 and EN: the number of the first that fails, 0 when they hold. -/
def refFailing (s : State) (r : Nat) : Nat :=
  if !refActive s r then 1 else if !(getRef s r).freqOk then 2 else 0

/-- The part of the slew still to be taken up (R298): the slew runs at SD_SLEW.RATE. -/
def remainNow (s : State) : Int :=
  let done : Int := ((s.el - s.sd.slewAt) * s.rd F.SD_SLEW.RATE 0 / 1000000000 : Nat)
  if s.sd.remain < 0 then min 0 (s.sd.remain + done) else max 0 (s.sd.remain - done)

/-- The phase that the timebase has been moved by steps, jumps and slews. -/
def movedNow (s : State) : Int := s.sd.moved + (s.sd.remain - remainNow s)

/-- The elapsed time at which the slew is complete. -/
def slewDue (s : State) : Nat :=
  s.sd.slewAt + (s.sd.remain.natAbs * 1000000000 + s.rd F.SD_SLEW.RATE 0 - 1) / s.rd F.SD_SLEW.RATE 0

/-- The distance of the timebase's second from reference r's, beyond SD_OFFSET, when it is known: what a switch to r slews
away (R298, R303). VIRT has the timebase's own second. -/
def refErr (s : State) (r : Nat) : Option Int :=
  if r = 3 then some 0
  else if timeBearing s r then (getRef s r).offset.map fun o => o + movedNow s - s.sd.offTb
  else none

/-- The timebase frequency against the local oscillator in parts per 10^12, without the slew: 0 in FREERUN, the holdover
frequency in HOLDOVER (R299), SD_VIRT_FREQ on VIRT, else that of the selected reference. -/
def baseFreq (s : State) : Int :=
  if s.sdState = sdFREERUN then 0
  else if s.sdState = sdHOLDOVER then s.sd.holdFreq
  else if s.rd F.SD_STATUS.SELECTED 0 = 3 then signed 32 (s.rd F.SD_VIRT_FREQ.FREQ 0)
  else refFreq s (s.rd F.SD_STATUS.SELECTED 0)

/-- What the slew in progress adds to the frequency (R298). -/
def slewFreq (s : State) : Int := sgn (remainNow s) * (s.rd F.SD_SLEW.RATE 0 : Nat) * 1000

/-- SD_FREQ_OFS: the frequency with that of the slew in progress (R298). -/
def freqOfs (s : State) : Int := baseFreq s + slewFreq s

/-- A slew that has been taken up leaves the frequency history at the instant of its end. -/
def closeSlew (s : State) : State :=
  match s.sd.hist with
  | (from_, f, g) :: t =>
    if g ≠ 0 ∧ s.sd.remain ≠ 0 ∧ from_ < slewDue s ∧ slewDue s < s.el then
      { s with sd := { s.sd with hist := (slewDue s, f, 0) :: (from_, f, g) :: t } } else s
  | [] => s

/-- The frequency history with the present frequency, that of the slew beside it, entered. DESIGN CHOICE: log entry 49. -/
def noteFreq (s : State) : State :=
  let s1 := closeSlew s
  { s1 with sd := { s1.sd with hist := (s.el, baseFreq s, slewFreq s) :: s1.sd.hist } }

/-- The slew started anew with a remaining offset (R298). -/
def setRemain (s : State) (x : Int) : State :=
  let s1 := closeSlew s
  noteFreq { s1 with sd := { s1.sd with moved := movedNow s, remain := x, slewAt := s.el } }

/-- The integral of the history between two elapsed times, newest entry first, where `till` is the end of the entry at hand. -/
def histSum (lo : Nat) : Nat → List (Nat × Int × Int) → Int
  | _, [] => 0
  | till, (from_, f, g) :: t =>
    (f + g) * ((till - max lo from_ : Nat) : Int) + (if from_ ≤ lo then 0 else histSum lo (min till from_) t)

/-- The mean frequency, slews included, over the HIST seconds that end 1 s before now, or over the history that exists (R299).
DESIGN CHOICE: log entry 49. -/
def histMean (s : State) : Int :=
  let hi := s.el - secUnits
  let lo := max s.sd.histFrom (hi - s.inForce F.SD_TIMERS.HIST 0 * secUnits)
  if hi ≤ lo then freqOfs s else rneDiv (histSum lo hi ((closeSlew s).sd.hist.filter fun e => decide (e.1 < hi))) (hi - lo)

/-- HIST seconds of history exist (R299). -/
def histValid (s : State) : Bool := decide (s.inForce F.SD_TIMERS.HIST 0 * secUnits + secUnits ≤ s.el - s.sd.histFrom)

/-- CLK_ALARM follows the state and DISAGREE_NOSEL; a rise sets the alert (R300, Table 18-4). -/
def updAlarm (s : State) : State :=
  let lvl := b2n (decide (s.sdState = sdFREERUN) || decide (s.sdState = sdHOLDOVER) || decide (s.rd F.SD_STATUS.DISAGREE_NOSEL 0 = 1))
  let s1 := s.wr F.SD_STATUS.ALARM 0 lvl
  if lvl = 1 ∧ s.rd F.SD_STATUS.ALARM 0 = 0 then setAlert s1 1 else s1

/-- The state becomes traceable or not (R300). -/
def traceable (st : Nat) : Bool := decide (st = sdLOCKED) || decide (st = sdSWITCHING)

/-- Sundial moves to a state of Table 14-2: the SD_STATE event, TRACEABLE, CLK_ALARM and, on entry to HOLDOVER, its frequency,
counter and error (R297, R299). -/
def setSd (s : State) (st : Nat) : State :=
  if s.sdState = st then s else
  let old := s.sdState
  let s0 := if st = sdHOLDOVER then { setRemain s 0 with sd := { (setRemain s 0).sd with holdFreq := histMean s } } else s
  let s1 := (s0.wr F.SD_STATUS.STATE 0 st).wr F.SD_STATUS.TRACEABLE 0 (b2n (traceable st))
  let s2 := if traceable st then s1 else { s1 with sd := { s1.sd with untraced := true } }
  let s3 := raise (updAlarm s2) 26 [st, old]
  let s4 := if st = sdHOLDOVER then setErr (bump s3 F.SD_HOLDOVERS.COUNT 0 1) Err.SD.unit Err.SD.HOLDOVER 0 else s3
  noteFreq s4

/-- Two references agree (R295). -/
def agree (s : State) (a b : Nat) : Bool :=
  decide ((refFreq s a - refFreq s b).natAbs ≤ s.rd F.SD_THRESH.AGREE 0 * 10000)

/-- What the selection chooses: the choice, whether the best candidates disagree, and whether that leaves none (R294, R295). -/
structure Choice where
  ref : Option Nat
  disagree : Bool := false
  nosel : Bool := false

/-- The greatest of a list of numbers. -/
def maxOf (l : List Nat) : Nat := l.foldl max 0

/-- The least of a nonempty list of numbers. -/
def minOf : List Nat → Nat
  | [] => 0
  | a :: t => t.foldl min a

/-- The selection among the qualified references (R294, R295). -/
def choose (s : State) : Choice :=
  let qs := (List.range 4).filter (qualified s)
  let fr := s.rd F.SD_SEL.FORCE_REF 0
  if s.rd F.SD_SEL.FORCE_EN 0 = 1 ∧ qs.contains fr then { ref := some fr } else
  let best := minOf (qs.map (s.rd F.SD_REF_CFG.RANK))
  let cands := qs.filter fun r => decide (s.rd F.SD_REF_CFG.RANK r = best)
  let sel := s.rd F.SD_STATUS.SELECTED 0
  let selOk := decide (s.rd F.SD_STATUS.SEL_VALID 0 = 1)
  match cands with
  | [] => { ref := none }
  | [c] => { ref := some c }
  | c :: _ =>
    if cands.all fun a => cands.all fun b => agree s a b then
      { ref := some (if selOk && cands.contains sel then sel else c) }
    else
      let support := fun a => (qs.filter fun b => decide (b ≠ a) && agree s a b).length
      let top := cands.filter fun a => decide (support a = maxOf (cands.map support))
      match top with
      | [t] => { ref := some t, disagree := true }
      | _ => if selOk && top.contains sel then { ref := some sel, disagree := true }
             else { ref := none, disagree := true, nosel := true }

/-- Reference r is one to revert to: REVERTIVE = 1, qualified and of a better rank than the selection, with no forced choice (R294, R296). -/
def betterRef (s : State) (r : Nat) : Bool :=
  decide (s.rd F.SD_CFG.REVERTIVE 0 = 1) && decide (s.rd F.SD_STATUS.SEL_VALID 0 = 1) && qualified s r &&
    decide (s.rd F.SD_REF_CFG.RANK r < s.rd F.SD_REF_CFG.RANK (s.rd F.SD_STATUS.SELECTED 0)) &&
    !(decide (s.rd F.SD_SEL.FORCE_EN 0 = 1) && qualified s (s.rd F.SD_SEL.FORCE_REF 0))

/-- The wait-to-restore timers: one starts with each reference to revert to, and runs once until that ends; a revert that waits for the
slew ends with it (R296).
DEDUCED: log entry 96. -/
def keepWtr (s : State) : State :=
  let run := (List.range 4).filterMap fun r =>
    if betterRef s r && !s.sd.wtrSpent.contains r then some (r, (Tab.find s.sd.wtr r).getD s.el) else none
  let s1 := { s with sd := { s.sd with wtr := run, wtrSpent := s.sd.wtrSpent.filter (betterRef s), revert := s.sd.revert.filter (betterRef s) } }
  s1.wr F.SD_STATUS.WTR_RUN 0 (b2n !run.isEmpty)

/-- The wait-to-restore timer that expires first. -/
def nextWtr (s : State) : Option (Nat × Nat) :=
  s.sd.wtr.foldl (fun b e => match b with | none => some e | some x => if e.2 < x.2 then some e else b) none

/-- Reference c becomes the selection and the phase begins to move to it: a slew of its offset for a time-bearing reference,
none for another (R298). -/
def selectRef (s : State) (c : Nat) : State :=
  let s1 := (s.wr F.SD_STATUS.SEL_VALID 0 1).wr F.SD_STATUS.SELECTED 0 c
  noteFreq { s1 with sd := { s1.sd with lockSince := none, aligned := !timeBearing s c || decide (c = 3), revert := none } }

/-- A switch to reference c with its slew (Table 14-2). -/
def switchTo (s : State) (c : Nat) : State :=
  let s1 := selectRef s c
  let s2 := match refErr s c with
    | some e => setRemain { s1 with sd := { s1.sd with aligned := true } } (-e)
    | none => setRemain s1 0
  setSd s2 sdSWITCHING

/-- Reference c is chosen in the present state, when the selection gives way to it (Table 14-2). -/
def takeChoice (s : State) (c : Nat) : State :=
  if s.sdState = sdFREERUN ∨ s.sdState = sdACQUIRE then setSd (selectRef s c) sdACQUIRE
  else if s.sdState = sdLOCKED then switchTo (bump s F.SD_SWITCHES.COUNT 0 1) c
  else switchTo s c

/-- The selection is lost and nothing is chosen (Table 14-2). DEDUCED: log entry 97. -/
def loseSelection (s : State) : State :=
  let s1 := s.wr F.SD_STATUS.SEL_VALID 0 0
  let s2 := { s1 with sd := { s1.sd with lockSince := none, revert := none } }
  if s.sdState = sdACQUIRE then setSd s2 sdFREERUN
  else if s.sdState = sdLOCKED ∨ s.sdState = sdSWITCHING then setSd s2 sdHOLDOVER
  else s2

/-- DISAGREE and DISAGREE_NOSEL as the selection leaves them (R295, step 4). -/
def noteDisagree (s : State) (d n : Bool) : State :=
  let old := s.rd F.SD_STATUS.DISAGREE_NOSEL 0
  let s1 := updAlarm ((s.wr F.SD_STATUS.DISAGREE 0 (b2n d)).wr F.SD_STATUS.DISAGREE_NOSEL 0 (b2n n))
  if n ∧ old = 0 then raise (setErr s1 Err.SD.unit Err.SD.REF_DISAGREE 0) 25 [] else s1

/-- The selection follows what is chosen, but for a revert (R294, R295). -/
def followChoice (s : State) : State :=
  let ch := choose s
  let sel := s.rd F.SD_STATUS.SELECTED 0
  let held := decide (s.rd F.SD_STATUS.SEL_VALID 0 = 1) && qualified s sel
  let s0 := noteDisagree s ch.disagree ch.nosel
  match ch.ref with
  | none => if held then s0 else if s.rd F.SD_STATUS.SEL_VALID 0 = 1 then loseSelection s0 else s0
  | some c =>
    if !held then takeChoice s0 c
    else if c ≠ sel ∧ s.rd F.SD_SEL.FORCE_EN 0 = 1 ∧ s.rd F.SD_SEL.FORCE_REF 0 = c ∧ s.sdState ≠ sdSWITCHING then takeChoice s0 c
    else s0

/-- Sundial evaluates its selection (R294 to R296). -/
def reselect (s : State) : State := keepWtr (followChoice s)

/-- The qualified bit of a reference. -/
def setQualified (s : State) (r : Nat) (q : Bool) : State :=
  let v := s.rd F.SD_STATUS.QUALIFIED 0
  (s.wr F.SD_STATUS.QUALIFIED 0 (if q then setBit v r else clrBit v r)).wr F.SD_REF_STATUS.QUALIFIED r (b2n q)

/-- Conditions 1 to 3 of reference r looked at again: the status bits, and the start of the timer of condition 4, which a
break restarts (R293). -/
def refTimer (s : State) (r : Nat) (restart : Bool) : State :=
  let x := getRef s r
  let holds := decide (s.rd F.SD_REF_CFG.EN r = 1) && decide (refFailing s r = 0)
  let since := if !holds then none else if restart || x.since.isNone then some s.el else x.since
  ((setRef s r { x with since := since }).wr F.SD_REF_STATUS.ACTIVE r (b2n (refActive s r))).wr F.SD_REF_STATUS.FREQ_OK r (b2n x.freqOk)

/-- Reference r loses its qualification by failing a condition of R293: counted and announced if it was qualified. -/
def disqualify (s : State) (r cond : Nat) : State :=
  if qualified s r then
    let s1 := bump (setQualified s r false) F.SD_DISQUALS.COUNT 0 1
    raise (setErr s1 Err.SD.unit Err.SD.REF_DISQUAL r) 24 [r, cond]
  else s

/-- After a condition may have changed: the timer, and the disqualification if one fails. -/
def refCheck (s : State) (r : Nat) : State :=
  let s1 := refTimer s r false
  let c := refFailing s1 r
  if s1.rd F.SD_REF_CFG.EN r = 1 ∧ c ≠ 0 then disqualify s1 r c else s1

/-- The same, and the selection evaluated after it (R294). -/
def refEval (s : State) (r : Nat) : State := reselect (refCheck s r)

/-- The recovered clock is gated off while its lane is not UP or RCLK_EN is 0 (R97): a loss of activity. -/
def rclkGate (s : State) (running : Bool) : State :=
  let x := getRef s 2
  if x.clk = running then refEval s 2
  else refEval (setRef s 2 { x with clk := running }) 2

/-- One entry of the ANCHOR table in force (Table 14-3). -/
structure Anchor where
  i0 : Nat
  t0 : Nat
  num : Nat
  den : Nat

/-- The valid entries of an ANCHOR bank. -/
def anchorsIn (s : State) (bank : Nat) : List Anchor :=
  (List.range 16).filterMap fun a =>
    let f := fun off n => s.tbNat 15 bank 0 (32 * a + off) n
    if f 22 1 % 2 = 1 then
      some { i0 := f 0 8, t0 := f 8 8 * secUnits + f 16 4 % 2 ^ 30 * nsUnits + f 20 2, num := f 24 6, den := f 30 2 }
    else none

/-- The valid entries of the ANCHOR bank in force. -/
def anchors (s : State) : List Anchor := anchorsIn s (s.bankOf 15)

/-- The entry with the largest key at or below x, or with the smallest key if none lies below (R306). -/
def anchorBy (key : Anchor → Nat) (x : Int) : List Anchor → Option Anchor
  | [] => none
  | a :: t =>
    match anchorBy key x t with
    | none => some a
    | some b =>
      if (key b : Int) ≤ x then (if (key a : Int) ≤ x ∧ key b < key a then some a else some b)
      else if (key a : Int) ≤ x ∨ key a < key b then some a else some b

/-- What every conversion uses with no valid entry (R306). -/
def Anchor.none : Anchor := { i0 := 0, t0 := 0, num := 1, den := 1 }

/-- The entry in force for a coarse sample index. -/
def anchorAt (s : State) (csi : Int) : Anchor := (anchorBy Anchor.i0 csi (anchors s)).getD Anchor.none

/-- t(CSI) in timebase units (R306). -/
def timeOf (s : State) (csi : Int) : Int :=
  let a := anchorAt s csi
  a.t0 + (csi - a.i0) * (a.den * secUnits : Nat) / (a.num : Int)

/-- The smallest CSI whose time is at or after t, under the entry in force for t (R306). -/
def indexOf (s : State) (t : Int) : Int :=
  let a := (anchorBy Anchor.t0 t (anchors s)).getD Anchor.none
  a.i0 + ceilDiv ((t - a.t0) * a.num) (a.den * secUnits)

end Sys2Proof.Machine
end

