-- ==== Sys2Proof/Machine/Coverage.lean ====
section
/-! DEFINITION. Single-fault coverage (R276), the error summary (R398), and how every command ends: what the Lodge and Belvedere
take up after it. -/
namespace Sys2Proof.Machine

/-- Power domain states (Table 3-17). -/
abbrev pdOFF : Nat := 0
abbrev pdRAMP : Nat := 1
abbrev pdTEST : Nat := 2
abbrev pdON : Nat := 3
abbrev pdDRAIN : Nat := 4
abbrev pdFAILED : Nat := 5

/-- POWER_DOM[d].STATE. -/
def domState (s : State) (d : Nat) : Nat := s.rd F.POWER_DOM.STATE d

/-- Power domain d is ON. -/
def domOn (s : State) (d : Nat) : Bool := decide (domState s d = pdON)

/-- The effective roles of a lane (Table 4-1): 0 DISABLED, 1 UNIQUE, 2 PRIMARY, 3 MIRROR. -/
def effRole (s : State) (k : Nat) : Nat :=
  let role := s.rd F.YG_LANE_CTL.ROLE k
  if role = 0 then 0 else if s.rd F.YG_CFG.MIRROR_EN 0 = 0 then 1 else role + 1

/-- Lane states (Table 4-7). -/
abbrev laneUP : Nat := 6

/-- A spare slot that hosts no live slot, is neither RETIRED nor FAILED, and is powered (chapter 7). -/
def freeSpare (s : State) (k : Nat) : Bool := decide (s.rd F.PAV_STATUS.ROLE k = 2) && domOn s (k / 8)

/-- The free spares in ascending physical order: rank j is the j-th. -/
def freeSpares (s : State) : List Nat := (List.range 136).filter (freeSpare s)

/-- S, the number of free spares. -/
def spareCount (s : State) : Nat := (freeSpares s).length

/-- The coverage condition of each class of Table 13-1. -/
def coverageBit (s : State) (c : Nat) : Bool :=
  if c = 0 then decide (1 ≤ spareCount s)
  else if c = 1 then
    decide (s.rd F.YG_CFG.MIRROR_EN 0 = 1) &&
      ((List.range 64).all fun k => decide (effRole s k < 2) || decide (s.rd F.YG_LANE_STATUS.STATE k = laneUP)) &&
      (match s.lo.lateTwinAt with | none => true | some t => !(decide (t ≤ s.tb) && decide (s.tb < t + secUnits)))
  else if c = 2 then
    decide (s.sdState = sdLOCKED) && ((List.range 4).any fun r => decide (r ≠ s.rd F.SD_STATUS.SELECTED 0) && qualified s r)
  else if c = 3 then decide (s.rd F.GLH_CTL.EN 0 = 1) && decide (s.rd F.GLH_STATUS.STACK_FAILED 0 = 0)
  else if c = 4 then
    (List.range 4).all fun i =>
      decide (s.ac F.PO_STREAM_CTL.EN i = 0) || decide (s.ac F.PO_STREAM_CTL.ROUTE i = 0) ||
        (decide (s.ac F.PO_STREAM_CTL.ROUTE i = 2) && decide (s.rd F.ETH_STATUS.LINK_UP (s.ac F.PO_STREAM_ETH.PORT i) = 1) &&
          decide (s.rd F.ETH_STATUS.LINK_UP (s.ac F.PO_STREAM_ETH.MIRROR_PORT i) = 1))
  else true

/-- The six coverage bits. -/
def coverage (s : State) : Nat :=
  b2n (coverageBit s 0) + 2 * b2n (coverageBit s 1) + 4 * b2n (coverageBit s 2) + 8 * b2n (coverageBit s 3) +
    16 * b2n (coverageBit s 4) + 32 * b2n (coverageBit s 5)

/-- One coverage bit falls: LODGE_ERR.COVERAGE_LOST with its FAULT event, and the COVERAGE_LOST event with the class
(R276, R286). -/
def coverageFall (s : State) (c : Nat) : State := raise (lodgeErr s Err.LODGE.COVERAGE_LOST 0 0 []) 31 [c]

/-- LODGE_STATUS.COVERAGE and COVERED follow their conditions; a fall of COVERED sets its alert (Table 18-4).
DESIGN CHOICE: log entry 11. -/
def settleCoverage (s : State) : State :=
  let old := s.rd F.LODGE_STATUS.COVERAGE 0
  let new := coverage s
  if new = old ∧ s.rd F.LODGE_STATUS.COVERED 0 = b2n (decide (new = 63)) then s else
    let s1 := (s.wr F.LODGE_STATUS.COVERAGE 0 new).wr F.LODGE_STATUS.COVERED 0 (b2n (decide (new = 63)))
    let s2 := if old = 63 ∧ new ≠ 63 then setAlert s1 2 else s1
    ((List.range 6).filter fun c => bit old c && !bit new c).foldl coverageFall s2

/-- BELV_ERR_SUMMARY (R398). -/
def errSummary (s : State) : Nat :=
  Err.units.foldl (fun a u => if s.rd u.bits u.k = 0 then a else setBit a u.sum) 0

/-- The lowest bit set in a number below 2^32. -/
def lowestBit (v : Nat) : Nat := ((List.range 32).find? (bit v)).getD 0

/-- BELV_ERR_FIRST_UNIT after a command: the lowest summary bit that became 1 while the summary was all zero, kept until the
summary is all zero again (R398). DESIGN CHOICE: log entry 11. -/
def settleFirstUnit (s : State) : State :=
  let sum := errSummary s
  let old := s.rd F.BELV_ERR_FIRST_UNIT.UNIT 0
  if sum = 0 then (if old = 0 then s else s.wr F.BELV_ERR_FIRST_UNIT.UNIT 0 0)
  else if old = 0 then s.wr F.BELV_ERR_FIRST_UNIT.UNIT 0 (lowestBit sum + 1) else s

/-- A cold reset is held, by COLD_RESET_N or by the power-on detector (R64, R408). -/
def State.held (s : State) : Bool := s.glob.coldHeld || s.glob.ponHeld

/-- The end of every command. DESIGN CHOICE: log entry 11. -/
def finish (s : State) : State := if s.held then s else settleFirstUnit (settleCoverage s)

/-- A command's effect, from a state in which nothing has been sent out yet, and its end. The queue of the commands that wait stays as
it is. DESIGN CHOICE: log entry 2. -/
def perform (f : State → State) (s : State) : State := { finish (f { s with out := [] }) with pending := s.pending }

/-- A command whose condition holds has its effect; one whose condition does not hold is no event, and changes nothing. Nothing
but the reset and test logic acts while a cold reset is held. DESIGN CHOICE: log entry 1. -/
def run (cond : State → Bool) (f : State → State) (s : State) : State :=
  if s.held then s else if cond s then perform f s else s

/-- As `run`, for the commands of the reset, supply and test logic, which act at any time. DESIGN CHOICE: log entry 1. -/
def runAlways (cond : State → Bool) (f : State → State) (s : State) : State := if cond s then perform f s else s

/-- What a step does with no command waiting: the timebase moves on by one nanosecond (R301), unless a cold reset is held.
DESIGN CHOICE: log entry 2. -/
def idle (s : State) : State := run (fun _ => true) (fun s => advanceTo s (s.tb + nsUnits)) s

end Sys2Proof.Machine
end

