-- ==== Sys2Proof/Machine/Kiosk.lean ====
section
/-! DEFINITION. The Kiosk's rings, interrupts and completions (chapter 16): what every command of the control plane shares. -/
namespace Sys2Proof.Machine

/-- Ring states (Table 16-22) and channel states (Table 16-14). -/
abbrev rgOFF : Nat := 0
abbrev rgRUN : Nat := 1
abbrev rgSTOPPING : Nat := 2
abbrev rgHALTED : Nat := 3
abbrev chIDLE : Nat := 0
abbrev chACTIVE : Nat := 1
abbrev chPREEMPTED : Nat := 2
abbrev chSTOPPING : Nat := 3
abbrev chSTOPPED : Nat := 4
abbrev chHALTED : Nat := 5

/-- Status codes (Table 16-7). -/
abbrev stOK : Nat := 0x00
abbrev stBAD_DESCRIPTOR : Nat := 0x01
abbrev stBAD_TABLE : Nat := 0x02
abbrev stEPOCH_LATE : Nat := 0x03
abbrev stEPOCH_MISALIGNED : Nat := 0x04
abbrev stDOMAIN_OFF : Nat := 0x05
abbrev stBUS_ERROR : Nat := 0x06
abbrev stCOMPLETE_WITH_ERROR : Nat := 0x07
abbrev stSTOPPED : Nat := 0x08
abbrev stNOT_RUNNING : Nat := 0x09
abbrev stBUSY : Nat := 0x0A
abbrev stCAPACITY : Nat := 0x0B

/-- The Kiosk may issue requests: the link is up, the function is in D0 with Bus Master Enable, and no warm reset is held. -/
def pcieReady (s : State) : Bool :=
  decide (s.rd F.KIOSK_STATUS.LINK_UP 0 = 1) && decide (s.rd F.KIOSK_STATUS.D3 0 = 0) &&
    decide (s.rd F.KIOSK_STATUS.BME 0 = 1) && !s.glob.perstHeld

/-- The hidden state of a ring. -/
def getRing (s : State) (r : Nat) : Ring := Tab.getD s.ko.rings r {}

/-- The hidden state of a ring, replaced. -/
def setRing (s : State) (r : Nat) (x : Ring) : State := { s with ko := { s.ko with rings := Tab.put s.ko.rings r x } }

/-- KIOSK_RING_STATUS[r].STATE. -/
def ringState (s : State) (r : Nat) : Nat := s.rd F.KIOSK_RING_STATUS.STATE r

/-- SIZE of a ring (Table 16-21). -/
def ringSize (s : State) (r : Nat) : Nat := 2 ^ s.rd F.KIOSK_RING_CFG.LOG2_SIZE r

/-- A ring that the device produces: completion and event (Table 16-2). -/
def deviceProduced (r : Nat) : Bool := decide (r = 1) || decide (r = 2)

/-- The host address of an entry: index x names entry x mod SIZE (R341). -/
def entryAddr (s : State) (r x : Nat) : Nat := s.rd F.KIOSK_RING_BASE.ADDR r * 64 + x % ringSize s r * 64

/-- a - b of free-running 32-bit indices. -/
def idxDiff (a b : Nat) : Nat := (a + 2 ^ 32 - b % 2 ^ 32) % 2 ^ 32

/-- A host-produced ring holds a descriptor not yet started, at or below the HOST_IDX of the latest poll (R342). -/
def hasDescriptor (s : State) (r : Nat) : Bool :=
  decide (ringState s r = rgRUN) && decide ((getRing s r).next % 2 ^ 32 ≠ (getRing s r).hostIdx % 2 ^ 32)

/-- A device-produced ring has room (R344). -/
def hasRoom (s : State) (r : Nat) : Bool :=
  decide (ringState s r = rgRUN) && decide (idxDiff (getRing s r).devIdx (getRing s r).hostIdx < ringSize s r)

/-- A word of the MSI-X table; the vector control word has its mask bit set at reset, as PCIe states. PRESUMED: log entry 30. -/
def msixWord (s : State) (w : Nat) : Nat := Tab.getD s.ko.msixTable w (if w % 4 = 3 then 1 else 0)

/-- What identifies the function in its configuration space (Table 16-1), which no row of the table reads: Vendor ID, Device ID, Class Code,
Subsystem Vendor ID, Subsystem ID, and the Device Serial Number. -/
def pciIdentity (s : State) : List Nat := [0x1CA5, 0x4096, 0x118000, 0x1CA5, s.rd F.GLOBAL_ID.MEMBER 0, s.rd F.FC_SERIAL.SERIAL 0]

/-- The largest write and the largest read request, in bytes (Table 16-1). -/
def maxWrite (s : State) : Nat := min 512 (128 * 2 ^ s.ko.pci.mps)
def maxRead (s : State) : Nat := min 4096 (128 * 2 ^ s.ko.pci.mrrs)

/-- A write of the host's memory, with the ring whose DEV_IDX it carries; it waits while the Kiosk issues no requests (R340). -/
def hostPut (s : State) (p : Posted) : State :=
  if pcieReady s then
    let s1 := s.emit (.hostWrite p.addr p.bytes)
    match p.dev with
    | some (r, d) => s1.wr F.KIOSK_RING_STATUS.DEV_IDX r d
    | none => s1
  else { s with ko := { s.ko with posted := s.ko.posted ++ [p] } }

/-- The writes that waited go out in their order (R340, R343). -/
def hostFlush (s : State) : State :=
  if pcieReady s then s.ko.posted.foldl hostPut { s with ko := { s.ko with posted := [] } } else s

/-- An error of the function is reported through AER: a bit of its Uncorrectable Error Status (R338, R340). PRESUMED: log entry 105. -/
def aerReport (s : State) (i : Nat) : State := { s with ko := { s.ko with aer := setBit s.ko.aer i } }
abbrev aerPOISONED : Nat := 12
abbrev aerUNSUPPORTED : Nat := 20

/-- The message of a vector. -/
def msixSend (s : State) (v : Nat) : State :=
  s.emit (.msix v (msixWord s (4 * v) + msixWord s (4 * v + 1) * 2 ^ 32) (msixWord s (4 * v + 2)))

/-- No message of a vector may be sent: MSI-X is off, the function or the vector is masked, or the Kiosk issues no requests.
PRESUMED: log entry 30. -/
def msixHeld (s : State) (v : Nat) : Bool :=
  !pcieReady s || !s.ko.pci.msixEn || s.ko.pci.msixMask || decide (msixWord s (4 * v + 3) % 2 = 1)

/-- A vector is signalled: its message, or its pending bit while no message may be sent (R346). -/
def signal (s : State) (v : Nat) : State :=
  if msixHeld s v then
    (if s.ko.msixPba.contains v then s else { s with ko := { s.ko with msixPba := s.ko.msixPba ++ [v] } })
  else msixSend s v

/-- Pending messages that may be sent are sent. PRESUMED: log entry 30. -/
def msixRelease (s : State) : State :=
  (s.ko.msixPba.filter fun v => !msixHeld s v).foldl
    (fun s v => msixSend { s with ko := { s.ko with msixPba := s.ko.msixPba.filter fun w => decide (w ≠ v) } } v) s

/-- The vector of a ring, if it has one: rings 0 and 2 have none of their own (Table 16-2). -/
def ringVector (s : State) (r : Nat) : Option Nat := if r = 0 ∨ r = 2 then none else some (s.rd F.KIOSK_RING_CFG.VECTOR r)

/-- An advance of DEV_IDX signals the ring's vector, at most once per MOD microseconds (R346): at once when no interval runs,
which opens one, and else when the interval ends. -/
def ringSignal (s : State) (r : Nat) : State :=
  match ringVector s r with
  | none => s
  | some v =>
    let x := getRing s r
    if s.rd F.KIOSK_RING_CFG.MOD r = 0 then signal s v
    else if x.modRun then setRing s r { x with modPend := true }
    else signal (setRing s r { x with modRun := true, modAt := s.el }) v

/-- DEV_IDX of a ring advances by n: the register, the index page word, the entries count and the signal (R341, R343, R346). -/
def advanceDev (s : State) (r n : Nat) (quiet : Bool) : State :=
  let x := getRing s r
  let d := (x.devIdx + n) % 2 ^ 32
  let s1 := setRing s r { x with devIdx := d }
  let s2 := hostPut s1 { addr := s.rd F.KIOSK_IDX_BASE.ADDR 0 * 4096 + 16 * r + 8, bytes := leBytes 4 d, dev := some (r, d) }
  let s3 := bump s2 F.KIOSK_RING_ENTRIES.COUNT r n
  if quiet then s3 else ringSignal s3 r

/-- DMA_CH_STATUS[c].STATE. -/
def chState (s : State) (c : Nat) : Nat := s.rd F.DMA_CH_STATUS.STATE c

/-- Bytes moved by a channel. -/
def chMoved (s : State) (c n : Nat) : State := bump s F.DMA_CH_BYTES.BYTES c n

/-- The job of a channel. -/
def getJob (s : State) (c : Nat) : Option Job := Tab.find s.ko.chans c

/-- A channel has data ready: its job has beats not yet answered. -/
def chMoving (s : State) (c : Nat) : Bool :=
  match getJob s c with
  | some j => decide (j.answered.length < j.beats) && (decide (chState s c = chACTIVE) || decide (chState s c = chPREEMPTED) || decide (chState s c = chSTOPPING))
  | none => false

/-- Channel c, of rings 0 to 2, moves one entry: it goes ahead of every ACTIVE channel of a lower class, which resumes at once (R358).
DESIGN CHOICE: log entry 39. -/
def moveEntry (s : State) (c : Nat) : State :=
  ((List.range 32).filter fun d => chMoving s d && decide (chState s d = chACTIVE) && decide (s.rd F.DMA_CH_CFG.CLASS c < s.rd F.DMA_CH_CFG.CLASS d)).foldl
    (fun s d => bump s F.DMA_CH_PREEMPT.COUNT d 1) (chMoved s c 64)

/-- An entry of a device-produced ring is written, then the index that covers it (R343). -/
def writeEntry (s : State) (r : Nat) (bytes : List Byte) (quiet : Bool) : State :=
  advanceDev (moveEntry (hostPut s { addr := entryAddr s r (getRing s r).devIdx, bytes := bytes }) r) r 1 quiet

/-- The bytes of an event record (Table 16-8, R354). -/
def eventBytes (e : EvRec) (seq : Nat) : List Byte :=
  record 64 ([(0, 1, e.kind), if e.kind = 4 then (2, 2, e.code) else (1, 3, e.head), (4, 4, seq),
    (8, 4, e.tb / secUnits), (12, 4, e.tb / nsUnits % 1000000000)] ++ e.body)

/-- The event ring can take a record. -/
def eventReady (s : State) : Bool := pcieReady s && hasRoom s 2 && decide (chState s 2 = chIDLE)

/-- One record onto the event ring, with the vector of its event code (R353). -/
def writeEvent (s : State) (e : EvRec) : State :=
  let s1 := writeEntry s 2 (eventBytes e s.ko.evSeq) true
  signal { s1 with ko := { s1.ko with evSeq := (s1.ko.evSeq + 1) % 2 ^ 32 } } (s.rd F.KIOSK_EVT_VEC.VECTOR e.code)

/-- The EVENTS_LOST record, when events were lost (R28). -/
def writeLost (s : State) : State :=
  if s.ko.evLost = 0 then s
  else { writeEvent s { kind := 5, tb := s.tb, body := [(16, 8, s.ko.evLost)] } with ko :=
    { (writeEvent s { kind := 5, tb := s.tb, body := [(16, 8, s.ko.evLost)] }).ko with evLost := 0 } }

/-- The oldest held event goes to the ring while it has room (R28). -/
def writeOldest (s : State) : State :=
  match s.ko.evq with
  | [] => s
  | e :: t => if eventReady s then writeEvent { s with ko := { s.ko with evq := t } } e else s

/-- EVENT_RECORD_WRITE (R28). -/
def execEventRecordWrite (s : State) : Host.Outcome State Fault Refusal :=
  .next (run (fun s => eventReady s && (decide (s.ko.evLost ≠ 0) || !s.ko.evq.isEmpty)) (fun s => writeOldest (writeLost s)) s)

/-- MSIX_MODERATION_EXPIRE (R346): one message covers the advances made within the interval, and opens the next one. -/
def execMsixModerationExpire (r : Fin 12) (s : State) : Host.Outcome State Fault Refusal :=
  .next (run (fun s => (getRing s r).modRun)
    (fun s =>
      let s1 := advanceEl s ((getRing s r).modAt + s.rd F.KIOSK_RING_CFG.MOD r * 1000 * nsUnits)
      let x := getRing s1 r
      if x.modPend then signal (setRing s1 r { x with modPend := false, modAt := s1.el }) ((ringVector s1 r).getD 0)
      else setRing s1 r { x with modRun := false }) s)

/-- One ring at a poll: its HOST_IDX word is taken, or the ring halts when its indices are inconsistent (R344). -/
def pollRing (idx : List Nat) (s : State) (r : Nat) : State :=
  if ringState s r = rgRUN ∨ ringState s r = rgSTOPPING then
    let x := getRing s r
    let h := idx.getD r 0 % 2 ^ 32
    let d := if deviceProduced r then idxDiff x.devIdx h else idxDiff h x.devIdx
    if ringSize s r < d then setErr (s.wr F.KIOSK_RING_STATUS.STATE r rgHALTED) Err.KIOSK.unit Err.KIOSK.IDX_ERR r
    else setRing s r { x with hostIdx := h }
  else s

/-- Some ring is enabled. -/
def anyRing (s : State) : Bool := (List.range 12).any fun r => decide (ringState s r ≠ rgOFF)

/-- A ring is enabled: DEV_IDX is 0 and is written to the index page; the event ring restarts EVSEQ (R345, R353). A moderation interval
that runs goes on (R346). -/
def ringStart (s : State) (r : Nat) : State :=
  let x := getRing s r
  let s1 := (setRing s r { modRun := x.modRun, modAt := x.modAt, modPend := x.modPend }).wr F.KIOSK_RING_STATUS.STATE r rgRUN
  let s2 := hostPut (s1.wr F.KIOSK_RING_STATUS.DEV_IDX r 0)
    { addr := s.rd F.KIOSK_IDX_BASE.ADDR 0 * 4096 + 16 * r + 8, bytes := leBytes 4 0, dev := some (r, 0) }
  if r = 2 then { s2 with ko := { s2.ko with evSeq := 0 } } else s2

/-- The write-back of a descriptor: bytes 16 to 63 of its entry (R356). -/
def writeBack (s : State) (r x : Nat) (fields : List (Nat × Nat × Nat)) : State :=
  hostPut s { addr := entryAddr s r x + 16, bytes := (record 64 fields).drop 16 }

/-- How many entries from an index on are written back. -/
def runOf (l : List Nat) : Nat → Nat → Nat
  | 0, _ => 0
  | n + 1, x => if l.contains x then 1 + runOf l n ((x + 1) % 2 ^ 32) else 0

/-- Entry x of a host-produced ring is written back: DEV_IDX advances over the entries from it on that have been (R343). -/
def handBack (s : State) (r x : Nat) : State :=
  let y := getRing s r
  let done := x % 2 ^ 32 :: y.done
  let n := runOf done done.length (y.devIdx % 2 ^ 32)
  let s1 := setRing s r { y with done := done.filter fun e => decide (n ≤ idxDiff e y.devIdx) }
  if n = 0 then s1 else advanceDev s1 r n false

/-- Unstarted descriptors of a transmit ring complete with STOPPED (R345). -/
def stopUnstarted (s : State) (r : Nat) : Nat → State
  | 0 => s
  | n + 1 =>
    let x := getRing s r
    let s1 := writeBack s r x.next [(16, 1, stSTOPPED)]
    stopUnstarted (handBack (setRing s1 r { x with next := (x.next + 1) % 2 ^ 32 }) r x.next) r n

/-- The class S fields of a write that enables a ring anew (R345). -/
def ringTake (s : State) (r v : Nat) : State :=
  (s.wr F.KIOSK_RING_CFG.LOG2_SIZE r (bits v 16 4)).wr F.KIOSK_RING_CFG.VECTOR r (bits v 0 6)

/-- The ring reaches its boundary after EN = 0 and reads OFF (R345); a write of EN = 1 in the meantime enables it anew with its class S
fields. -/
def ringStopped (s : State) (r : Nat) : State :=
  let s1 := if 8 ≤ r then stopUnstarted s r (idxDiff (getRing s r).hostIdx (getRing s r).next) else s
  let s2 := s1.wr F.KIOSK_RING_STATUS.STATE r rgOFF
  match (getRing s r).anew with
  | some v => ringStart (ringTake s2 r v) r
  | none => s2

/-- A channel moves a descriptor of ring r, or a command of the command ring is not completed. -/
def ringBusy (s : State) (r : Nat) : Bool := (s.ko.chans.any fun e => decide (e.2.ring = r)) || (decide (r = 0) && !s.ko.cmds.isEmpty)

/-- A ring that was stopping reaches its descriptor boundary (R345). -/
def ringBoundary (s : State) (r : Nat) : State := if ringState s r = rgSTOPPING ∧ ringBusy s r = false then ringStopped s r else s

/-- KIOSK_RING_CFG[r].EN is written (R345). -/
def ringEnWritten (s : State) (r : Nat) : State :=
  if s.rd F.KIOSK_RING_CFG.EN r = 1 then (if ringState s r = rgOFF then ringStart s r else s)
  else if ringState s r = rgOFF then s
  else if ringBusy s r then (setRing s r { getRing s r with anew := none }).wr F.KIOSK_RING_STATUS.STATE r rgSTOPPING
  else ringStopped (setRing s r { getRing s r with anew := none }) r

/-- A write of KIOSK_RING_CFG[r] enables a ring that is still stopping: its fields wait with it (R345). -/
def ringAnew (s : State) (r v : Nat) : State :=
  setRing ((s.wr F.KIOSK_RING_CFG.EN r 1).wr F.KIOSK_RING_CFG.MOD r (bits v 8 8)) r { getRing s r with anew := some v }

/-- The Kiosk reads a command: the command ring holds one, its channel and that of the completion ring are free, and the
completion ring has room (R344, R351). -/
def cmdReady (s : State) : Bool :=
  pcieReady s && hasDescriptor s 0 && decide (chState s 0 = chIDLE) && hasRoom s 1 && decide (chState s 1 = chIDLE)

/-- A free DMA channel from 15 to 31 for a LOAD or READ, the lowest (R351). DESIGN CHOICE: log entry 39. -/
def freeChannel (s : State) : Option Nat := ((List.range 17).map (· + 15)).find? fun c => decide (chState s c = chIDLE)

/-- The completion of a command (Table 16-6), and the hand-back of its descriptor. -/
def writeCompletion (s : State) (idx : Nat) (desc : List Byte) (status beat result : Nat) : State :=
  let rec_ := record 64 [(0, 1, status), (1, 1, leAt desc 0 1), (4, 4, leAt desc 4 4), (8, 4, idx), (12, 4, beat), (16, 8, result),
    (24, 4, s.sec), (28, 4, s.ns)]
  advanceDev (writeEntry s 1 rec_ (decide (leAt desc 1 1 % 2 = 1))) 0 1 true

/-- The descriptor at the head of the command ring is read. -/
def takeCommand (s : State) : State :=
  let x := getRing s 0
  moveEntry (setRing s 0 { x with next := (x.next + 1) % 2 ^ 32 }) 0

/-- A command is read and its status is decided at once: it completes when every earlier command has (R351). -/
def complete (s : State) (desc : List Byte) (status beat result : Nat) : State :=
  let idx := (getRing s 0).next
  let s1 := takeCommand s
  if s.ko.cmds.isEmpty then writeCompletion s1 idx desc status beat result
  else { s1 with ko := { s1.ko with cmds := s1.ko.cmds ++ [{ idx := idx, desc := desc, res := some (status, beat, result) }] } }

/-- A completion can be written (R344). -/
def canComplete (s : State) : Bool := hasRoom s 1 && decide (chState s 1 = chIDLE)

/-- Completions are written in ring order as far as their commands are decided (R351). -/
def settleCommands : Nat → State → State
  | 0, s => s
  | n + 1, s =>
    match s.ko.cmds with
    | { idx := i, desc := d, res := some (st, b, r), .. } :: t =>
      if canComplete s then settleCommands n (writeCompletion { s with ko := { s.ko with cmds := t } } i d st b r) else s
    | _ => s

/-- The completions that can be written are written; a command ring that was stopping may reach its boundary. -/
def settleCmds (s : State) : State := ringBoundary (settleCommands s.ko.cmds.length s) 0

/-- INDEX_POLL (R342, R344): at the POLL interval, or at once after a WAKE. -/
def execIndexPoll (hostIdx : List Nat) (s : State) : Host.Outcome State Fault Refusal :=
  .next (run (fun s => pcieReady s && anyRing s)
    (fun s =>
      let s1 := if s.ko.pollNow then s else advanceEl s (s.ko.pollAt + s.rd F.KIOSK_CFG.POLL 0 * 250 * nsUnits)
      let s2 := { s1 with ko := { s1.ko with pollNow := false, pollAt := s1.el } }
      settleCmds ((List.range 12).foldl (pollRing hostIdx) (s2.emit (.hostRead (s.rd F.KIOSK_IDX_BASE.ADDR 0 * 4096) 192)))) s)

end Sys2Proof.Machine
end

