-- ==== Sys2Proof/Machine/Bank.lean ====
section
/-! DEFINITION. The run's geometry, and how a product flag reaches the bank whose dump carries it (chapters 3 and 8). -/
namespace Sys2Proof.Machine

/-- Dump header flags (Table 9-2). -/
abbrev flSTRETCHED : Nat := 1
abbrev flUNGUARANTEED : Nat := 2
abbrev flOVERFLOW_PRESENT : Nat := 4
abbrev flHOLDOVER : Nat := 8
abbrev flAUDIT_SUSPECT : Nat := 16
abbrev flINCOMPLETE_INPUTS : Nat := 32
abbrev flPRELOADED : Nat := 64
abbrev flMIRROR_DEGRADED : Nat := 128

/-- Bank states (Table 8-7). -/
abbrev bkFREE : Nat := 0
abbrev bkINTEG : Nat := 1
abbrev bkCLOSED : Nat := 2
abbrev bkDRAINING : Nat := 3

/-- T of a T_CODE (Table 3-19). -/
def tOf (code : Nat) : Nat := 256 * 2 ^ code

/-- M of a PR_CFG.M code. -/
def mOf (code : Nat) : Nat := 16 * 2 ^ code

/-- An E field under a set of copies: the active copies, or those captured for the armed epoch. -/
def State.cfg (s : State) (armed : Bool) (f : Fld) (k : Nat) : Nat :=
  match armed, s.glob.armed with
  | true, some a => Regs.rd a.capt f k
  | _, _ => s.ac f k

/-- T, M, C and F in force (R77, R149). -/
def State.T (s : State) : Nat := tOf (s.ac F.GLOBAL_DP_CFG.T_CODE 0)
def State.M (s : State) : Nat := mOf (s.ac F.PR_CFG.M 0)
def State.C (s : State) : Nat := s.ac F.PR_CHAN.C 0
def State.F (s : State) : Nat := s.C * s.M

/-- n, the number of input blocks, and N, the number of inputs. -/
def State.nBlk (s : State) : Nat := s.rd F.GLOBAL_DP_CFG.N_BLK 0
def State.N (s : State) : Nat := 32 * s.nBlk

/-- 4-bit sample mode. -/
def State.mode4 (s : State) : Bool := decide (s.rd F.GLOBAL_DP_CFG.MODE4 0 = 1)

/-- S_cell: coarse samples per input in one cell (R87). -/
def State.sCell (s : State) : Nat := if s.mode4 then 256 else 128

/-- The FSI at which the epoch in force began. -/
def State.E (s : State) : Nat := s.rd F.GLOBAL_START_FSI.E_FSI 0

/-- The first coarse sample of the armed epoch, counted with the M in force before it (R56). A START counts with its own M. -/
def armedCsi (s : State) : Option Nat :=
  s.glob.armed.map fun a => a.target * (if a.start then mOf (Regs.rd a.capt F.PR_CFG.M 0) else s.M)

/-- A coarse sample lies at or beyond the first coarse sample of an armed epoch that puts a configuration in force (R108). -/
def underArmed (s : State) (csi : Nat) : Bool :=
  match s.glob.armed with
  | none => false
  | some a => !a.stop && decide ((armedCsi s).getD 0 ≤ csi)

/-- The cycle of the run in which a coarse sample falls: cycles count from 0 at the start of the run. -/
def cycleOf (s : State) (csi : Nat) : Nat :=
  match s.glob.armed with
  | some a =>
    if underArmed s csi then
      let base := (armedCsi s).getD 0
      let len := tOf (Regs.rd a.capt F.GLOBAL_DP_CFG.T_CODE 0) * mOf (Regs.rd a.capt F.PR_CFG.M 0)
      (if a.start then 0 else s.acs.epochCyc + (a.target - s.E) / s.T) + (csi - base) / len
    else s.acs.epochCyc + (csi / s.M - s.E) / s.T
  | none => s.acs.epochCyc + (csi / s.M - s.E) / s.T

/-- The state of bank x. -/
def bankState (s : State) (x : Nat) : Nat := if x = 0 then s.rd F.ACC_STATUS.A_STATE 0 else s.rd F.ACC_STATUS.B_STATE 0

/-- The state of bank x, set. -/
def setBankState (s : State) (x v : Nat) : State := if x = 0 then s.wr F.ACC_STATUS.A_STATE 0 v else s.wr F.ACC_STATUS.B_STATE 0 v

/-- The hidden state of a bank. -/
def getBank (s : State) (x : Nat) : BankSt := Tab.getD s.acs.banks x {}

/-- The hidden state of a bank, replaced. -/
def setBank (s : State) (x : Nat) (b : BankSt) : State := { s with acs := { s.acs with banks := Tab.put s.acs.banks x b } }

/-- The bank that integrates. -/
def integBank (s : State) : Option Nat := if bankState s 0 = bkINTEG then some 0 else if bankState s 1 = bkINTEG then some 1 else none

/-- A gap in uncommitted cycles is open (R196). -/
def inGap (s : State) : Bool := decide (s.rd F.ACC_STATUS.GAP 0 = 1)

/-- DUMP_AMEND: flags or a count attributed to a bank after its header was fixed, naming a stream below 4 or none (R211). -/
def dumpAmend (s : State) (num flags ovf stream : Nat) : State :=
  raise (setErr s Err.PO.unit Err.PO.AMEND (if stream < 4 then stream else 0)) 5 [num, flags, ovf, stream]

/-- A flag onto bank x: into ACC_BANK_FLAGS, or as a DUMP_AMEND once the header is fixed. -/
def flagBank (s : State) (x flag : Nat) : State :=
  if bankState s x = bkDRAINING then
    (if (s.rd F.ACC_BANK_FLAGS.FLAGS x) &&& flag = flag then s
     else dumpAmend (s.wr F.ACC_BANK_FLAGS.FLAGS x ((s.rd F.ACC_BANK_FLAGS.FLAGS x) ||| flag)) (getBank s x).num flag 0 0xFF)
  else s.wr F.ACC_BANK_FLAGS.FLAGS x ((s.rd F.ACC_BANK_FLAGS.FLAGS x) ||| flag)

/-- A flag attached by time to the integration whose bank is in INTEG, or to the first after a gap (R94). -/
def flagNow (s : State) (flag : Nat) : State :=
  match integBank s with
  | some x => flagBank s x flag
  | none => if inGap s then { s with acs := { s.acs with nextFlags := s.acs.nextFlags ||| flag } } else s

/-- Bank x holds cycle n of the run. -/
def bankHolds (s : State) (x n : Nat) : Bool :=
  decide (bankState s x ≠ bkFREE) && decide ((getBank s x).firstCycle ≤ n) &&
    (decide (bankState s x = bkINTEG) || decide (n < (getBank s x).firstCycle + s.rd F.ACC_BANK_CYCLES.COUNT x))

/-- A flag attached by the cycle of the samples that caused it (R194): to the bank that holds the cycle, to the cycle while it
lies ahead, and to no bank for an uncommitted gap cycle. -/
def flagCycle (s : State) (n flag : Nat) : State :=
  if s.acs.cyc < n ∨ s.dp = dpARMED then
    { s with acs := { s.acs with pendFlags := Tab.put s.acs.pendFlags n (Tab.getD s.acs.pendFlags n 0 ||| flag) } }
  else if bankHolds s 0 n then flagBank s 0 flag
  else if bankHolds s 1 n then flagBank s 1 flag
  else s

/-- The first cycle of an armed epoch that keeps the data plane running; none when no such epoch is armed. -/
def armedCycle (s : State) : Option Nat :=
  s.glob.armed.bind fun a => if a.start || a.stop then none else some (s.acs.epochCyc + (a.target - s.E) / s.T)

/-- The K that governs the boundary at the end of cycle n: that of the epoch of cycle n (R189). -/
def kOfCycle (s : State) (n : Nat) : Nat :=
  max 1 (s.cfg (match armedCycle s with | some c => decide (c ≤ n) | none => false) F.ACC_INTEG.K 0)

/-- The ends that fall due before m more cycles have passed, counted from cycle `cyc` with its ℓ_i: by K, by a pending DUMP_NOW
and by the armed epoch (R189, R425). -/
def endsBefore (s : State) (forcedAt : Nat) (dump : Bool) : Nat → Nat → Nat → Nat
  | 0, _, _ => 0
  | m + 1, cyc, len =>
    if (len + 1) % kOfCycle s cyc = 0 ∨ dump = true ∨ cyc + 1 = forcedAt then 1 + endsBefore s forcedAt false m (cyc + 1) 0
    else endsBefore s forcedAt false m (cyc + 1) (len + 1)

/-- The cycle boundary at which an armed epoch forces an end, as the cycle that begins there; 0 when none does. -/
def forcedCycle (s : State) : Nat :=
  match s.glob.armed with
  | none => 0
  | some a =>
    if a.start then 0
    else if a.stop ∨ Regs.rd a.capt F.PR_CHAN.C 0 ≠ s.C ∨ mOf (Regs.rd a.capt F.PR_CFG.M 0) ≠ s.M ∨
        tOf (Regs.rd a.capt F.GLOBAL_DP_CFG.T_CODE 0) ≠ s.T then s.acs.epochCyc + (a.target - s.E) / s.T
    else 0

/-- Cycle n goes uncommitted, as far as is known: a gap is open, and no later boundary can end it before n, since n has begun or the bank
that is to follow is not FREE (R196). DESIGN CHOICE: log entry 102. -/
def gapHolds (s : State) (n : Nat) : Bool :=
  inGap s && !bankHolds s 0 n && !bankHolds s 1 n && (decide (n ≤ s.acs.cyc) || decide (bankState s (1 - s.acs.lastClosed) ≠ bkFREE))

/-- The INTEG_NUM of the integration that holds, or is to hold, cycle n; for a cycle of a gap, that of the first integration after it
(R425). -/
def integNumOf (s : State) (n : Nat) : Nat :=
  if bankHolds s 0 n ∧ bankState s 0 ≠ bkINTEG then (getBank s 0).num
  else if bankHolds s 1 n ∧ bankState s 1 ≠ bkINTEG then (getBank s 1).num
  else if s.dp = dpARMED then (s.rd F.ACC_INTEG_NUM.NUM 0 + 1 + n / max 1 (s.cfg true F.ACC_INTEG.K 0)) % 2 ^ 32
  else if gapHolds s n then (s.rd F.ACC_INTEG_NUM.NUM 0 + 1) % 2 ^ 32
  else if inGap s then (s.rd F.ACC_INTEG_NUM.NUM 0 + 1 + endsBefore s (forcedCycle s) false (n - s.acs.cyc - 1) (s.acs.cyc + 1) 0) % 2 ^ 32
  else
    (s.rd F.ACC_INTEG_NUM.NUM 0 + 1 +
      endsBefore s (forcedCycle s) (decide (s.rd F.ACC_STATUS.DUMP_PENDING 0 = 1)) (n - s.acs.cyc) s.acs.cyc (s.rd F.ACC_INTEG_LEN.LEN 0)) % 2 ^ 32

end Sys2Proof.Machine
end

