-- ==== Sys2Proof/Machine/Pcs.lean ====
section
/-! DEFINITION. The line code of a Yargil lane (R82 to R84): blocks, scrambler, 256b/257b transcoding, RS(544,514), PAM4 symbols. What R82
and R83 take from IEEE 802.3 (its bit orders, polynomials and mappings) is PRESUMED: log entry 100. -/
namespace Sys2Proof.Machine

/-- What the decoder made of one RS(544,514) codeword (R83): the symbols it corrected, or that it was uncorrectable. -/
inductive CodewordResult where
  | good (corrected : Nat)
  | uncorrectable
  deriving DecidableEq, Repr

/-- A 66-bit block (R83, R84): a data block with its eight bytes, a control block with its type and bytes 1 to 7, or a received
block whose 4-bit code, or whose group's header bits, are none of Yargil's. -/
inductive LineBlock where
  | data (bytes : List Byte)
  | control (type : Nat) (bytes : List Byte)
  | bad
  deriving DecidableEq, Repr

/-- Control block types and their 4-bit codes (Table 4-2). -/
abbrev ctIDLE : Nat := 0x2A
abbrev ctCSTART : Nat := 0x5C
abbrev ctCEND : Nat := 0x93
abbrev ctTSTAT : Nat := 0xC6
abbrev ctRPT : Nat := 0xE1

/-- Table 4-2: each type and its 4-bit code. -/
def controlCodes : List (Nat × Nat) := [(ctIDLE, 1), (ctCSTART, 2), (ctCEND, 3), (ctTSTAT, 4), (ctRPT, 5)]

/-- The 4-bit code of a type that Table 4-2 lists. -/
def codeOf (type : Nat) : Nat := ((controlCodes.find? fun e => decide (e.1 = type)).map Prod.snd).getD 0

/-- The type that a 4-bit code stands for; none for a code not listed (R84). -/
def typeOfCode (code : Nat) : Option Nat := (controlCodes.find? fun e => decide (e.2 = code)).map Prod.fst

/-- Bit i of a number, as a number. -/
def bitAt (x i : Nat) : Nat := x / 2 ^ i % 2

/-- n bits through the self-synchronising scrambler 1 + x^39 + x^58 (R83): the 58 scrambled bits sent last, latest in bit 0, and the
bits in sending order from bit 0. Descrambling shifts in what it receives. -/
def scrambleBits (descramble : Bool) : Nat → Nat → Nat → Nat × Nat
  | 0, h, _ => (h, 0)
  | n + 1, h, x =>
    let o := (x % 2 + bitAt h 38 + bitAt h 57) % 2
    let r := scrambleBits descramble n ((2 * h + if descramble then x % 2 else o) % 2 ^ 58) (x / 2)
    (r.1, o + 2 * r.2)

/-- The bits that the scrambler adds to the next 8 bits it takes: they depend on bits already sent alone. -/
def scrambleMask (h : Nat) : Nat := (List.range 8).foldr (fun i acc => (bitAt h (38 - i) + bitAt h (57 - i)) % 2 + 2 * acc) 0

/-- The 64-bit payload of a block to send (R83, R84). -/
def blockPayload : LineBlock → Nat
  | .data bytes => leNat bytes
  | .control t bytes => t + 256 * leNat bytes
  | .bad => 0

/-- The block is a control block. -/
def isControl : LineBlock → Bool
  | .data _ => false
  | _ => true

/-- A scrambled block of a group on its way out: whether it is a control block, its scrambled payload, and the scrambled 4-bit code that
stands for its type. -/
structure CodedBlock where
  control : Bool
  payload : Nat
  code : Nat
  deriving DecidableEq, Repr

/-- Blocks scrambled in their order. -/
def scrambleBlocks : Nat → List LineBlock → Nat × List CodedBlock
  | h, [] => (h, [])
  | h, b :: t =>
    let r := scrambleBits false 64 h (blockPayload b)
    let q := scrambleBlocks r.1 t
    (q.1, { control := isControl b, payload := r.2, code := codeOf (blockPayload b % 256) ^^^ (scrambleMask h % 16) } :: q.2)

/-- The payload bits of a group: the first control block gives its code in place of its type. -/
def groupBits : Bool → List CodedBlock → Nat
  | _, [] => 0
  | first, b :: t =>
    if first && b.control then b.code + 2 ^ 4 * (b.payload / 2 ^ 8 + 2 ^ 56 * groupBits false t)
    else b.payload + 2 ^ 64 * groupBits first t

/-- Bits 8 to 12 of a 257-bit block added to its first five bits, which no scrambler has passed; done twice it changes nothing. -/
def mixHead (x : Nat) : Nat := x ^^^ (x / 2 ^ 8 % 32)

/-- A group of four blocks as one 257-bit block (R83): bit 0 set for four data blocks; else a bit for each block, set for data. -/
def transcode (l : List CodedBlock) : Nat :=
  mixHead (if l.all (fun b => !b.control) then 1 + 2 * groupBits true l
    else 2 * (l.foldr (fun b acc => (if b.control then 0 else 1) + 2 * acc) 0) + 32 * groupBits true l)

/-- Blocks cut into groups of four and transcoded. -/
def transcodeAll : Nat → List CodedBlock → List Nat
  | 0, _ => []
  | n + 1, l => transcode (l.take 4) :: transcodeAll n (l.drop 4)

/-- The blocks of a received group that holds a control block: header bits `flags`, `bits` from the payload on. The scrambler's history
goes on over the type that the code stands for; a code not listed makes a bad block. -/
def untranscode : Nat → Bool → Nat → Nat → Nat → Nat × List LineBlock
  | 0, _, h, _, _ => (h, [])
  | n + 1, first, h, flags, x =>
    let control := decide (flags % 2 = 0)
    if first && control then
      let mask := scrambleMask h
      let type := typeOfCode (x % 16 ^^^ (mask % 16))
      let r := scrambleBits true 64 h ((type.getD 0 ^^^ mask) + 2 ^ 8 * (x / 2 ^ 4 % 2 ^ 56))
      let q := untranscode n false r.1 (flags / 2) (x / 2 ^ 60)
      (q.1, (match type with | none => .bad | some t => .control t (leBytes 7 (r.2 / 2 ^ 8))) :: q.2)
    else
      let r := scrambleBits true 64 h (x % 2 ^ 64)
      let q := untranscode n first r.1 (flags / 2) (x / 2 ^ 64)
      (q.1, (if control then .control (r.2 % 256) (leBytes 7 (r.2 / 2 ^ 8)) else .data (leBytes 8 r.2)) :: q.2)

/-- The four blocks of a received 257-bit block. Header bits that name no control block make four bad blocks. DESIGN CHOICE: log entry 100. -/
def groupBlocks (h y : Nat) : Nat × List LineBlock :=
  let x := mixHead y
  if x % 2 = 1 then untranscode 4 true h 15 (x / 2)
  else if x / 2 % 16 = 15 then (h, List.replicate 4 .bad) else untranscode 4 true h (x / 2 % 16) (x / 32)

/-- The blocks of the 257-bit blocks received, n of them in the bits of x. -/
def codewordBlocks : Nat → Nat → Nat → Nat × List LineBlock
  | 0, h, _ => (h, [])
  | n + 1, h, x =>
    let r := groupBlocks h (x % 2 ^ 257)
    let q := codewordBlocks n r.1 (x / 2 ^ 257)
    (q.1, r.2 ++ q.2)

/-- A number whose digits of w bits stand lowest first. -/
def packDigits (w : Nat) (l : List Nat) : Nat := l.foldr (fun d acc => d % 2 ^ w + 2 ^ w * acc) 0

/-- The n digits of w bits of a number, lowest first. -/
def digits (w : Nat) : Nat → Nat → List Nat
  | 0, _ => []
  | n + 1, x => x % 2 ^ w :: digits w n (x / 2 ^ w)

/-- Multiplication by x in GF(2^10) modulo x^10 + x^3 + 1. -/
def gfX (a : Nat) : Nat := if a < 512 then 2 * a else (2 * a) ^^^ 1033

/-- The product of GF(2^10), by the bits of its second operand. -/
def gfMulBits : Nat → Nat → Nat → Nat
  | 0, _, _ => 0
  | n + 1, a, b => (if b % 2 = 1 then a else 0) ^^^ gfMulBits n (gfX a) (b / 2)

/-- The product of GF(2^10). -/
def gfMul (a b : Nat) : Nat := if a = 0 ∨ b = 0 then 0 else gfMulBits 10 a b

/-- The inverse a^1022 = a^2 a^4 … a^512 in GF(2^10). -/
def gfInv (a : Nat) : Nat :=
  ((List.range 9).foldl (fun (p : Nat × Nat) _ => (gfMul p.1 p.1, gfMul p.2 (gfMul p.1 p.1))) (a, 1)).2

/-- The power n of the primitive element. -/
def gfAlpha (n : Nat) : Nat := (List.range n).foldl (fun a _ => gfX a) 1

/-- The polynomial, its lowest coefficient first, at a point. -/
def polyAt (p : List Nat) (x : Nat) : Nat := p.foldr (fun c acc => c ^^^ gfMul x acc) 0

/-- Sum of two polynomials. -/
def polyAdd : List Nat → List Nat → List Nat
  | [], q => q
  | p, [] => p
  | a :: p, b :: q => (a ^^^ b) :: polyAdd p q

/-- Product of two polynomials. -/
def polyMul : List Nat → List Nat → List Nat
  | [], _ => []
  | a :: p, q => polyAdd (q.map (gfMul a)) (0 :: polyMul p q)

/-- The 30 coefficients below the leading one of the generator polynomial of RS(544,514), highest first. -/
def rsGenerator : List Nat :=
  (((List.range 30).foldl (fun p j => polyMul [gfAlpha j, 1] p) [1]).take 30).reverse

/-- The 30 parity symbols of a message, in sending order (R83). -/
def rsParity (msg : List Nat) : List Nat :=
  let g := rsGenerator
  msg.foldl (fun reg m =>
    let fb := m ^^^ reg.headD 0
    List.zipWith (fun a b => a ^^^ gfMul fb b) (reg.drop 1 ++ [0]) g) (List.replicate 30 0)

/-- The syndromes of a word of 544 symbols in sending order. -/
def rsSyndromes (word : List Nat) : List Nat := (List.range 30).map fun j => polyAt word.reverse (gfAlpha j)

/-- The state of the Berlekamp-Massey search: locator, earlier locator, its length, shift, and the earlier discrepancy. -/
structure RsSearch where
  loc : List Nat := [1]
  old : List Nat := [1]
  len : Nat := 0
  shift : Nat := 1
  disc : Nat := 1
  deriving DecidableEq, Repr

/-- One syndrome into the search. -/
def rsSearchStep (syn : List Nat) (q : RsSearch) (n : Nat) : RsSearch :=
  let d := (List.range (q.len + 1)).foldl (fun acc i => acc ^^^ gfMul (q.loc.getD i 0) (syn.getD (n - i) 0)) 0
  if d = 0 then { q with shift := q.shift + 1 }
  else
    let next := polyAdd q.loc (List.replicate q.shift 0 ++ q.old.map (gfMul (gfMul d (gfInv q.disc))))
    if 2 * q.len ≤ n then { loc := next, old := q.loc, len := n + 1 - q.len, shift := 1, disc := d }
    else { q with loc := next, shift := q.shift + 1 }

/-- The error values that a locator gives, by the position counted from the end of the word. -/
def rsErrors (syn : List Nat) (q : RsSearch) : List (Nat × Nat) :=
  let omega := (polyMul syn q.loc).take 30
  let deriv := (q.loc.drop 1).zipIdx.map fun e => if e.2 % 2 = 0 then e.1 else 0
  let points := (List.range 544).map fun i => (i, gfInv (gfAlpha i))
  (points.filter fun e => decide (polyAt q.loc e.2 = 0)).map fun e =>
    (e.1, gfMul (gfAlpha e.1) (gfMul (polyAt omega e.2) (gfInv (polyAt deriv e.2))))

/-- The word decoded (R83): the codeword of RS(544,514) within 15 symbols of it, with how many symbols differ; none when no codeword is. -/
def rsDecode (word : List Nat) : Option (List Nat × Nat) :=
  if word.length ≠ 544 then none
  else
    let syn := rsSyndromes word
    if syn.all (· = 0) then some (word, 0)
    else
      let errs := rsErrors syn ((List.range 30).foldl (rsSearchStep syn) {})
      let fixed := errs.foldl (fun w e => w.set (543 - e.1) ((w.getD (543 - e.1) 0) ^^^ e.2)) word
      if errs.length ≤ 15 ∧ (rsSyndromes fixed).all (· = 0) then some (fixed, errs.length) else none

/-- Gray mapping of two bits, the first sent in bit 0, to a PAM4 level, and back (R82). -/
def grayLevel (b : Nat) : Nat := [0, 3, 1, 2].getD b 0
def grayBits (level : Nat) : Nat := [0, 2, 3, 1].getD level 0

/-- 1/(1+D) precoding of levels after the one sent before, and its inverse at the receiver (R82). -/
def precode : Nat → List Nat → List Nat
  | _, [] => []
  | p, g :: t => (g + 4 - p) % 4 :: precode ((g + 4 - p) % 4) t
def unprecode : Nat → List Nat → List Nat
  | _, [] => []
  | p, g :: t => (g + p) % 4 :: unprecode g t

/-- The PAM4 levels of a codeword's 544 symbols of 10 bits. -/
def codewordLevels (word : List Nat) : List Nat := (digits 2 2720 (packDigits 10 word)).map grayLevel

/-- The 544 symbols that PAM4 levels spell. -/
def levelSymbols (levels : List Nat) : List Nat := digits 10 544 (packDigits 2 (levels.map grayBits))

/-- Eighty blocks as the levels of one codeword (R82, R83), before precoding, and the scrambler's history after it. -/
def encodeBlocks (h : Nat) (blocks : List LineBlock) : Nat × List Nat :=
  let q := scrambleBlocks h blocks
  let msg := digits 10 514 (packDigits 257 (transcodeAll 20 q.2))
  (q.1, codewordLevels (msg ++ rsParity msg))

/-- Codewords sent one after another: the scrambler's history after them, and their levels. -/
def encodeCodewords : Nat → List (List LineBlock) → Nat × List Nat
  | h, [] => (h, [])
  | h, b :: t =>
    let r := encodeBlocks h b
    let q := encodeCodewords r.1 t
    (q.1, r.2 ++ q.2)

/-- A codeword received (R82 to R84): 2,720 levels, after the level received last, through precoding and the decoder; an uncorrectable
one passes its blocks on as received. The result, the blocks, and the descrambler's history. -/
def decodeLevels (precoded : Bool) (last h : Nat) (levels : List Nat) : CodewordResult × List LineBlock × Nat :=
  let word := levelSymbols (if precoded then unprecode last levels else levels)
  let d := if levels.length = 2720 then rsDecode word else none
  let q := codewordBlocks 20 h (packDigits 10 (((d.map Prod.fst).getD word).take 514))
  ((match d with | some e => .good e.2 | none => .uncorrectable), q.2, q.1)

/-- The blocks of one IDLE codeword, and of the codeword that carries a report (Table 4-6). -/
def idleBlocks : List LineBlock := List.replicate 80 (.control ctIDLE (List.replicate 7 0))
def reportBlocks (report : List Byte) : List LineBlock :=
  .control ctRPT (List.replicate 7 0) :: ((List.range 8).map fun i => .data ((report.drop (8 * i)).take 8)) ++ idleBlocks.take 71

end Sys2Proof.Machine
end

