-- ==== Sys2Proof/Machine/Yargil.lean ====
section
/-! DEFINITION. The Yargil lanes: training, codewords and their blocks, reports and the lane states (chapter 4). -/
namespace Sys2Proof.Machine

/-- Lane states (Table 4-7). -/
abbrev lnOFF : Nat := 0
abbrev lnSIGNAL_WAIT : Nat := 1
abbrev lnCDR : Nat := 2
abbrev lnADAPT : Nat := 3
abbrev lnTX_TRAIN : Nat := 4
abbrev lnCW_LOCK : Nat := 5
abbrev lnTRAIN_FAIL : Nat := 7

/-- One millisecond and one microsecond in timebase units. -/
abbrev msUnits : Nat := 65536000000
abbrev usUnits : Nat := 65536000

/-- The hidden state of a lane. -/
def getLane (s : State) (k : Nat) : Lane := Tab.getD s.yg.lanes k {}

/-- The hidden state of a lane, replaced. -/
def setLane (s : State) (k : Nat) (x : Lane) : State := { s with yg := { s.yg with lanes := Tab.put s.yg.lanes k x } }

/-- YG_LANE_STATUS[k].STATE. -/
def laneState (s : State) (k : Nat) : Nat := s.rd F.YG_LANE_STATUS.STATE k

/-- The lane enters a state: the register, and when. -/
def enterLane (s : State) (k st : Nat) : State :=
  let x := getLane s k
  setLane (s.wr F.YG_LANE_STATUS.STATE k st) k { x with train := { x.train with stateAt := s.el } }

/-- The lane-health report (Table 4-5). Outside TX_TRAIN it repeats the last request. DESIGN CHOICE: log entry 101. -/
def laneReport (s : State) (k : Nat) : List Byte :=
  let x := getLane s k
  let body := [BitVec.ofNat 8 1, BitVec.ofNat 8 k, BitVec.ofNat 8 (laneState s k),
      BitVec.ofNat 8 (effRole s k + 4 * s.rd F.YG_LANE_STATUS.DEGRADED k), BitVec.ofNat 8 x.train.reqNum,
      BitVec.ofNat 8 (x.train.preReq + 4 * x.train.postReq), 0, 0] ++
    beBytes 4 s.sec ++ beBytes 4 s.ns ++ (x.counts.flatMap fun c => beBytes 4 (min c (2 ^ 32 - 1))) ++ List.replicate 24 0
  body ++ beBytes 4 (crc32 body)

/-- Levels as the transmitter of a lane sends them: precoded after the level before, where the lane precodes (R82). -/
def sentLevels (s : State) (k p : Nat) (l : List Nat) : List Nat := if s.rd F.YG_LANE_CTL.PRECODE k = 1 then precode p l else l

/-- A report burst on the line (Table 4-6), with times in tenths of a ns from its start, and the scrambler's history after it. The
10,625 symbols of the wake pattern end with a 0. -/
def burstLine (s : State) (k : Nat) (report : List Byte) : Nat × List (Nat × LineEvent) :=
  let r := encodeCodewords (getLane s k).scram (List.replicate 16 idleBlocks ++ [reportBlocks report] ++ List.replicate 2 idleBlocks)
  let l := sentLevels s k 0 r.2
  (r.1, [(0, .wake), (2000, .levels (l.take (16 * 2720))), (10192, .levels ((l.drop (16 * 2720)).take 2720)),
    (10704, .levels (l.drop (17 * 2720))), (11728, .idle)])

/-- One report burst (R98): the report is sent, and its counts start anew. -/
def sendReport (s : State) (k : Nat) : State :=
  let x := getLane s k
  let line := burstLine s k (laneReport s k)
  setLane (s.emit (.burst k (laneReport s k) line.2)) k { x with counts := [0, 0, 0, 0, 0], repAt := s.el, scram := line.1 }

/-- When codeword j of TX_TRAIN starts: every 51.2 ns (R83). -/
def codewordAt (s : State) (k j : Nat) : Nat := (getLane s k).train.stateAt + j * 16777216 / 5

/-- How many codewords of TX_TRAIN have started by now. -/
def codewordsBy (s : State) (k : Nat) : Nat := (s.el - (getLane s k).train.stateAt) * 5 / 16777216 + 1

/-- The report in codeword j of TX_TRAIN, with the timebase at the codeword's start. -/
def trainReport (s : State) (k j : Nat) : List Byte := laneReport { s with tb := s.tb - (s.el - codewordAt s k j) } k

/-- The reports of the codewords of TX_TRAIN that have started and not been sent: one to a codeword (R100). The first carries the counts,
which then start anew. -/
def trainReports (s : State) (k : Nat) : State :=
  let x := getLane s k
  let n := codewordsBy s k
  if n ≤ x.train.sent then s
  else
    let s1 := s.emit (.report k (trainReport s k x.train.sent))
    let s2 := setLane s1 k { x with counts := [0, 0, 0, 0, 0], train := { x.train with sent := n } }
    (List.range' (x.train.sent + 1) (n - x.train.sent - 1)).foldl (fun s j => s.emit (.report k (trainReport s k j))) s2

/-- n added to count i of the report interval. -/
def laneCount (s : State) (k i n : Nat) : State :=
  let x := getLane s k
  setLane s k { x with counts := x.counts.set i (x.counts.getD i 0 + n) }

/-- Symbols that an eye scan has compared by now (R396): after 1 µs of settling, at 53.125 GBd. DESIGN CHOICE: log entry 23. -/
def eyeSymbols (s : State) (k : Nat) : Nat :=
  min (2 ^ (10 + s.rd F.BELV_EYE_CTL.DWELL k)) ((s.el - Tab.getD s.bv.eyeAt k 0 - usUnits) * 53125 / (1000 * nsUnits))

/-- A running eye scan of lane k ends ABORTED with a cause and the counts reached so far (R397). DESIGN CHOICE: log entry 23. -/
def eyeAbort (s : State) (k cause errs : Nat) : State :=
  (((s.wr F.BELV_EYE_STATUS.STATE k 3).wr F.BELV_EYE_STATUS.CAUSE k cause).wr F.BELV_EYE_ERRS.ERRS k (min errs (eyeSymbols s k))).wr F.BELV_EYE_SYMS.SYMS k (eyeSymbols s k)

/-- The MIRROR_DEGRADED mark of R94, and its event for a source (0) or a lane (1). -/
def markMirror (s : State) (kind item : Nat) : State := raise (flagNow s flMIRROR_DEGRADED) 13 [kind, item]

/-- The cell in progress on a lane ends because the lane leaves UP: counted TRUNC (Table 4-7). -/
def truncCell (s : State) (k : Nat) : State :=
  let x := getLane s k
  if x.cell.isSome then laneCount (bump (setLane s k { x with cell := none }) F.YG_LANE_TRUNC.COUNT k 1) k 4 1 else s

/-- A departure from UP, by whichever row of Table 4-7 (R101): counted and announced, one burst sent, an eye scan aborted, the
recovered clock gated. The lane has entered its next state. -/
def announceDown (s : State) (k : Nat) : State :=
  let s1 := raise (setErr (bump s F.YG_LANE_DOWN_CNT.COUNT k 1) Err.YG.unit Err.YG.LANE_DOWN k) 16 [k]
  let s2 := if s.dp = dpRUNNING ∧ 2 ≤ effRole s k then markMirror s1 1 k else s1
  let s3 := if s2.rd F.BELV_EYE_STATUS.STATE k = 1 then eyeAbort (s2.takeFree).2 k 2 (s2.takeFree).1 else s2
  let s4 := if s3.rd F.YG_CFG.RCLK_LANE 0 = k then rclkGate s3 false else s3
  sendReport s4 k

/-- The lane moves to a state from wherever it is; from UP the departure is announced. -/
def leaveLane (s : State) (k st : Nat) : State :=
  let up := decide (laneState s k = laneUP)
  let s1 := truncCell (if laneState s k = lnTX_TRAIN then trainReports s k else s) k
  let s2 := enterLane ((s1.wr F.YG_LANE_STATUS.CW_LOCK k 0).wr F.YG_LANE_STATUS.CDR_LOCK k 0) k st
  let s3 := setLane s2 k { getLane s2 k with good := 0, bad := 0 }
  if up then announceDown s3 k else s3

/-- A lane whose role is not DISABLED and whose quad is ON leaves OFF (Table 4-7). -/
def laneEnable (s : State) (k : Nat) : State :=
  if laneState s k = lnOFF ∧ effRole s k ≠ 0 ∧ domOn s (28 + k / 4) = true then enterLane s k lnSIGNAL_WAIT else s

/-- The lane goes to OFF, then to SIGNAL_WAIT if it is enabled (Table 4-7, last row). -/
def laneOff (s : State) (k : Nat) : State :=
  laneEnable (if laneState s k = lnOFF then s else (leaveLane s k lnOFF).wr F.YG_LANE_STATUS.LOS k 1) k

/-- SIGNAL_DETECT (R101): the training timer starts. -/
def execSignalDetect (k : Fin 64) (s : State) : Host.Outcome State Fault Refusal :=
  .next (run (fun s => decide (laneState s k = lnSIGNAL_WAIT))
    (fun s =>
      let s1 := enterLane (s.wr F.YG_LANE_STATUS.LOS k 0) k lnCDR
      setLane s1 k { getLane s1 k with train := { (getLane s1 k).train with timerAt := s.el } }) s)

/-- The training timer of a lane has not passed a limit in ms. -/
def withinTimer (s : State) (k ms : Nat) : Bool := decide (s.el ≤ (getLane s k).train.timerAt + ms * msUnits)

/-- The twelve DFE taps as registers (Table 4-14). -/
def tapFields : List Fld :=
  [F.YG_LANE_DFE_A.TAP0, F.YG_LANE_DFE_A.TAP1, F.YG_LANE_DFE_A.TAP2, F.YG_LANE_DFE_A.TAP3,
   F.YG_LANE_DFE_B.TAP0, F.YG_LANE_DFE_B.TAP1, F.YG_LANE_DFE_B.TAP2, F.YG_LANE_DFE_B.TAP3,
   F.YG_LANE_DFE_C.TAP0, F.YG_LANE_DFE_C.TAP1, F.YG_LANE_DFE_C.TAP2, F.YG_LANE_DFE_C.TAP3]

/-- Values written to a list of fields of copy k. -/
def wrAll (s : State) (k : Nat) (l : List (Fld × Nat)) : State := l.foldl (fun s e => s.wr e.1 k e.2) s

/-- The equaliser registers of a lane, as the fields of its CTLE setting, its gain and its taps. -/
def eqFields : List Fld := F.YG_LANE_EQ.CTLE :: F.YG_LANE_EQ.VGA :: tapFields

/-- With COLD_TRAIN = 1 the equaliser starts ADAPT from its defaults, else from its last values (R102). -/
def startAdapt (s : State) (k : Nat) : State :=
  if s.rd F.YG_LANE_CTL.COLD_TRAIN k = 1 then wrAll s k (eqFields.zip ((List.range 14).map Config.eqDefault)) else s

/-- CDR_LOCK (R95, R101, R102): within ±200 ppm and 2 ms. -/
def execCdrLock (k : Fin 64) (ppm : Int) (s : State) : Host.Outcome State Fault Refusal :=
  .next (run (fun s => decide (laneState s k = lnCDR) && decide (ppm.natAbs ≤ 2000) && withinTimer s k 2)
    (fun s => startAdapt (enterLane ((s.wr F.YG_LANE_STATUS.CDR_LOCK k 1).wr F.YG_LANE_STATUS.PPM k (unsigned 16 ppm)) k lnADAPT) k) s)

/-- The F-engine's cursor indices from which TX_TRAIN starts (R102): those of its last TSTAT, or the defaults. -/
def txStart (s : State) (k : Nat) : Nat × Nat :=
  if s.rd F.YG_LANE_CTL.COLD_TRAIN k = 1 then (Config.eqDefault 14, Config.eqDefault 15)
  else (s.rd F.YG_LANE_EQ.TX_PRE k, s.rd F.YG_LANE_EQ.TX_POST k)

/-- A new request of TX_TRAIN: the reports that start from now on carry it (R100). -/
def nextRequest (s : State) (k pre post : Nat) : State :=
  let x := getLane s k
  let t := x.train
  setLane s k { x with train := { t with reqNum := (t.reqNum + 1) % 256, preReq := pre % 4, postReq := post % 4,
                                         requests := t.requests + 1, reqAt := s.el } }

/-- ADAPT_DONE (R96, R101): within 12 ms; the back-channel begins to transmit continuously. -/
def execAdaptDone (k : Fin 64) (ctle vga : Nat) (taps : List Int) (s : State) : Host.Outcome State Fault Refusal :=
  .next (run (fun s => decide (laneState s k = lnADAPT) && withinTimer s k 12)
    (fun s =>
      let s1 := wrAll ((s.wr F.YG_LANE_EQ.CTLE k ctle).wr F.YG_LANE_EQ.VGA k vga) k (tapFields.zip (taps.map (unsigned 8)))
      let s2 := enterLane (s1.wr F.YG_LANE_STATUS.TXEQ_TIMEOUT k 0) k lnTX_TRAIN
      let x := getLane s2 k
      let t1 := { x.train with requests := 0, preReq := 0, postReq := 0, fin := decide (s.rd F.YG_LANE_CTL.TXEQ_SKIP k = 1) }
      setLane s2 k { x with train := { t1 with matchAt := s.el, reqAt := s.el, sent := 0, txFrom := txStart s k } }) s)

/-- TXEQ_REQUEST_EVAL (R100): each request is evaluated for 200 µs; the tuning ends when neither cursor improves the eye, or
after 150 requests. -/
def execTxeqRequestEval (k : Fin 64) (request : Option (Nat × Nat)) (s : State) : Host.Outcome State Fault Refusal :=
  .next (run (fun s => decide (laneState s k = lnTX_TRAIN) && !(getLane s k).train.fin)
    (fun s =>
      let q := (getLane s k).train
      let s1 := trainReports (if q.requests = 0 then s else advanceEl s (q.reqAt + 200 * usUnits)) k
      let x := getLane s1 k
      match request with
      | none => setLane s1 k { x with train := { x.train with fin := true } }
      | some (pre, post) =>
        if 150 ≤ x.train.requests then setLane s1 k { x with train := { x.train with fin := true } }
        else nextRequest s1 k pre post) s)

/-- TSTAT_RECEIVE (R100): the cursor indices of the last TSTAT, and whether it answers the request in force; ignored outside
TX_TRAIN. -/
def execTstatReceive (k : Fin 64) (reqNum pre post _status : Nat) (s : State) : Host.Outcome State Fault Refusal :=
  .next (run (fun s => decide (laneState s k = lnTX_TRAIN))
    (fun s =>
      let s1 := (s.wr F.YG_LANE_EQ.TX_PRE k pre).wr F.YG_LANE_EQ.TX_POST k post
      let x := getLane s1 k
      if reqNum = x.train.reqNum then setLane s1 k { x with train := { x.train with matchAt := s.el } } else s1) s)

/-- TXEQ_TIMEOUT (R100): no matching TSTAT for 1 ms; training continues with the values in force. -/
def execTxeqTimeout (k : Fin 64) (s : State) : Host.Outcome State Fault Refusal :=
  .next (run (fun s => decide (laneState s k = lnTX_TRAIN) && !(getLane s k).train.fin)
    (fun s =>
      let s1 := trainReports (advanceEl s ((getLane s k).train.matchAt + msUnits)) k
      let x := getLane s1 k
      setErr ((setLane s1 k { x with train := { x.train with fin := true } }).wr F.YG_LANE_STATUS.TXEQ_TIMEOUT k 1)
        Err.YG.unit Err.YG.TXEQ_TIMEOUT k) s)

/-- TX_TRAIN_DONE (R100, R101): within 42 ms. -/
def execTxTrainDone (k : Fin 64) (s : State) : Host.Outcome State Fault Refusal :=
  .next (run (fun s => decide (laneState s k = lnTX_TRAIN) && (getLane s k).train.fin && withinTimer s k 42)
    (fun s => enterLane (trainReports s k) k lnCW_LOCK) s)

/-- The cell in progress ends: it is held for its check. -/
def endCell (x : Lane) (c : LaneCell) : Lane := { x with cell := none, ended := x.ended ++ [c] }

/-- One block of a codeword of an UP lane (R84, R85): the lane with it taken, and how many bad blocks it is. The bad blocks of an
uncorrectable codeword count as any other. DESIGN CHOICE: log entry 101. -/
def takeBlock (uncorr : Bool) (x : Lane) (b : LineBlock) : Lane × Nat :=
  let mark := fun (c : LaneCell) => { c with uncorr := c.uncorr || uncorr }
  match b, x.cell with
  | .data bytes, some c => ({ x with cell := some { mark c with bytes := if c.blocks < 516 then c.bytes ++ bytes else c.bytes, blocks := c.blocks + 1 } }, 0)
  | .data _, none => (x, 1)
  | .control t bytes, cell =>
    let broke := match cell with | some c => endCell x { mark c with broken := true } | none => x
    if t = ctCSTART then ({ broke with cell := some { uncorr := uncorr } }, 0)
    else if t = ctCEND then
      (match cell with
       | some c => (endCell x { mark c with crc := leNat (bytes.take 4) }, 0)
       | none => (x, 1))
    else if t = ctIDLE ∨ t = ctTSTAT then (broke, 0)
    else (broke, 1)
  | .bad, some c => (endCell x { mark c with broken := true }, 1)
  | .bad, none => (x, 1)

/-- The blocks of a codeword in their order. -/
def takeBlocks (uncorr : Bool) : Lane → List LineBlock → Lane × Nat
  | x, [] => (x, 0)
  | x, b :: t =>
    let r := takeBlock uncorr x b
    let q := takeBlocks uncorr r.1 t
    (q.1, r.2 + q.2)

/-- The FEC counters of a codeword (R105), and those of the report and of the degrade window. -/
def fecCount (s : State) (k : Nat) (r : CodewordResult) : State :=
  match r with
  | .uncorrectable => laneCount (bump s F.YG_LANE_UNCORR_CW.COUNT k 1) k 1 1
  | .good n =>
    if n = 0 then s else
      let s1 := laneCount (laneCount (bump (bump s F.YG_LANE_CORR_CW.COUNT k 1) F.YG_LANE_CORR_SYM.COUNT k n) k 0 1) k 2 n
      setLane s1 k { getLane s1 k with winSym := (getLane s1 k).winSym + n }

/-- What the receiver of a lane makes of the levels of a codeword (R82 to R84). -/
def receivedCodeword (s : State) (k : Nat) (levels : List Nat) : CodewordResult × List LineBlock × Nat :=
  decodeLevels (decide (s.rd F.YG_LANE_CTL.PRECODE k = 1)) (getLane s k).lastIn (getLane s k).descr levels

/-- The histories of the receiver of a lane after a codeword. -/
def keepHistory (s : State) (k : Nat) (levels : List Nat) (descr : Nat) : State :=
  setLane s k { getLane s k with descr := descr, lastIn := levels.getLastD 0 }

/-- A codeword of an UP lane: counted, its blocks taken (R83 to R85). -/
def upCodeword (s : State) (k : Nat) (r : CodewordResult) (blocks : List LineBlock) : State :=
  let uncorr := decide (r = .uncorrectable)
  let s1 := fecCount (bump s F.YG_LANE_CW.COUNT k 1) k r
  let q := takeBlocks uncorr (getLane s1 k) blocks
  let s2 := setLane s1 k { q.1 with bad := if uncorr then q.1.bad + 1 else 0 }
  if q.2 = 0 then s2 else bump s2 F.YG_LANE_BAD_BLOCK.COUNT k q.2

/-- The lane comes UP (Table 4-7): LANE_UP, bursts from here on; the 1 ms windows of R103 run from here on, and only while the lane is
UP. DESIGN CHOICE: log entry 101. -/
def laneCameUp (s : State) (k : Nat) : State :=
  let s1 := enterLane (s.wr F.YG_LANE_STATUS.CW_LOCK k 1) k laneUP
  raise (setLane s1 k { getLane s1 k with good := 0, bad := 0, repAt := s.el, winAt := s.el, winSym := 0, quiet := 0 }) 15 [k]

/-- A codeword while the lane seeks codeword lock: four in a row at one boundary bring it UP. -/
def lockCodeword (s : State) (k boundary : Nat) (r : CodewordResult) : State :=
  let s1 := fecCount s k r
  let x := getLane s1 k
  let good := if r = .uncorrectable then 0 else if x.boundary = boundary then x.good + 1 else 1
  let s2 := setLane s1 k { x with good := good, boundary := boundary }
  if 4 ≤ good then laneCameUp s2 k else s2

/-- The gain and the taps as the continuous adaptation of an UP lane has left them (R96). -/
def adapted (s : State) (k : Nat) (eq : Adaptation) : State :=
  wrAll (s.wr F.YG_LANE_EQ.VGA k eq.vga) k (tapFields.zip (eq.taps.map (unsigned 8)))

/-- CODEWORD_DECODE (R82 to R84, R96, R101). After the eighth uncorrectable codeword in a row the lane has lost its codewords, and
takes no more until it leaves UP. -/
def execCodewordDecode (k : Fin 64) (boundary : Nat) (levels : List Nat) (eq : Adaptation) (s : State) : Host.Outcome State Fault Refusal :=
  .next (run (fun s => decide (laneState s k = lnCW_LOCK) || (decide (laneState s k = laneUP) && decide ((getLane s k).bad < 8)))
    (fun s =>
      let d := receivedCodeword s k levels
      let s1 := keepHistory s k levels d.2.2
      if laneState s k = laneUP then adapted (upCodeword s1 k d.1 d.2.1) k eq else lockCodeword s1 k boundary d.1) s)

/-- LANE_DOWN (R101). -/
def execLaneDown (k : Fin 64) (cause : LaneLoss) (s : State) : Host.Outcome State Fault Refusal :=
  .next (run (fun s => decide (laneState s k = laneUP) && (decide (cause ≠ .codewords) || decide (8 ≤ (getLane s k).bad)))
    (fun s => leaveLane (if cause = .signal then s.wr F.YG_LANE_STATUS.LOS k 1 else s) k lnSIGNAL_WAIT) s)

/-- TRAIN_TIMEOUT (R101): the training timer reaches 50 ms in CDR to CW_LOCK. -/
def execTrainTimeout (k : Fin 64) (s : State) : Host.Outcome State Fault Refusal :=
  .next (run (fun s => decide (lnCDR ≤ laneState s k) && decide (laneState s k ≤ lnCW_LOCK))
    (fun s =>
      let s1 := leaveLane (advanceEl s ((getLane s k).train.timerAt + 50 * msUnits)) k lnTRAIN_FAIL
      raise (setErr (bump s1 F.YG_LANE_TRAIN_FAIL.COUNT k 1) Err.YG.unit Err.YG.TRAIN_FAIL k) 18 [k]) s)

/-- TRAIN_FAIL_RETRY (R101): 10 ms later. -/
def execTrainFailRetry (k : Fin 64) (s : State) : Host.Outcome State Fault Refusal :=
  .next (run (fun s => decide (laneState s k = lnTRAIN_FAIL))
    (fun s => enterLane (advanceEl s ((getLane s k).train.stateAt + 10 * msUnits)) k lnSIGNAL_WAIT) s)

/-- REPORT_BURST (R98). -/
def execReportBurst (k : Fin 64) (s : State) : Host.Outcome State Fault Refusal :=
  .next (run (fun s => decide (laneState s k = laneUP))
    (fun s => sendReport (advanceEl s ((getLane s k).repAt + s.rd F.YG_CFG.REPORT_INTERVAL 0 * 100 * usUnits)) k) s)

/-- The 1 ms window of a lane ends (R103). -/
def endWindow (s : State) (k : Nat) : State :=
  let x := getLane s k
  let excess := decide (s.rd F.YG_DEGRADE.THRESH 0 < x.winSym)
  let quiet := if excess then 0 else x.quiet + 1
  let s1 := setLane s k { x with winSym := 0, winAt := s.el, quiet := quiet }
  if excess then
    (if s.rd F.YG_LANE_STATUS.DEGRADED k = 1 then s1
     else raise (setErr (s1.wr F.YG_LANE_STATUS.DEGRADED k 1) Err.YG.unit Err.YG.LANE_DEGRADED k) 17 [k])
  else if 100 ≤ quiet then s1.wr F.YG_LANE_STATUS.DEGRADED k 0 else s1

/-- DEGRADE_WINDOW (R103). -/
def execDegradeWindow (k : Fin 64) (s : State) : Host.Outcome State Fault Refusal :=
  .next (run (fun s => decide (laneState s k = laneUP))
    (fun s => endWindow (advanceEl s ((getLane s k).winAt + msUnits)) k) s)

/-- PPM_UPDATE (R95): at the next whole millisecond, for every lane whose clock is recovered. -/
def execPpmUpdate (values : List Int) (s : State) : Host.Outcome State Fault Refusal :=
  .next (run (fun _ => true)
    (fun s => (List.range 64).foldl (fun s k => if s.rd F.YG_LANE_STATUS.CDR_LOCK k = 1
        then s.wr F.YG_LANE_STATUS.PPM k (unsigned 16 (sat (values.getD k 0) 16)) else s)
      (advanceTo s (nextMultiple s msUnits))) s)

end Sys2Proof.Machine
end

