-- ==== Sys2Proof/Machine/Gatehouse.lean ====
section
/-! DEFINITION. The duplicate filter and the Gatehouse: a cell's checks, landing, slices and their release, test patterns and
the slip monitor (chapters 4 and 5). -/
namespace Sys2Proof.Machine

/-- Entry e of a SOURCE_MAP bank (Table 5-1). -/
structure SourceEntry where
  id : Nat
  base : Nat
  count : Nat
  valid : Bool

def sourceEntry (s : State) (bank e : Nat) : SourceEntry :=
  { id := s.tbNat 0 bank 0 (8 * e) 2, base := s.tbNat 0 bank 0 (8 * e + 2) 2, count := s.tbNat 0 bank 0 (8 * e + 4) 2 % 512,
    valid := decide (s.tbNat 0 bank 0 (8 * e + 6) 1 % 2 = 1) }

/-- The SOURCE_MAP bank that governs a coarse sample (R108). -/
def sourceBank (s : State) (csi : Nat) : Nat := b2n (bit (s.cfg (underArmed s csi) F.GLOBAL_BANK_SEL.BANK_SEL 0) 0)

/-- The valid entry with a source ID in a bank. -/
def sourceOf (s : State) (bank id : Nat) : Option Nat :=
  (List.range 256).find? fun e => (sourceEntry s bank e).valid && decide ((sourceEntry s bank e).id = id)

/-- The valid entry that covers an input group in a bank. -/
def groupEntry (s : State) (bank g : Nat) : Option Nat :=
  (List.range 256).find? fun e =>
    let x := sourceEntry s bank e
    x.valid && decide (x.base ≤ g) && decide (g < x.base + x.count)

/-- The connected groups below N / 16 with their entries, under the map that governs a coarse sample (R109). -/
def connected (s : State) (csi : Nat) : List (Nat × Nat) :=
  (List.range (s.N / 16)).filterMap fun g => (groupEntry s (sourceBank s csi) g).map fun e => (g, e)

/-- CRC-16 of the cell header: polynomial 0x1021, initial value 0xFFFF, no reflection (R86). -/
def crc16 (l : List Byte) : Nat :=
  l.foldl (fun r b => (List.range 8).foldl (fun r i =>
    let top := decide ((r / 2 ^ 15) % 2 ≠ b.toNat / 2 ^ (7 - i) % 2)
    let r2 := r * 2 % 2 ^ 16
    if top then r2 ^^^ 0x1021 else r2) r) 0xFFFF

/-- The header of a cell (Table 4-3), with its payload. -/
structure Cell where
  mute : Bool
  test : Bool
  last : Bool
  source : Nat
  group : Nat
  chan : Nat
  fmt : Nat
  csi : Nat
  seq : Nat
  payload : List Byte
  raw : List Byte

def parseCell (b : List Byte) : Cell :=
  { mute := bit (beAt b 3 1) 0, test := bit (beAt b 3 1) 1, last := bit (beAt b 3 1) 2, source := beAt b 4 2, group := beAt b 6 2,
    chan := beAt b 8 2, fmt := beAt b 10 1, csi := beAt b 12 8, seq := beAt b 20 4, payload := b.drop 32, raw := b }

/-- The counter of the first check of Table 4-4 that a cell fails. -/
def cellFault (c : LaneCell) : Option Fld :=
  if c.trunc then some F.YG_LANE_TRUNC.COUNT
  else if c.broken ∨ c.blocks ≠ 516 then some F.YG_LANE_LEN_ERR.COUNT
  else if c.uncorr then some F.YG_LANE_FEC_DISCARD.COUNT
  else if crc16 (c.bytes.take 30) ≠ beAt c.bytes 30 2 then some F.YG_LANE_HCRC_ERR.COUNT
  else if beAt c.bytes 0 2 ≠ 0x5947 ∨ beAt c.bytes 2 1 ≠ 1 ∨ (beAt c.bytes 10 1 ≠ 1 ∧ beAt c.bytes 10 1 ≠ 2) then some F.YG_LANE_HDR_ERR.COUNT
  else if crc32 (c.bytes.drop 32) ≠ c.crc then some F.YG_LANE_PCRC_ERR.COUNT
  else none

/-- The filter of a source entry. -/
def getFilter (s : State) (e : Nat) : DupFilter := Tab.getD s.yg.filters e {}

/-- The filter of a source entry, replaced; YG_SRC_HIGH and YG_SRC_STATE follow it. -/
def setFilter (s : State) (e : Nat) (x : DupFilter) : State :=
  let s1 := ({ s with yg := { s.yg with filters := Tab.put s.yg.filters e x } }).wr F.YG_SRC_HIGH.H e x.h
  let any := fun i => b2n (x.seen.any fun m => bit m.2 i)
  ((s1.wr F.YG_SRC_STATE.ESTABLISHED e (b2n x.established)).wr F.YG_SRC_STATE.PRIMARY_SEEN e (any 0)).wr F.YG_SRC_STATE.MIRROR_SEEN e (any 1)

/-- Entry e is valid in bank `new` of SOURCE_MAP and not in the bank in force: it becomes valid at the epoch that selects `new` (R108). -/
def becomesValid (s : State) (new e : Nat) : Bool := (sourceEntry s new e).valid && !(sourceEntry s (s.bankOf 0) e).valid

/-- The filter of an entry that becomes valid at the armed epoch is cleared when its first cell under that epoch arrives (R108).
DEDUCED: log entry 95. -/
def freshFilter (s : State) (e csi : Nat) : State :=
  if underArmed s csi && becomesValid s (sourceBank s csi) e && !s.glob.fresh.contains e then
    setFilter { s with glob := { s.glob with fresh := e :: s.glob.fresh } } e {}
  else s

/-- An epoch that selects bank `new` is applied: the filters of the entries that become valid are cleared, but for those cleared already
(R108). -/
def freshFilters (s : State) (new : Nat) : State :=
  if new = s.bankOf 0 then s
  else ((List.range 256).filter fun e => becomesValid s new e && !s.glob.fresh.contains e).foldl (fun s e => setFilter s e {}) s

/-- The mark of an effective role. -/
def roleMark (r : Nat) : Nat := if r = 2 then 1 else if r = 3 then 2 else 4

/-- A number retired as single-copy (R90, R94): the event once per source per integration; none with no bank in INTEG and no gap. DESIGN
CHOICE: log entry 101. -/
def singleCopy (s : State) (e : Nat) : State :=
  let s1 := setErr (bump s F.YG_SRC_SINGLE.COUNT e 1) Err.YG.unit Err.YG.SINGLE_COPY e
  let s2 := flagNow s1 flMIRROR_DEGRADED
  if ((integBank s).isSome ∨ inGap s) ∧ !s.yg.mirrorDone.contains e then
    raise { s2 with yg := { s2.yg with mirrorDone := e :: s2.yg.mirrorDone } } 13 [0, e]
  else s2

/-- The window of a filter moved forward by one: the number that leaves it is retired (R90). -/
def retireOne (s : State) (e : Nat) : State :=
  let x := getFilter s e
  let old := (x.h + 2 ^ 32 - 4095) % 2 ^ 32
  let s1 := setFilter s e { x with h := (x.h + 1) % 2 ^ 32, seen := Tab.del x.seen old, since := min 4096 (x.since + 1) }
  match Tab.find x.seen old with
  | none => if 4095 ≤ x.since then bump s1 F.YG_SRC_MISSING.COUNT e 1 else s1
  | some m => if s.rd F.YG_CFG.MIRROR_EN 0 = 1 ∧ m ≠ 3 then singleCopy s1 e else s1

/-- The window moved forward by n, one number at a time. -/
def retireMany (e : Nat) : Nat → State → State
  | 0, s => s
  | n + 1, s => retireMany e n (retireOne s e)

/-- The filter opened anew at a number (R90). -/
def resync (s : State) (e seq mark : Nat) : State :=
  setFilter s e { established := true, h := seq, seen := [(seq, mark)], since := 0, staleRun := 0 }

/-- A resynchronisation announced (R90). -/
def seqResync (s : State) (e : Nat) : State := raise (setErr s Err.YG.unit Err.YG.SEQ_RESYNC e) 14 [e]

/-- The oldest unreleased slice of a channel. -/
def frontOf (s : State) (c : Nat) : Nat := Tab.getD s.gh.fronts c s.gh.firstSlice

/-- The device channel of a header's coarse channel, under the configuration that governs the cell (R93, Table 5-2 check 6). -/
def deviceChan (s : State) (c : Cell) : Option Nat :=
  let a := underArmed s c.csi
  let base := s.cfg a F.GH_CFG.CHAN_BASE 0
  if base ≤ c.chan ∧ c.chan - base < s.cfg a F.PR_CHAN.C 0 then some (c.chan - base) else none

/-- A duplicate is discarded, and counted as a late twin when its slice of this run has been released (R93). In RESET and IDLE there is no run,
and no front to compare with. DESIGN CHOICE: log entry 101. -/
def dupDiscard (s : State) (e : Nat) (c : Cell) : State :=
  let s1 := bump s F.YG_SRC_DUP.COUNT e 1
  match deviceChan s c with
  | none => s1
  | some ch =>
    if dpARMED ≤ s.dp ∧ s.gh.firstSlice ≤ c.csi / s.sCell ∧ c.csi / s.sCell < frontOf s ch then
      let s2 := setErr (bump s1 F.YG_SRC_LATE_TWIN.COUNT e 1) Err.YG.unit Err.YG.LATE_TWIN e
      { s2 with lo := { s2.lo with lateTwinAt := some s.tb } }
    else s1

/-- The duplicate filter (R90): whether the cell passes, and the state. -/
def dupFilter (s : State) (e : Nat) (c : Cell) (role : Nat) : Bool × State :=
  let x := getFilter s e
  let m := roleMark role
  let d := signed 32 (unsigned 32 ((c.seq : Int) - x.h))
  if !x.established then (true, resync s e c.seq m)
  else if 65536 ≤ d then (true, seqResync (resync s e c.seq m) e)
  else if 0 < d then
    let s1 := retireMany e d.toNat s
    let y := getFilter s1 e
    (true, setFilter s1 e { y with seen := Tab.put y.seen c.seq m, staleRun := 0 })
  else if -4096 < d then
    (match Tab.find x.seen c.seq with
     | none => (true, setFilter s e { x with seen := Tab.put x.seen c.seq m, staleRun := 0 })
     | some old => (false, dupDiscard (setFilter s e { x with seen := Tab.put x.seen c.seq (old ||| m), staleRun := 0 }) e c))
  else
    let s1 := bump (setFilter s e { x with staleRun := x.staleRun + 1 }) F.YG_SRC_STALE.COUNT e 1
    if x.staleRun + 1 = 16 then (true, seqResync (resync s1 e c.seq m) e) else (false, s1)

/-- The generator of PRBS31 stepped once: the bit and the next state (Table 5-4). -/
def prbsStep (st : Nat) : Nat × Nat :=
  let b := (st / 2 ^ 30 + st / 2 ^ 27) % 2
  (b, st * 2 % 2 ^ 31 + b)

/-- n bits of PRBS31 as a number, first bit most significant, with the state after them. -/
def prbsBits : Nat → Nat → Nat → Nat × Nat
  | 0, st, acc => (acc, st)
  | n + 1, st, acc => prbsBits n (prbsStep st).2 (acc * 2 + (prbsStep st).1)

/-- The wrong bytes of a PRBS31 payload from a generator state. -/
def prbsWrong : Nat → List Byte → Nat
  | _, [] => 0
  | st, b :: t =>
    let r := prbsBits 8 st 0
    (if b.toNat = r.1 then 0 else 1) + prbsWrong r.2 t

/-- The wrong bytes of a COUNT payload whose first expected byte is given. -/
def countWrong : Nat → List Byte → Nat
  | _, [] => 0
  | v, b :: t => (if b.toNat = v % 256 then 0 else 1) + countWrong (v + 1) t

/-- The pattern checker (R122, R123). -/
def patternCheck (s : State) (c : Cell) : State :=
  let wrong := if s.rd F.GH_CFG.PATTERN 0 = 0 then countWrong (c.group + c.csi / s.sCell) c.payload
    else prbsWrong ((c.seq % 2 ^ 31) ||| 0x40000000) c.payload
  let s1 := bump s F.GH_PAT_CELLS.COUNT 0 1
  if wrong = 0 then s1
  else setErr (bump (bump s1 F.GH_PAT_ERR_CELLS.COUNT 0 1) F.GH_PAT_ERR_BYTES.COUNT 0 wrong) Err.GH.unit Err.GH.PATTERN_ERR 0

/-- The horizon raised to a cell's last sample (R58). -/
def raiseHorizon (s : State) (csi : Nat) : State :=
  let h := csi + s.sCell - 1
  let s1 := { s with glob := { s.glob with hCsi := some (max h (s.glob.hCsi.getD 0)) } }
  s1.wr F.GLOBAL_DP_STATE.HORIZON_VALID 0 1

/-- The window of a slice, once it has opened (R113). -/
def windowOf (s : State) (slice : Nat) : Option SliceWindow := s.gh.windows.find? fun w => decide (slice ≤ w.upto)

/-- A landed cell opens the windows of its slice and of every earlier one (R113, R118). -/
def openWindows (s : State) (slice : Nat) : State :=
  if (windowOf s slice).isSome then s
  else { s with gh := { s.gh with windows := s.gh.windows ++ [{ upto := slice, at_ := s.el, w := s.inForce F.GH_WINDOW.W 0 * 100 * usUnits }] } }

/-- A group is ended in a channel at a slice (R115). -/
def groupEnded (s : State) (g c slice : Nat) : Bool :=
  (Tab.getD s.gh.ended (g, c) []).any fun r => decide (r.1 ≤ slice) && (match r.2 with | none => true | some b => decide (slice < b))

/-- A cell has landed for a slot. -/
def slotLanded (s : State) (g c slice : Nat) : Bool :=
  s.gh.landed.any fun l => decide (l.grp = g) && decide (l.chan = c) && decide (l.slice = slice)

/-- A channel has a slice: the channel lies below the C that governs the slice, and the slice below a STOP's target. -/
def sliceExists (s : State) (c slice : Nat) : Bool :=
  let csi := slice * s.sCell
  decide (c < s.cfg (underArmed s csi) F.PR_CHAN.C 0) && (decide (s.dp ≠ dpSTOPPING) || decide (csi < s.glob.stopAt))

/-- A slice is complete: its window has opened and no connected group is waited for (R113, R115). -/
def sliceComplete (s : State) (c slice : Nat) : Bool :=
  (windowOf s slice).isSome && ((connected s (slice * s.sCell)).all fun ge => slotLanded s ge.1 c slice || groupEnded s ge.1 c slice)

/-- The window of a slice has been open for W. -/
def sliceExpired (s : State) (slice : Nat) : Bool :=
  match windowOf s slice with
  | none => false
  | some w => decide (w.at_ + w.w ≤ s.el)

/-- The INPUT_LOSS event of an entry for a cycle that has begun: one per entry per integration, or per gap (R121). -/
def announceLoss (s : State) (n e : Nat) : State :=
  let gap := gapHolds s n
  let num := integNumOf s n
  let key := num + (if gap then 2 ^ 32 else 0)
  if s.acs.lossDone.contains (e, key) then s
  else raise { s with acs := { s.acs with lossDone := (e, key) :: s.acs.lossDone } } 10 [e, pair num (b2n gap)]

/-- A cycle that has not begun: its integration, or its gap, is not known yet. -/
def cycleAhead (s : State) (n : Nat) : Bool := decide (s.acs.cyc < n) || decide (s.dp = dpARMED)

/-- One slot of entry e released missing in cycle n (R121): the counters, the error bit, the flag of its cycle, and the event, which waits
for a cycle ahead to begin. DESIGN CHOICE: log entry 102. -/
def missSlot (s : State) (n e : Nat) : State :=
  let s1 := bump (bump s F.GH_MISSING.COUNT 0 1) F.GH_SRC_MISSING.COUNT e 1
  let s2 := flagCycle (setErr s1 Err.GH.unit Err.GH.INPUT_LOSS e) n flINCOMPLETE_INPUTS
  if cycleAhead s n then
    (if s2.acs.lossPend.contains (n, e) then s2 else { s2 with acs := { s2.acs with lossPend := s2.acs.lossPend ++ [(n, e)] } })
  else announceLoss s2 n e

/-- The least front over the configured channels, in coarse samples (Table 5-11). -/
def frontMin (s : State) : Nat :=
  minOf ((List.range (s.cfg (decide (s.dp = dpARMED)) F.PR_CHAN.C 0)).map (frontOf s)) * s.sCell

/-- Slice `slice` of channel c is released with what has landed (R113, R119, R121); the cycle is marked HOLDOVER when the
timebase was untraceable since the last release (R300). -/
def releaseSlice (s : State) (c slice : Nat) : State :=
  let csi := slice * s.sCell
  let n := cycleOf s csi
  let s1 := (connected s csi).foldl (fun s ge => if slotLanded s ge.1 c slice then s else missSlot s n ge.2) s
  let s2 := if s1.sd.untraced || !traceable s1.sdState then flagCycle s1 n flHOLDOVER else s1
  let s3 := { s2 with gh := { s2.gh with fronts := Tab.put s2.gh.fronts c (slice + 1), lastRelease := s2.el, started := true } }
  { s3 with sd := { s3.sd with untraced := !traceable s3.sdState } }.wr F.GH_FRONT.FRONT 0 (frontMin s3)

/-- Slices of a channel go in ascending order while the next is complete or expired (R114). -/
def releaseReady (c : Nat) : Nat → State → State
  | 0, s => s
  | n + 1, s =>
    let slice := frontOf s c
    if sliceExists s c slice && (sliceComplete s c slice || sliceExpired s slice) then releaseReady c n (releaseSlice s c slice) else s

/-- How many slices of a channel have an open window. -/
def openCount (s : State) (c : Nat) : Nat := maxOf (s.gh.windows.map fun w => w.upto + 1) - frontOf s c

/-- The landed cells that the landing ring holds: those whose slice the Prism has not read (R43). -/
def ringCells (s : State) : List LandedCell := s.gh.landed.filter fun l => decide (Tab.getD s.gh.freed l.chan s.gh.firstSlice ≤ l.slice)

/-- The cells that the landing ring has room for: 4,132 bytes each, in the first 2 GiB of its region at most (R43, R422).
DESIGN CHOICE: log entry 60. -/
def ringPlaces (s : State) : Nat := min (regionSize s (s.rd F.GH_REGIONS.LANDING_REGION 0)) (2 ^ 31) / 4132

/-- The landing ring has room for a cell, and no write is held behind a hang (R424). -/
def ringRoom (s : State) : Bool := !hung s 1 && decide ((ringCells s).length < ringPlaces s)

/-- The lowest free place of the landing ring. DESIGN CHOICE: log entry 60. -/
def freePlace (s : State) : Nat :=
  let used := (ringCells s).map LandedCell.place
  ((List.range (used.length + 1)).find? fun i => !used.contains i).getD 0

/-- The 4,132 bytes of a landed cell: header, payload and CRC-32 as received. DESIGN CHOICE: log entry 60. -/
def landedBytes (c : Cell) : List Byte := c.raw ++ leBytes 4 (crc32 c.payload)

/-- A cell is written at its place in the landing ring, which begins at the base of its region (R422). -/
def writeLanded (s : State) (c : Cell) : State :=
  s.hbmWrite (regionBase s (s.rd F.GH_REGIONS.LANDING_REGION 0) + 4132 * freePlace s) (landedBytes c)

/-- The coarse sample rate at a coarse sample times a number of timebase units, as samples, rounded down. -/
def samplesIn (s : State) (csi units : Nat) : Nat :=
  let a := anchorAt s csi
  units * a.num / (a.den * secUnits)

/-- The intervals of slices in which a group is ended, after a cell of it landed (R115). -/
def noteLast (s : State) (g c slice : Nat) (last : Bool) : State :=
  let l := Tab.getD s.gh.ended (g, c) []
  let cut := l.map fun r => match r.2 with
    | none => if r.1 ≤ slice then (r.1, some slice) else if last then (r.1, some r.1) else r
    | some _ => r
  let l2 := if last then cut ++ [(slice + 1, none)] else cut
  { s with gh := { s.gh with ended := Tab.put s.gh.ended (g, c) (l2.filter fun r => decide (r.2 ≠ some r.1)) } }

/-- An entry has a group ended in some channel (Table 5-14). -/
def updEnded (s : State) (e : Nat) (bank : Nat) : State :=
  let x := sourceEntry s bank e
  s.wr F.GH_SRC_STATUS.ENDED e (b2n (s.gh.ended.any fun r => decide (x.base ≤ r.1.1) && decide (r.1.1 < x.base + x.count) &&
    (r.2.any fun i => decide (i.2 = none))))

/-- GH_SRC_STATUS.ENDED of every entry follows a SOURCE_MAP bank that comes into force. -/
def updEndedAll (s : State) (bank : Nat) : State := (List.range 256).foldl (fun s e => updEnded s e bank) s

/-- A stall ends with the next landed cell (R117). -/
def endStall (s : State) : State :=
  if s.rd F.GH_STATUS.STALLED 0 = 1 then (s.wr F.GH_STATUS.STALLED 0 0).wr F.GH_STATUS.FILLING 0 0 else s

/-- A cell lands (R110, R112): counted, its window opened, and the slices that it makes ready released. -/
def landCell (s : State) (e ch : Nat) (c : Cell) : State :=
  let slice := c.csi / s.sCell
  let s1 := bump (bump s F.GH_LANDED.COUNT 0 1) F.GH_SRC_LANDED.COUNT e 1
  let s2 := if c.mute then bump (bump s1 F.GH_MUTED.COUNT 0 1) F.GH_SRC_MUTED.COUNT e 1 else s1
  let cell : LandedCell :=
    { grp := c.group, chan := ch, slice := slice, mute := c.mute, payload := if c.mute then [] else c.payload, place := freePlace s2 }
  let s2 := writeLanded s2 c
  let s3 := { s2 with gh := { s2.gh with landed := s2.gh.landed ++ [cell] } }
  let x := Tab.getD s3.gh.slip e {}
  let s4 := { s3 with gh := { s3.gh with slip := Tab.put s3.gh.slip e { x with csiEnd := c.csi + s.sCell, land := s.tb, landEl := s.el } } }
  let s5 := updEnded (noteLast (raiseHorizon (endStall s4) c.csi) c.group ch slice c.last) e (sourceBank s c.csi)
  let s6 := openWindows s5 slice
  (List.range 32).foldl (fun s c => releaseReady c (openCount s c) s) s6

/-- A discard of check 11: the rung-1 loss of R29, announced at once, once per integration or gap. -/
def ringFull (s : State) (csi : Nat) : State :=
  let s1 := setErr (bump s F.GH_RING_FULL.COUNT 0 1) Err.GH.unit Err.GH.RING_FULL 0
  let n := cycleOf s csi
  let num := integNumOf s n
  let key := num + (if gapHolds s n then 2 ^ 32 else 0)
  if s.acs.lossDone.contains (256, key) then lodgeBit s1 Err.LODGE.INGEST_LOSS 0
  else lodgeErr { s1 with acs := { s1.acs with lossDone := (256, key) :: s1.acs.lossDone } } Err.LODGE.INGEST_LOSS 0 num []

/-- Checks 2 to 12 of Table 5-2 on a cell of entry e. -/
def gatehouse (s : State) (e : Nat) (c : Cell) : State :=
  let x := sourceEntry s (sourceBank s c.csi) e
  if !(decide (x.base ≤ c.group) && decide (c.group < x.base + x.count)) then bump s F.GH_GROUP_MISMATCH.COUNT 0 1
  else if c.fmt ≠ (if s.mode4 then 2 else 1) then bump s F.GH_FMT_MISMATCH.COUNT 0 1
  else if c.test then patternCheck s c
  else
    let s0 := if s.dp = dpIDLE ∨ s.dp = dpARMED then raiseHorizon s c.csi else s
    if !(decide (s.dp = dpARMED) || decide (s.dp = dpRUNNING) || (decide (s.dp = dpSTOPPING) && decide (c.csi < s.glob.stopAt))) then
      bump s0 F.GH_IDLE_DISCARD.COUNT 0 1
    else match deviceChan s c with
    | none => bump s0 F.GH_CHAN_RANGE.COUNT 0 1
    | some ch =>
      if c.csi % s.sCell ≠ 0 then bump s0 F.GH_CSI_ALIGN.COUNT 0 1
      else if c.csi < s.gh.firstSlice * s.sCell then bump s0 F.GH_PRE_START.COUNT 0 1
      else if c.csi / s.sCell < frontOf s ch then bump (bump s0 F.GH_LATE.COUNT 0 1) F.GH_SRC_LATE.COUNT e 1
      else if samplesIn s c.csi (s.inForce F.GH_WINDOW.W 0 * 100 * usUnits) ≤ c.csi - frontOf s ch * s.sCell then
        bump (bump s0 F.GH_EARLY.COUNT 0 1) F.GH_SRC_EARLY.COUNT e 1
      else if !ringRoom s then ringFull s0 c.csi
      else if slotLanded s c.group ch (c.csi / s.sCell) then setErr (bump s0 F.GH_DUP_SLOT.COUNT 0 1) Err.GH.unit Err.GH.DUP_SLOT e
      else landCell s0 e ch c

/-- A cell that passed Table 4-4: check 1 of Table 5-2, the duplicate filter, and the Gatehouse. -/
def takeCell (s : State) (k : Nat) (sramBad : Bool) (c : Cell) : State :=
  match sourceOf s (sourceBank s c.csi) c.source with
  | none => bump s F.GH_UNKNOWN_SOURCE.COUNT 0 1
  | some e =>
    let r := dupFilter (freshFilter s e c.csi) e c (effRole s k)
    if !r.1 then r.2 else if sramBad then sramFault r.2 1 else gatehouse r.2 e c

/-- The oldest cell that ended on a lane is checked (Table 4-4). -/
def receiveCell (s : State) (k : Nat) (sramBad : Bool) : State :=
  let x := getLane s k
  match x.ended with
  | [] => s
  | c :: t =>
    let s1 := setLane s k { x with ended := t }
    match cellFault c with
    | some f => laneCount (bump s1 f k 1) k 4 1
    | none => takeCell (laneCount (bump s1 F.YG_LANE_CELLS.COUNT k 1) k 3 1) k sramBad (parseCell c.bytes)

/-- CELL_RECEIVE (R88, R90, R110). -/
def execCellReceive (k : Fin 64) (sramBad : Bool) (s : State) : Host.Outcome State Fault Refusal :=
  .next (run (fun s => !(getLane s k).ended.isEmpty) (fun s => receiveCell s k sramBad) s)

/-- SLICE_WINDOW_EXPIRE (R113, R114): the oldest unreleased slice of a channel has been open for W. -/
def execSliceWindowExpire (c : Fin 32) (s : State) : Host.Outcome State Fault Refusal :=
  .next (run (fun s => decide (dpARMED ≤ s.dp) && sliceExists s c (frontOf s c) && (windowOf s (frontOf s c)).isSome)
    (fun s =>
      let w := (windowOf s (frontOf s c)).getD { upto := 0, at_ := 0, w := 0 }
      let s1 := advanceEl s (w.at_ + w.w)
      releaseReady c (openCount s1 c) s1) s)

/-- INGEST_STALL (R117). -/
def execIngestStall (s : State) : Host.Outcome State Fault Refusal :=
  .next (run (fun s => decide (s.dp = dpRUNNING) && decide (s.rd F.GH_STATUS.STALLED 0 = 0))
    (fun s =>
      let s1 := advanceEl s (s.gh.lastRelease + s.rd F.GH_STALL.TIMEOUT 0 * msUnits)
      raise (setErr (s1.wr F.GH_STATUS.STALLED 0 1) Err.GH.unit Err.GH.STALL 0) 12 []) s)

/-- The channels that have an unreleased slice next: those of the configuration that governs it. -/
def waitingChans (s : State) : List Nat := (List.range 32).filter fun c => sliceExists s c (frontOf s c)

/-- STALL_FILL_RELEASE (R117): when the timebase passes t(CSI_s + S_cell) + W, slice s goes in every channel with its slots
missing. -/
def execStallFillRelease (s : State) : Host.Outcome State Fault Refusal :=
  .next (run (fun s => decide (s.rd F.GH_STATUS.STALLED 0 = 1) && decide (s.rd F.GH_CFG.STALL_FILL 0 = 1) && decide (s.dp = dpRUNNING) &&
      !(waitingChans s).isEmpty)
    (fun s =>
      let slice := minOf ((waitingChans s).map (frontOf s))
      let due := timeOf s ((slice + 1) * s.sCell : Nat) + (s.inForce F.GH_WINDOW.W 0 * 100 * usUnits : Nat)
      let s1 := (advanceTo s due.toNat).wr F.GH_STATUS.FILLING 0 1
      ((waitingChans s).filter fun c => decide (frontOf s c = slice)).foldl (fun s c => releaseSlice s c slice) s1) s)

/-- LATE_TWIN_HOLD_EXPIRE (R93): a second has passed since the last late twin. -/
def execLateTwinHoldExpire (s : State) : Host.Outcome State Fault Refusal :=
  .next (run (fun s => s.lo.lateTwinAt.isSome)
    (fun s =>
      let s1 := advanceTo s (s.lo.lateTwinAt.getD 0 + secUnits)
      { s1 with lo := { s1.lo with lateTwinAt := none } }) s)

/-- The offset o_e of an entry (R124) as numerator and denominator, under the anchor entry of its latest cell. -/
def slipOffset (s : State) (x : SlipSt) : Int × Nat :=
  let a := anchorAt s x.csiEnd
  (((x.csiEnd : Int) - a.i0) * (a.den * secUnits : Nat) - (a.num : Int) * ((x.land : Int) - a.t0), a.den * secUnits)

/-- The difference of two fractions. -/
def fracSub (p q : Int × Nat) : Int × Nat := (p.1 * q.2 - q.1 * p.2, p.2 * q.2)

/-- r_e in units of 0.01 ppm as a fraction, from the change of the offset over INTERVAL seconds (R124). -/
def slipRate (s : State) (x : SlipSt) (d : Int × Nat) : Int × Nat :=
  let a := anchorAt s x.csiEnd
  (d.1 * (100000000 * a.den : Nat), d.2 * a.num * s.rd F.GH_SLIP_CFG.INTERVAL 0)

/-- The slip monitor of one entry at a second boundary (R124, R125). The registers hold the values rounded to nearest, ties to even, and
an event with no rate yet carries 0. DESIGN CHOICE: log entry 103. -/
def slipEntry (s : State) (e : Nat) : State :=
  let x := Tab.getD s.gh.slip e {}
  if x.land = 0 then s else
  let o := slipOffset s x
  let first := x.first.getD o
  let ivl := s.rd F.GH_SLIP_CFG.INTERVAL 0
  let s1 := { s with gh := { s.gh with slip := Tab.put s.gh.slip e { x with offsets := ((s.el / secUnits, o) :: x.offsets).take 256, first := some first } } }
  if x.landEl + ivl * secUnits ≤ s.el then s1
  else
    let drift := fracSub o first
    let s2 := s1.wr F.GH_SRC_OFFSET.OFFSET e (unsigned 64 (rneDiv drift.1 drift.2))
    let offBad := decide (s.rd F.GH_SLIP_OFFSET_TOL.OFFSET_TOL 0 * drift.2 < drift.1.natAbs)
    let rate := (x.offsets.find? fun p => decide (p.1 + ivl = s.el / secUnits)).map fun p => slipRate s x (fracSub o p.2)
    let s3 := match rate with
      | some r => s2.wr F.GH_SRC_RATE_ERR.RATE_ERR e (unsigned 32 (sat (rneDiv r.1 r.2) 32))
      | none => s2
    let rateBad := match rate with
      | some r => decide (s.rd F.GH_SLIP_CFG.RATE_TOL 0 * r.2 < r.1.natAbs)
      | none => decide (s.rd F.GH_SRC_STATUS.RATE e = 1)
    let was := decide (s.rd F.GH_SRC_STATUS.RATE e = 1) || decide (s.rd F.GH_SRC_STATUS.OFFSET e = 1)
    let s4 := (s3.wr F.GH_SRC_STATUS.RATE e (b2n rateBad)).wr F.GH_SRC_STATUS.OFFSET e (b2n offBad)
    if (rateBad || offBad) && !was then
      raise (setErr s4 Err.GH.unit Err.GH.SOURCE_RATE e) 11 [e, unsigned 64 ((rate.map fun r => rneDiv r.1 r.2).getD 0)]
    else s4

/-- SLIP_MONITOR_UPDATE (R124): every valid entry, and the number of entries in SOURCE_RATE, whose greatest value in an
integration its dump carries (R125). -/
def slipUpdate (s : State) : State :=
  if s.rd F.GH_SLIP_CFG.EN 0 = 1 ∧ s.dp = dpRUNNING then
    let s1 := (List.range 256).foldl (fun s e => if (sourceEntry s (s.bankOf 0) e).valid then slipEntry s e else s) s
    let n := countWhere 256 fun e => decide (s1.rd F.GH_SRC_STATUS.RATE e = 1) || decide (s1.rd F.GH_SRC_STATUS.OFFSET e = 1)
    let s2 := s1.wr F.GH_STATUS.RATE_SRCS 0 n
    match integBank s2 with
    | some x => setBank s2 x { getBank s2 x with rateSrcs := max n (getBank s2 x).rateSrcs }
    | none => s2
  else s

end Sys2Proof.Machine
end

