-- ==== Sys2Proof/Machine/Trig.lean ====
section
/-! DEFINITION. The fixed sine and cosine tables of the Prism, the Lens and the Eyepiece: integers computed to 80 fraction bits and
rounded to the nearest, ties to even. -/
namespace Sys2Proof.Machine

/-- The scale of the series. -/
abbrev trigOne : Int := 2 ^ 80

/-- 2π at that scale, rounded down. -/
abbrev twoPi80 : Int := 7595904947272677161575987

/-- Terms of the cosine series (sign and factorials alternating) from term index k on: x2 is the square of the angle. -/
def trigSum (x2 : Int) : Nat → Nat → Int → Int
  | 0, _, _ => 0
  | n + 1, k, term => term + trigSum x2 n (k + 2) (-(term * x2 / trigOne) / (((k + 1) * (k + 2) : Nat) : Int))

/-- cos(2π q / n) at scale 2^80. -/
def cos80 (q n : Nat) : Int :=
  let x := twoPi80 * (q : Int) / (n : Int)
  trigSum (x * x / trigOne) 32 0 trigOne

/-- sin(2π q / n) at scale 2^80. -/
def sin80 (q n : Nat) : Int :=
  let x := twoPi80 * (q : Int) / (n : Int)
  trigSum (x * x / trigOne) 32 1 x

/-- 2^k cos(2π q / n) rounded to the nearest integer. -/
def cosTab (k q n : Nat) : Int := rne (cos80 (q % n) n) (80 - k)

/-- 2^k sin(2π q / n) rounded to the nearest integer. -/
def sinTab (k q n : Nat) : Int := rne (sin80 (q % n) n) (80 - k)

/-- A complex integer. -/
abbrev Cx := Int × Int

/-- The exact product of complex integers. -/
def cxMul (a b : Cx) : Cx := (a.1 * b.1 - a.2 * b.2, a.1 * b.2 + a.2 * b.1)

/-- The sum of complex integers. -/
def cxAdd (a b : Cx) : Cx := (a.1 + b.1, a.2 + b.2)

/-- A function on both components. -/
def cxMap (f : Int → Int) (a : Cx) : Cx := (f a.1, f a.2)

/-- How many components a saturation changed. -/
def cxDiff (a b : Cx) : Nat := (if a.1 = b.1 then 0 else 1) + (if a.2 = b.2 then 0 else 1)

/-- rot(θ) of R139: the entry of S[q] and linear interpolation to the next. -/
def rot (theta : Nat) : Cx :=
  let idx := theta / 2 ^ 20 % 4096
  let fr : Int := ((theta % 2 ^ 20 : Nat) : Int)
  let a : Cx := (cosTab 16 idx 4096, sinTab 16 idx 4096)
  let b : Cx := (cosTab 16 (idx + 1) 4096, sinTab 16 (idx + 1) 4096)
  (a.1 + rne ((b.1 - a.1) * fr) 20, a.2 + rne ((b.2 - a.2) * fr) 20)

end Sys2Proof.Machine
end

