-- ==== Sys2Proof/Machine/Prism.lean ====
section
/-! DEFINITION. The Prism: fine spectra of the released slices, their validity, and where they are written (chapter 6). -/
namespace Sys2Proof.Machine

/-- A field in force before the armed epoch, or under it. -/
def epochChanges (s : State) (f : Fld) (k : Nat) : Bool := decide (s.cfg true f k ≠ s.ac f k)

/-- The armed epoch changes a table's bank. -/
def bankChanges (s : State) (id : Nat) : Bool :=
  decide (bit (s.cfg true F.GLOBAL_BANK_SEL.BANK_SEL 0) id ≠ bit (s.ac F.GLOBAL_BANK_SEL.BANK_SEL 0) id)

/-- The armed epoch starts the run. -/
def armedStart (s : State) : Bool := match s.glob.armed with | some a => a.start | none => false

/-- The armed epoch clears the history: a start, or a change of M or P (R134). -/
def clearsHistory (s : State) : Bool := armedStart s || epochChanges s F.PR_CFG.M 0 || epochChanges s F.PR_CFG.P 0

/-- The armed epoch causes settling: a start, or a change of M, P or the coefficient bank (R137, R143). DEDUCED: log entry 61. -/
def causesSettling (s : State) : Bool := clearsHistory s || bankChanges s 1

/-- What governs the spectrum that begins at a coarse sample: the configuration, its cycle and index, and from where the history and
the settling count. -/
structure SpectrumAt where
  armed : Bool
  M : Nat
  P : Nat
  C : Nat
  T : Nat
  u : Nat
  cyc : Nat
  t : Nat
  s0 : Nat
  hist : Nat
  n : Nat

/-- The spectrum at coarse sample q, under the epoch in force at its FSI (R56, R144). -/
def spectrumAt (s : State) (q : Nat) : SpectrumAt :=
  let a := underArmed s q
  let base := (armedCsi s).getD 0
  let M := mOf (s.cfg a F.PR_CFG.M 0)
  let T := tOf (s.cfg a F.GLOBAL_DP_CFG.T_CODE 0)
  let E := if a then base / M else s.E
  let cyc := cycleOf s q
  let reset := a && (armedStart s || bankChanges s 3)
  { armed := a, M := M, P := 4 * (s.cfg a F.PR_CFG.P 0 + 1), C := s.cfg a F.PR_CHAN.C 0, T := T, u := q / M, cyc := cyc,
    t := (q / M - E) % T, s0 := if a && causesSettling s then base else s.px.s0,
    hist := if a && clearsHistory s then base else s.px.hist,
    n := min (cyc - (if reset then cycleOf s base else s.px.delayCyc)) (2 ^ 32 - 1) }

/-- Where the next spectrum of an input and channel begins. -/
def nextSpectrum (s : State) (i c : Nat) : Nat := Tab.getD s.px.next (i, c) (Tab.getD s.px.chanBase c s.px.base)

/-- Bytes of a complex sample (Table 2-1). -/
def State.hBytes (s : State) : Nat := if s.mode4 then 1 else 2

/-- Sample j of one input in a cell's payload (R87). -/
def payloadSample (mode4 : Bool) (p : List Byte) (j g : Nat) : Cx :=
  if mode4 then
    let b := (p.getD (16 * j + g) 0).toNat
    (signed 4 b, signed 4 (b / 16))
  else (signed 8 (p.getD (32 * j + 2 * g) 0).toNat, signed 8 (p.getD (32 * j + 2 * g + 1) 0).toNat)

/-- The landed cell of a slot. -/
def cellAt (s : State) (g c slice : Nat) : Option LandedCell :=
  s.gh.landed.find? fun l => decide (l.grp = g) && decide (l.chan = c) && decide (l.slice = slice)

/-- x[q] of an input and channel: zero without a landed cell, in a muted one, or before the history begins (R119, R134). -/
def coarseSample (s : State) (i c hist q : Nat) : Cx :=
  if q < hist then (0, 0) else
  match cellAt s (i / 16) c (q / s.sCell) with
  | some l => if l.mute then (0, 0) else payloadSample s.mode4 l.payload (q % s.sCell) (i % 16)
  | none => (0, 0)

/-- The Gatehouse valid bit of the spectrum that begins at coarse sample q (R120); 0 before the history begins. -/
def gvalid (s : State) (i c M hist q : Nat) : Bool :=
  decide (hist ≤ q) && ((List.range ((M + s.sCell - 1) / s.sCell)).all fun j =>
    match cellAt s (i / 16) c (q / s.sCell + j) with
    | some l => !l.mute
    | none => false)

/-- A little-endian quantity of the table bank that governs a spectrum. DESIGN CHOICE: log entry 8. -/
def tblAt (s : State) (a : Bool) (id off n : Nat) : Nat := s.tbNat id (b2n (bit (s.cfg a F.GLOBAL_BANK_SEL.BANK_SEL 0) id)) 0 off n

/-- The operations of a program from an entry on, up to its STORE (Table 6-2). -/
def programFrom (s : State) (a : Bool) : Nat → Nat → List Nat
  | 0, _ => []
  | n + 1, e =>
    let w := tblAt s a 4 (4 * e) 4
    if bits w 28 4 = 6 then [w] else w :: programFrom s a n (e + 1)

/-- The program that governs a spectrum (R136). -/
def program (s : State) (a : Bool) : List Nat :=
  let e := s.cfg a F.PR_CFG.PROG_BASE 0
  programFrom s a (64 - e) e

/-- The FFT stages of a program as (radix, shift). -/
def fftStages (prog : List Nat) : List (Nat × Nat) :=
  (prog.filter fun w => decide (bits w 28 4 = 3)).map fun w => (if bit w 8 then 2 else 4, bits w 0 2)

/-- A list of complex values saturated, with how many components changed. -/
def satAll (w : Nat) (l : List Cx) : List Cx × Nat :=
  (l.map (cxMap fun v => sat v w), (l.map fun a => cxDiff a (cxMap (fun v => sat v w) a)).sum)

/-- One value of the filter before saturation (R137). -/
def filterOut (s : State) (x : SpectrumAt) (i c q m : Nat) : Cx :=
  let acc := (List.range x.P).foldl (fun (acc : Cx) p =>
    if q < p * x.M then acc else
      let h := signed 16 (tblAt s x.armed 1 (2 * (p * x.M + m)) 2)
      let v := coarseSample s i c x.hist (q - p * x.M + m)
      (acc.1 + h * v.1, acc.2 + h * v.2)) (0, 0)
  cxMap (fun v => rne v (s.cfg x.armed F.PR_CFG.FILT_SHIFT 0)) acc

/-- w(4, e) = (-j)^e and w(2, e) = (-1)^e, applied to a value (R138). -/
def kernel (radix e : Nat) (a : Cx) : Cx :=
  if radix = 2 then (if e % 2 = 0 then a else (-a.1, -a.2))
  else if e % 4 = 0 then a else if e % 4 = 1 then (a.2, -a.1) else if e % 4 = 2 then (-a.1, -a.2) else (-a.2, a.1)

/-- The value that one FFT stage leaves at position j, before saturation. -/
def fftAt (M L radix sh : Nat) (v : List Cx) (j : Nat) : Cx :=
  let q := L / radix
  let r := j % L / q
  let n := j % q
  let y := (List.range radix).foldl (fun acc k => cxAdd acc (kernel radix (r * k) (v.getD (j / L * L + n + k * q) (0, 0)))) (0, 0)
  let e := r * n * (M / L) % M
  cxMap (fun a => rne a (16 + sh)) (cxMul y (cosTab 16 e M, -(sinTab 16 e M)))

/-- The stages in order, with the count of saturated components. -/
def fftRun (M : Nat) : Nat → List (Nat × Nat) → List Cx × Nat → List Cx × Nat
  | _, [], r => r
  | L, (radix, sh) :: t, r =>
    let out := satAll 24 ((List.range M).map (fftAt M L radix sh r.1))
    fftRun M (L / radix) t (out.1, r.2 + out.2)

/-- pos(k): the digits of k reversed (R138). -/
def fftPos : List (Nat × Nat) → Nat → Nat → Nat
  | [], _, _ => 0
  | (radix, _) :: t, M, k => k % radix * (M / radix) + fftPos t (M / radix) (k / radix)

/-- One fine spectrum: its M fine samples in ascending fine channel before validity is applied, and the saturated components of
the filter, the FFT, the rotation and the requantisation (R137). -/
def fineSpectrum (s : State) (x : SpectrumAt) (i c q : Nat) : List Cx × Nat × Nat × Nat × Nat :=
  let prog := program s x.armed
  let filt := satAll 24 ((List.range x.M).map (filterOut s x i c q))
  let ft := fftRun x.M x.M (fftStages prog) (filt.1, 0)
  let del := fun off len => tblAt s x.armed 3 (16 * i + off) len
  let tau := sat (signed 32 (del 0 4) * 2 ^ 16 + signed 32 (del 4 4) * (x.n : Int)) 64
  let phi : Int := (del 8 4 : Int) + signed 32 (del 12 4) * (x.n : Int)
  let freq := signed 64 (s.cfg x.armed F.PR_CHAN_FREQ.FREQ c)
  let df : Int := (s.cfg x.armed F.PR_FINE_DF.DF 0 : Nat)
  let rotate := prog.any fun w => decide (bits w 28 4 = 4)
  let z := (List.range x.M).map fun kk =>
    let v := ft.1.getD (fftPos (fftStages prog) x.M ((kk + x.M / 2) % x.M)) (0, 0)
    if rotate then
      let nu := freq + ((kk : Int) - (x.M / 2 : Nat)) * df
      cxMap (fun a => rne a 16) (cxMul v (rot (unsigned 32 (phi + rne (tau * nu) 48))))
    else v
  let rt := if rotate then satAll 24 z else (z, 0)
  let gain : Int := (tblAt s x.armed 2 (2 * (i * 32 + c)) 2 : Nat)
  let pre := rt.1.map (cxMap fun a => rne (a * gain) (s.cfg x.armed F.PR_CFG.REQ_SHIFT 0))
  let w := if s.mode4 then 4 else 8
  let y := pre.map (cxMap fun a => satSym a w)
  (y, filt.2, ft.2, rt.2, ((pre.zip y).map fun p => cxDiff p.1 p.2).sum)

/-- The bytes of a fine sample (R146). -/
def sampleBytes (mode4 : Bool) (y : Cx) : List Byte :=
  if mode4 then [BitVec.ofNat 8 (unsigned 4 y.1 + 16 * unsigned 4 y.2)] else [BitVec.ofInt 8 y.1, BitVec.ofInt 8 y.2]

/-- Where the corner-turn buffer holds the fine sample of a channel, index and input (R146). -/
def ctAddr (s : State) (x : SpectrumAt) (f i : Nat) : Nat :=
  regionBase s (s.rd F.PR_REGIONS.CT_REGION 0) + x.cyc % 2 * (s.N * s.hBytes * x.T * (x.C * x.M)) +
    ((f * x.T + x.t) * s.N + i) * s.hBytes

/-- Where the valid-bitmap area holds the valid bit of a coarse channel, index and input: the byte (R147). -/
def vbAddr (s : State) (x : SpectrumAt) (c i : Nat) : Nat :=
  regionBase s (s.rd F.PR_REGIONS.VB_REGION 0) + x.cyc % 2 * (x.C * x.T * s.N / 8) + ((c * x.T + x.t) * s.N + i) / 8

/-- A bit of a byte, set to a value. -/
def putBit (b : Byte) (i : Nat) (v : Bool) : Byte :=
  BitVec.ofNat 8 (if v then setBit b.toNat i else clrBit b.toNat i)

/-- A spectrum written with its valid bit (R142, R146, R147). -/
def storeSpectrum (s : State) (x : SpectrumAt) (i c : Nat) (ok : Bool) (y : List Cx) : State :=
  let s1 := (List.range x.M).foldl (fun s kk =>
    s.hbmWrite (ctAddr s x (c * x.M + kk) i) (sampleBytes s.mode4 (if ok then y.getD kk (0, 0) else (0, 0)))) s
  let a := vbAddr s x c i
  s1.hbmWrite a [putBit (Memory.get s1.hbm a) (i % 8) ok]

/-- The saturation counters and their sticky bits (R141). -/
def countSats (s : State) (filt fft rt req : Nat) : State :=
  let one := fun s (f : Fld) (i n : Nat) => if n = 0 then s else setErr (bump s f 0 n) Err.PR.unit i 0
  let s1 := one (one (one s F.PR_FILT_SAT.COUNT Err.PR.FILT_SAT filt) F.PR_FFT_SAT.COUNT Err.PR.FFT_SAT fft)
    F.PR_ROT_SAT.COUNT Err.PR.ROT_SAT rt
  bump s1 F.PR_REQ_SAT.COUNT 0 req

/-- The marker of a cycle reaches the Prism with its first spectrum (R30): n, and SETTLING at a start or a settling epoch. -/
def prismMarker (s : State) (x : SpectrumAt) (q : Nat) : State :=
  if s.px.cyc < x.cyc ∨ q = s.px.base then
    let s1 := ({ s with px := { s.px with cyc := x.cyc } }).wr F.PR_DELAY_N.N_CYC 0 x.n
    if q = x.s0 then ({ s1 with px := { s1.px with settle := (x.s0 + (x.P + 1) * x.M, x.C) } }).wr F.PR_STATUS.SETTLING 0 1 else s1
  else s

/-- Every input and channel of the configuration has passed a coarse sample. -/
def allPassed (s : State) (C q : Nat) : Bool :=
  (List.range s.N).all fun i => (List.range C).all fun c => decide (q ≤ nextSpectrum s i c)

/-- What follows a spectrum (R143, R148): settling ends, and a cycle is declared written, once every input and channel has passed. -/
def prismSettle (s : State) (x : SpectrumAt) (q : Nat) : State :=
  let s1 := if s.rd F.PR_STATUS.SETTLING 0 = 1 ∧ allPassed s s.px.settle.2 s.px.settle.1 = true then s.wr F.PR_STATUS.SETTLING 0 0 else s
  if x.t + 1 = x.T ∧ s1.px.written = x.cyc ∧ allPassed s1 x.C (q + x.M) = true then
    { s1 with px := { s1.px with written := x.cyc + 1 } }
  else s1

/-- The landed cells that the Prism can still need, with the ring space that its reading frees (R43, R133). -/
def pruneLanded (s : State) (c q : Nat) : State :=
  let low := minOf ((List.range s.N).map fun i => nextSpectrum s i c)
  let need := (low - 15 * 256) / s.sCell
  if q % s.sCell = 0 then
    { s with gh := { s.gh with
        freed := Tab.put s.gh.freed c (low / s.sCell), landed := s.gh.landed.filter fun l => decide (l.chan ≠ c) || decide (need ≤ l.slice) } }
  else s

/-- A word of the Prism tables that the spectrum uses was found uncorrectable and is not reloaded (R285). -/
def prismWordBad (s : State) (x : SpectrumAt) (i c : Nat) : Bool :=
  let used : Nat → Nat → Bool := fun id e =>
    if id = 1 then decide (e < x.P * x.M) else if id = 2 then decide (e = i * 32 + c) else if id = 3 then decide (e = i)
    else
      let first := s.cfg x.armed F.PR_CFG.PROG_BASE 0
      decide (first ≤ e) && decide (e < first + (program s x.armed).length)
  s.tableBad.any fun w => decide (1 ≤ w.1 ∧ w.1 ≤ 4) &&
    decide (w.2.1 = b2n (bit (s.cfg x.armed F.GLOBAL_BANK_SEL.BANK_SEL 0) w.1)) && used w.1 w.2.2.2

/-- The spectrum of an input and channel at coarse sample q is computed and stored. A table word found uncorrectable is reported as it is
found; the loss recurs at each use (R285). DEDUCED: log entry 61. -/
def doSpectrum (s : State) (i c q : Nat) (sramBad : Bool) : State :=
  let x := spectrumAt s q
  let s1 := prismMarker s x q
  let settling := decide (q < x.s0 + x.P * x.M)
  let gv := (List.range x.P).all fun p => decide (p * x.M ≤ q) && gvalid s i c x.M x.hist (q - p * x.M)
  let sp := fineSpectrum s x i c q
  let s2 := countSats s1 sp.2.1 sp.2.2.1 sp.2.2.2.1 sp.2.2.2.2
  let lost := sramBad || prismWordBad s x i c
  let s3 := bump (storeSpectrum s2 x i c (gv && !settling && !lost) sp.1) F.PR_SPECTRA.COUNT 0 1
  let joined := (connected s q).any fun ge => decide (ge.1 = i / 16)
  let s4 := if settling then bump s3 F.PR_SETTLE_SUPP.COUNT 0 1
    else if joined && !gv && !lost then bump s3 F.PR_INVALID.COUNT 0 1 else s3
  let s4b := if lost then flagCycle (bump s4 F.PR_INVALID.COUNT 0 1) x.cyc flINCOMPLETE_INPUTS else s4
  let s5 := if sramBad then sramFault s4b 2 else s4b
  let s6 := { s5 with px := { s5.px with next := Tab.put s5.px.next (i, c) (q + x.M) } }
  pruneLanded (prismSettle s6 x q) c (q + x.M)

/-- The coarse samples of the spectrum of an input and channel at q are released and may be computed: the configuration has the
input and channel, no STOP's target is reached, and the half is free (R29, R148). -/
def spectrumReady (s : State) (i c q : Nat) : Bool :=
  let x := spectrumAt s q
  let stopped := match s.glob.armed with
    | some a => a.stop && decide ((armedCsi s).getD 0 ≤ q)
    | none => false
  decide (dpARMED ≤ s.dp) && !hung s 2 && domOn s 17 && decide (i < s.N) && decide (c < x.C) && !stopped &&
    (decide (s.dp ≠ dpSTOPPING) || decide (q < s.glob.stopAt)) && decide ((q + x.M - 1) / s.sCell < frontOf s c) &&
    decide (x.cyc < s.px.fetched + 2)

/-- PRISM_SPECTRUM (R137). -/
def execPrismSpectrum (i : Fin 4096) (c : Fin 32) (sramBad : Bool) (s : State) : Host.Outcome State Fault Refusal :=
  .next (run (fun s => spectrumReady s i c (nextSpectrum s i c)) (fun s => doSpectrum s i c (nextSpectrum s i c) sramBad) s)

end Sys2Proof.Machine
end

