-- ==== Sys2Proof/Machine/Pavilion.lean ====
section
/-! DEFINITION. Baseline blocks, the block map, cell arithmetic, residue verdicts, retirement and suspect intervals (chapters 7
and 13). -/
namespace Sys2Proof.Machine

/-- Roles of a Pavilion (Table 7-3). -/
abbrev roOFF : Nat := 0
abbrev roLIVE : Nat := 1
abbrev roSPARE : Nat := 2
abbrev roSUBST : Nat := 3
abbrev roRETIRED : Nat := 4
abbrev roFAILED : Nat := 5

/-- The Pavilions' hidden state, replaced. -/
def setPv (s : State) (x : PavSt) : State := { s with pv := x }

/-- The number of baseline blocks. -/
def nBlocks (s : State) : Nat := s.nBlk * (s.nBlk + 1) / 2

/-- The column input block z of a baseline block (R151). -/
def blockZ (beta : Nat) : Nat := ((List.range 128).filter fun z => decide (z * (z + 1) / 2 ≤ beta)).length - 1

/-- The row input block y of a baseline block (R151). -/
def blockY (beta : Nat) : Nat := beta - blockZ beta * (blockZ beta + 1) / 2

/-- (SLOT, ORDER) of a baseline block under the map in force, or that of the armed epoch's copies (R152, R154). -/
def mapEntry (s : State) (a : Bool) (beta : Nat) : Nat × Nat :=
  if s.cfg a F.PAV_MAP_CTL.DEFAULT_MAP 0 = 1 then (beta % 128, beta / 128)
  else
    let w := tblAt s a 5 (4 * beta) 4
    (bits w 0 7, bits w 16 7)

/-- The blocks of order o by ascending logical slot, as (slot, β). -/
def blocksAt (s : State) (o : Nat) : List (Nat × Nat) :=
  (List.range 128).filterMap fun p => ((List.range (nBlocks s)).find? fun b => decide (mapEntry s false b = (p, o))).map fun b => (p, b)

/-- q of a map (R155). -/
def mapQ (s : State) (a : Bool) : Nat := maxOf ((List.range (nBlocks s)).map fun b => (mapEntry s a b).2) + 1

/-- PAV_MAP_CTL.Q, the block slots of a channel block. -/
def State.q (s : State) : Nat := s.rd F.PAV_MAP_CTL.Q 0

/-- The host of a logical slot. -/
def hostOf (s : State) (p : Nat) : Nat := s.rd F.PAV_HOST.HOST p

/-- A byte of an Orangery store. -/
def storeByte (l : List Host.Cell) (a : Nat) : Nat := (Memory.get l a).toNat

/-- The sample of an input at an instant of the channel block (R146). -/
def orSample (s : State) (o : Orangery) (i t : Nat) : Cx :=
  let a := (t * s.N + i) * s.hBytes
  if s.mode4 then (signed 4 (storeByte o.samples a), signed 4 (storeByte o.samples a / 16))
  else (signed 8 (storeByte o.samples a), signed 8 (storeByte o.samples (a + 1)))

/-- The valid bit of an input at an instant (R147). -/
def orValid (s : State) (o : Orangery) (i t : Nat) : Bool := bit (storeByte o.valids ((t * s.N + i) / 8)) (i % 8)

/-- The product of one cell over the channel block (R159). -/
def cellSum (s : State) (o : Orangery) (i j : Nat) : Cx :=
  (List.range s.T).foldl (fun (acc : Cx) t =>
    let a := orSample s o i t
    let b := orSample s o j t
    (acc.1 + a.1 * b.1 + a.2 * b.2, acc.2 + a.2 * b.1 - a.1 * b.2)) (0, 0)

/-- The tally count of one cell (R159). -/
def cellCount (s : State) (o : Orangery) (i j : Nat) : Nat := countWhere s.T fun t => orValid s o i t && orValid s o j t

/-- What the faults of a run add to a cell: real part, imaginary part and count. -/
def faultDelta (fs : List PavFault) (k : Nat) : Int × Int × Int :=
  fs.foldl (fun d f => if f.cell ≠ k then d else
    match f.kind with
    | .value im x | .input im x => if im then (d.1, d.2.1 + x, d.2.2) else (d.1 + x, d.2.1, d.2.2)
    | .count x | .inputCount x => (d.1, d.2.1, d.2.2 + x)
    | _ => d) (0, 0, 0)

/-- What the faults of a run add to a cell beside its residue checker (R164, R165). -/
def residueDelta (fs : List PavFault) (k : Nat) : Int × Int × Int :=
  faultDelta (fs.filter fun f => match f.kind with | .value _ _ => true | .count _ => true | _ => false) k

/-- Some cell's residues disagree (R164). -/
def residueBad (fs : List PavFault) : Bool :=
  fs.any fun f => decide (f.kind = .checker) ||
    (let d := residueDelta fs f.cell
     decide (d.1 % 7 ≠ 0) || decide (d.2.1 % 7 ≠ 0) || decide (d.2.2 % 7 ≠ 0))

/-- The image of a run on the channel block of an Orangery half (R159, R160). -/
def runImage (s : State) (o : Orangery) (r : PavRun) : Img :=
  let y := blockY r.beta
  let z := blockZ r.beta
  let cells := if o.samples = [] ∧ r.faults = [] then [] else (List.range 1024).filterMap fun k =>
    let v := cellSum s o (32 * y + k / 32) (32 * z + k % 32)
    let d := faultDelta r.faults k
    if v.1 + d.1 = 0 ∧ v.2 + d.2.1 = 0 then none else some (k, v.1 + d.1, v.2 + d.2.1)
  let counts := if o.valids = [] ∧ r.faults = [] then [] else (List.range 1024).filterMap fun k =>
    let n := ((cellCount s o (32 * y + k / 32) (32 * z + k % 32) : Nat) + (faultDelta r.faults k).2.2).toNat
    if n = 0 then none else some (k, n)
  { cyc := o.cyc, f := o.f, beta := r.beta, order := r.order, logical := r.logical, pav := r.pav, cells := cells, counts := counts }

/-- Two images agree, word for word. -/
def sameImage (a b : Img) : Bool := decide (a.cells = b.cells) && decide (a.counts = b.counts)

/-- The held count of a block: that of its host at its order (R163). -/
def heldOf (s : State) (p o : Nat) : Option HeldCount := Tab.find s.pv.held (hostOf s p, o)

/-- A run of a later fine channel whose count differs from the held count (R163); a re-run or referee is not compared, nor any
run while the held count is uncorrectable (R164). -/
def tallyMismatch (s : State) (img : Img) (d : Duty) : Bool :=
  match d, heldOf s img.logical img.order with
  | .rerun, _ | .referee, _ | _, none => false
  | _, some h => decide (img.f % s.M ≠ 0) && !h.bad && decide (h.counts ≠ img.counts)

/-- The held count of a live run is uncorrectable, so that the block is rejected (R162). -/
def heldBad (s : State) (r : PavRun) : Bool :=
  match r.duty, heldOf s r.logical r.order with
  | .live, some h => h.bad
  | _, _ => false

/-- What a verdict says of a run: its image, the cause of its rejection (Table 7-4), and whether its count mismatched. -/
structure Verdict where
  run : PavRun
  img : Img
  cause : Option Nat
  mism : Bool

/-- The verdict of a run (R164): of several causes the first of uncorrectable word, residue, tally. -/
def judge (s : State) (o : Orangery) (r : PavRun) : Verdict :=
  let img := runImage s o r
  let mism := tallyMismatch s img r.duty
  let word := (r.faults.any fun f => decide (f.kind = .word)) || heldBad s r
  { run := r, img := img, mism := mism,
    cause := if word then some 2 else if residueBad r.faults then some 0 else if mism then some 1 else none }

/-- A Pavilion becomes pending retirement (R171). -/
def setPending (s : State) (k : Nat) : State :=
  if s.rd F.PAV_STATUS.ROLE k = roRETIRED ∨ s.rd F.PAV_STATUS.ROLE k = roFAILED then s else s.wr F.PAV_STATUS.PENDING k 1

/-- A rejection charged to a Pavilion in scheduled block slot g (R171, R281); the health record counts rejections of every kind (R287).
DEDUCED: log entry 52. -/
def charge (s0 : State) (k g : Nat) : State :=
  let s := lodgeNote s0 0 1
  if s.rd F.PAV_CFG.RETIRE_EN 0 = 0 then s else
    let again := (match Tab.find s.pv.lastRej k with | some x => decide (g < x + 64) | none => false) ||
      (Tab.find s.lo.katFailed k).isSome
    let s1 := setPv s { s.pv with lastRej := Tab.put s.pv.lastRej k g }
    if again then setPending s1 k else s1

/-- A rejected run is counted and recorded (R164), and charged. -/
def reject (s : State) (v : Verdict) (cause g : Nat) : State :=
  let k := v.run.pav
  let s1 := bump s F.PAV_REJECTS.COUNT k 1
  let s2 := ((s1.wr F.PAV_LAST_REJ.CAUSE k cause).wr F.PAV_LAST_REJ.FINE_CHAN k v.img.f).wr F.PAV_LAST_REJ.BLOCK k v.run.beta
  let s3 := setErr s2 Err.PAV.unit Err.PAV.REJECT k
  let s4 := if v.mism then setErr (bump s3 F.PAV_TALLY_MISM.COUNT k 1) Err.PAV.unit Err.PAV.TALLY_MISMATCH k else s3
  let s5 := if cause = 2 then sramFault (setErr s4 Err.PAV.unit Err.PAV.UNCORR k) 3 else s4
  charge s5 k g

/-- A block is dropped (R170). -/
def dropBlock (s : State) (cyc f beta host : Nat) : State :=
  let s1 := lodgeNote (setErr (bump s F.PAV_BLOCK_DROP.COUNT 0 1) Err.PAV.unit Err.PAV.BLOCK_DROP host) 9 1
  flagCycle (lodgeErr s1 Err.LODGE.BLOCK_DROP 0 0 [beta, f, host]) cyc flINCOMPLETE_INPUTS

/-- The cycle and its first FSI that hold a scheduled block slot (R284). -/
def cycleOfSlot (s : State) (g : Nat) : Nat × Nat :=
  match s.pv.cycles.find? fun e => decide (e.1 ≤ g) with
  | some e => e.2
  | none => (0, 0)

/-- The INTEG_NUM of the integration of a cycle, whether or not it is still in a bank (R425). -/
def integOfCycle (s : State) (cyc : Nat) : Nat :=
  match s.pv.closedInts.find? fun e => decide (e.2.1 ≤ cyc) && decide (cyc < e.2.1 + e.2.2) with
  | some e => e.1
  | none => integNumOf s cyc

/-- SUSPECT_FSI of a bank lowered to a cycle's first FSI. -/
def noteSuspect (s : State) (x fsi : Nat) : State :=
  let b := getBank s x
  setBank s x { b with suspect := some (min fsi (b.suspect.getD fsi)) }

/-- A cycle that holds a suspect block slot (R284): the flag on its bank, with its first FSI. -/
def suspectCycle (s : State) (cyc fsi : Nat) : State :=
  let s1 := if bankHolds s 0 cyc then noteSuspect s 0 fsi else if bankHolds s 1 cyc then noteSuspect s 1 fsi else s
  flagCycle s1 cyc flAUDIT_SUSPECT

/-- SUSPECT_OPEN follows the open intervals. -/
def settleOpen (s : State) : State := s.wr F.LODGE_STATUS.SUSPECT_OPEN 0 s.pv.suspect.length

/-- The suspect interval of a logical slot ends (R284). DEDUCED: log entry 55. -/
def endSuspect (s : State) (p : Nat) : State := settleOpen (setPv s { s.pv with suspect := Tab.del s.pv.suspect p })

/-- The suspect interval of a logical slot opens after its last clean audit, and marks the cycles in which the slot has committed a block since.
DEDUCED: log entry 55. -/
def openSuspect (s : State) (p : Nat) : State :=
  match Tab.find s.pv.suspect p with
  | some _ => s
  | none =>
    let g0 := match Tab.find s.pv.cleanG p with | some g => g + 1 | none => 0
    let s1 := settleOpen (setPv s { s.pv with suspect := Tab.put s.pv.suspect p g0 })
    (Tab.getD s1.pv.since p []).foldl (fun s e => suspectCycle s e.1 e.2) s1

/-- A logical slot commits a block of a cycle by a run that is no referee's (R284): the cycle is kept for a suspect interval that opens
later, and marked when one is open. -/
def noteCommitted (s : State) (p cyc : Nat) : State :=
  let fsi := s.E + (cyc - s.acs.epochCyc) * s.T
  let old := Tab.getD s.pv.since p []
  let s1 := if old.any fun e => decide (e.1 = cyc) then s else setPv s { s.pv with since := Tab.put s.pv.since p ((cyc, fsi) :: old) }
  if (Tab.find s1.pv.suspect p).isSome then suspectCycle s1 cyc fsi else s1

/-- An audit-caught fault of logical slot p, charged to a Pavilion (R283). -/
def caught (s : State) (p host beta f g : Nat) : State :=
  let s1 := openSuspect (bump s F.LODGE_AUDIT_FAULT.COUNT 0 1) p
  let c := cycleOfSlot s1 (Tab.getD s1.pv.suspect p 0)
  let s2 := lodgeErr s1 Err.LODGE.AUDIT_FAULT host (integOfCycle s1 c.1)
    [pair p host, pair beta f, g, s.rd F.LODGE_AUDIT.G p, c.2]
  if s2.rd F.LODGE_CFG.AUDIT_RETIRE 0 = 1 then (if s2.rd F.PAV_CFG.RETIRE_EN 0 = 1 then setPending s2 host else s2) else charge s2 host g

/-- An accepted image enters the commit queue, unless its cycle is not committed (R167, R196). -/
def enqueue (s : State) (img : Img) : State :=
  match integBank s with
  | none => s
  | some x =>
    let s1 := setPv s { s.pv with queue := s.pv.queue ++ [{ img with bank := x }] }
    setBank s1 x { getBank s1 x with outstanding := (getBank s1 x).outstanding + 1 }

/-- The held count of a block, set. -/
def setHeld (s : State) (img : Img) : State :=
  setPv s { s.pv with held := Tab.put s.pv.held (hostOf s img.logical, img.order) { counts := img.counts, runner := img.pav } }

/-- The logical slot that a Pavilion hosts, or the one given when it hosts none. -/
def slotOfHost (s : State) (k p : Nat) : Nat := ((List.range 128).find? fun i => decide (hostOf s i = k)).getD p

/-- An image is accepted (R163, R167): at the tally channel, or where none is held, its count becomes the held count and is
committed; the differing count of an accepted re-run is taken as correct, and charged to the run that gave the held one. An uncorrectable
held count stays as it is when an equal count is accepted. DESIGN CHOICE: log entry 104. -/
def accept (s : State) (img : Img) (rerun : Bool) (g : Nat) : State :=
  match heldOf s img.logical img.order with
  | none => enqueue (setHeld s img) { img with withTally := true }
  | some h =>
    if img.f % s.M = 0 then enqueue (setHeld s img) { img with withTally := true }
    else if rerun && decide (h.counts ≠ img.counts) then
      let s1 := enqueue (setHeld s img) img
      if h.bad then s1 else caught s1 (slotOfHost s1 h.runner img.logical) h.runner img.beta img.f g
    else enqueue s img

/-- The logical slot that a Pavilion hosts. -/
def slotAt (s : State) (k : Nat) : Option Nat := (List.range 128).find? fun p => decide (hostOf s p = k)

/-- A Pavilion is RETIRED or FAILED. -/
def isOut (s : State) (k : Nat) : Bool := decide (s.rd F.PAV_STATUS.ROLE k = roRETIRED) || decide (s.rd F.PAV_STATUS.ROLE k = roFAILED)

/-- A role written to every Pavilion that is neither RETIRED nor FAILED, with PAV_SPARES.FREE_MASK. -/
def setRoles (s : State) (role : Nat → Nat) : State :=
  let s1 := (List.range 136).foldl (fun s k => if isOut s k then s else s.wr F.PAV_STATUS.ROLE k (role k)) s
  s1.wr F.PAV_SPARES.FREE_MASK 0 (((List.range 136).filter fun k => decide (s1.rd F.PAV_STATUS.ROLE k = roSPARE)).foldl (fun m k => setBit m (k - 128)) 0)

/-- The roles and FREE_MASK follow PAV_HOST, the power domains and the retirement history (Tables 7-3, 7-8). -/
def settleRoles (s : State) : State :=
  setRoles s fun k => if !domOn s (k / 8) then roOFF else if k < 128 then roLIVE else if (slotAt s k).isSome then roSUBST else roSPARE

/-- HOSTS and FREE_COUNT, which follow at cycle boundaries, at START and at a data-plane reset (Tables 7-3, 7-8, R173). -/
def updHosts (s : State) : State :=
  ((List.range 136).foldl (fun s k => s.wr F.PAV_STATUS.HOSTS k ((slotAt s k).getD 0xFF)) s).wr F.PAV_SPARES.FREE_COUNT 0
    (countWhere 136 fun k => decide (s.rd F.PAV_STATUS.ROLE k = roSPARE))

/-- The roles, HOSTS and PAV_SPARES follow at a cycle boundary or at START (Tables 7-3, 7-8). -/
def settleHosts (s : State) : State := updHosts (settleRoles s)

/-- At a data-plane reset every Pavilion but the RETIRED and FAILED returns to LIVE or SPARE (R173). -/
def resetHosts (s : State) : State := updHosts (setRoles s fun k => if k < 128 then roLIVE else roSPARE)

/-- A Pavilion is retired (R171); p is the logical slot that it hosted and `new` its new host, 0xFF for none. DEDUCED: log entry 54. -/
def retire (s : State) (k p new : Nat) : State :=
  let s1 := (s.wr F.PAV_STATUS.ROLE k roRETIRED).wr F.PAV_STATUS.PENDING k 0
  let s2 := setErr (bump s1 F.PAV_RETIREMENTS.COUNT 0 1) Err.PAV.unit Err.PAV.RETIRED k
  let s3 := raise s2 30 [pair p k, new]
  if p = 0xFF then s3 else endSuspect s3 p

/-- A logical slot moves to a new host, whose rejections count from zero. -/
def moveHost (s : State) (p new : Nat) : State :=
  let s1 := s.wr F.PAV_HOST.HOST p new
  setPv s1 { s1.pv with lastRej := Tab.del s1.pv.lastRej new }

/-- One pending Pavilion at step 4 of the cycle boundary (R171, R172). -/
def retirePending (s : State) (k : Nat) : State :=
  match (List.range 128).find? fun p => decide (hostOf s p = k) with
  | none => settleHosts (retire s k 0xFF 0xFF)
  | some p =>
    match freeSpares s with
    | [] => lodgeErr (setErr ((s.wr F.PAV_STATUS.FAILING k 1).wr F.PAV_STATUS.PENDING k 0) Err.PAV.unit Err.PAV.NO_SPARE k) Err.LODGE.NO_SPARE 0 0 [k]
    | new :: _ => settleHosts (retire (moveHost s p new) k p new)

/-- Step 4 of Table 1-5: every pending Pavilion in ascending order. -/
def retireStep (s : State) : State :=
  settleHosts (((List.range 136).filter fun k => decide (s.rd F.PAV_STATUS.PENDING k = 1)).foldl retirePending s)

end Sys2Proof.Machine
end

