-- ==== Sys2Proof/Machine/Slots.lean ====
section
/-! DEFINITION. Channel blocks and block slots: fetch, live runs, audits, re-runs, referees, tails and their verdicts; the
known-answer passes (R157 to R170, R280 to R282). -/
namespace Sys2Proof.Machine

/-- The join offset of a re-run, in instants: J, or J_A for a referee (R168, R282). DEDUCED: log entry 53. -/
def joinOffset (s : State) (d : Duty) : Nat := (if d = .referee then 72 else 8) * (if s.mode4 then 4 else 1)

/-- A rejected block waits for a re-run that joins the stream now beginning (R168), or for a full tail once the last block slot has been
judged (R170). -/
def scheduleRerun (s : State) (r : PavRun) (ended : Bool) : State :=
  let w : PavRun := { duty := .rerun, pav := r.pav, logical := r.logical, beta := r.beta, order := r.order, tries := 1, late := !ended }
  if ended then setPv s { s.pv with tail := s.pv.tail ++ [w] } else setPv s { s.pv with waiting := s.pv.waiting ++ [w] }

/-- A rejected re-run or referee is run again from instant 0 of the slot after the one in which its verdict is known, or its block
is dropped with the third rejection (R170). -/
def rerunAgain (s : State) (v : Verdict) : State :=
  if 3 ≤ v.run.tries then dropBlock s v.img.cyc v.img.f v.run.beta (hostOf s v.run.logical)
  else setPv s { s.pv with waiting := s.pv.waiting ++ [{ v.run with tries := v.run.tries + 1, late := false, delay := 1, faults := [] }] }

/-- An audit mismatch: the live image is held, and a referee joins (R282). DEDUCED: log entry 53. -/
def scheduleReferee (s : State) (live audit : Verdict) (g : Nat) : State :=
  let s1 := lodgeNote (bump s F.LODGE_AUDIT_MISM.COUNT 0 1) 3 1
  let late := decide (joinOffset s .referee < s.T)
  let r0 : PavRun := { duty := .referee, pav := audit.run.pav, logical := live.run.logical, beta := live.run.beta, order := live.run.order }
  let r : PavRun := { r0 with tries := 1, late := late, delay := if late then 0 else 1, between := some (live.img, audit.img), g := g }
  setPv s1 { s1.pv with waiting := s1.pv.waiting ++ [r] }

/-- An audit and its live run agree: a clean audit (R282, R284). -/
def cleanAudit (s : State) (p g : Nat) : State :=
  endSuspect ((setPv s { s.pv with cleanG := Tab.put s.pv.cleanG p g, since := Tab.del s.pv.since p }).wr F.LODGE_AUDIT.G p g) p

/-- An image of a logical slot's own runs is accepted: of its live run, an audit or a re-run (R167, R284). -/
def acceptOwn (s : State) (img : Img) (rerun : Bool) (g : Nat) : State := noteCommitted (accept s img rerun g) img.logical img.cyc

/-- The outcome of a live run with the audit of its block, if one was made (R164, R169, R282). -/
def judgeLive (s : State) (v : Verdict) (audit : Option Verdict) (g : Nat) : State :=
  match v.cause, audit with
  | none, none => acceptOwn s v.img false g
  | some c, none => scheduleRerun (reject s v c g) v.run false
  | some c, some a =>
    let s1 := reject s v c g
    (match a.cause with
     | none => acceptOwn s1 a.img false g
     | some d => scheduleRerun (reject s1 a d g) v.run false)
  | none, some a =>
    match a.cause with
    | some d => acceptOwn (reject s a d g) v.img false g
    | none =>
      if sameImage v.img a.img then cleanAudit (acceptOwn s v.img false g) v.run.logical g
      else scheduleReferee s v a g

/-- The outcome of a re-run (R168, R170). -/
def judgeRerun (s : State) (v : Verdict) (g : Nat) : State :=
  match v.cause with
  | some c => rerunAgain (reject s v c g) v
  | none => acceptOwn s v.img true g

/-- The outcome of a referee run (Table 13-2). -/
def judgeReferee (s : State) (v : Verdict) (g : Nat) : State :=
  match v.cause, v.run.between with
  | some c, _ => rerunAgain (reject s v c g) v
  | none, none => s
  | none, some (live, audit) =>
    if sameImage v.img audit then
      let s1 := accept s v.img false g
      caught s1 v.run.logical (hostOf s1 v.run.logical) v.run.beta v.img.f v.run.g
    else if sameImage v.img live then charge (acceptOwn s live false g) audit.pav g
    else dropBlock (charge (charge s live.pav g) audit.pav g) v.img.cyc v.img.f v.run.beta (hostOf s v.run.logical)

/-- What every completed run counts (Table 7-5). -/
def countRun (s : State) (r : PavRun) : State :=
  let s1 := bump s F.PAV_BLOCKS.COUNT r.pav 1
  let s2 := if r.duty = .audit then lodgeNote (bump s1 F.PAV_AUDITS.COUNT r.pav 1) 2 1 else s1
  let n := (r.faults.filter fun f => decide (f.kind = .corrected)).length
  if n = 0 then s2 else lodgeNote (bump s2 F.PAV_TILE_CORR.COUNT r.pav n) 5 n

/-- Runs in ascending logical slot. -/
def bySlot (l : List PavRun) : List PavRun := (List.range 128).flatMap fun p => l.filter fun r => decide (r.logical = p)

/-- A run reads an input block that has an uncorrectable word, so its block is dropped (R162). -/
def readsBad (o : Orangery) (r : PavRun) : Bool := o.bad.contains (blockY r.beta) || o.bad.contains (blockZ r.beta)

/-- The verdict of one run, with the audits of its stream. -/
def judgeOne (o : Orangery) (audits : List PavRun) (g gr : Nat) (s : State) (r : PavRun) : State :=
  match r.duty with
  | .live => judgeLive s (judge s o r) ((audits.find? fun a => decide (a.beta = r.beta)).map (judge s o)) g
  | .rerun => judgeRerun s (judge s o r) gr
  | .referee => judgeReferee s (judge s o r) gr
  | .audit => s

/-- The verdicts of runs that have ended: g is the scheduled block slot in which live runs and audits ran, gr the one in which
the verdict of a re-run counts. Runs that end at the same step follow each other by logical slot (R167): in a block slot those that joined
late end after the others, on a tail before them. DEDUCED: log entry 52. -/
def judgeRuns (s : State) (o : Orangery) (l : List PavRun) (g gr : Nat) (tail : Bool) : State :=
  let s1 := l.foldl countRun s
  let bad := bySlot (l.filter fun r => readsBad o r && decide (r.duty ≠ .audit))
  let ok := l.filter fun r => !readsBad o r
  let s2 := bad.foldl (fun s r => dropBlock s o.cyc o.f r.beta (hostOf s r.logical)) s1
  let audits := ok.filter fun r => decide (r.duty = .audit)
  (bySlot (ok.filter fun r => decide (r.late = tail)) ++ bySlot (ok.filter fun r => decide (r.late ≠ tail))).foldl (judgeOne o audits g gr) s2

/-- The Orangery half of the channel block in progress. -/
def curHalf (s : State) : Option Orangery := s.pv.cur.bind fun h => Tab.find s.pv.halves h

/-- The block slot begun last ends (Table 7-2): g advances, its runs are judged. After the last block slot, runs that joined late
stay for a tail, and everything that still waits needs a full tail (R168, R170). -/
def settleSlot (s : State) : State :=
  match s.pv.settled, curHalf s with
  | false, some o =>
    let g := s.rd F.PAV_BLOCK_SLOT.G 0
    let last := decide (s.pv.order = s.q)
    let ended := if last then s.pv.runs.filter fun r => !r.late else s.pv.runs
    let left := if last then s.pv.runs.filter fun r => r.late else []
    let s1 := setPv (s.wr F.PAV_BLOCK_SLOT.G 0 (g + 1)) { s.pv with settled := true, runs := left }
    let s2 := judgeRuns s1 o ended g (if last then g else g + 1) false
    if last then setPv s2 { s2.pv with tail := s2.pv.tail ++ s2.pv.waiting.map (fun r => { r with late := false, delay := 0 }), waiting := [] } else s2
  | _, _ => s

/-- No stream and no verdict of the channel block is outstanding, once the last block slot has ended. -/
def quiet (s : State) : Bool :=
  let t := settleSlot s
  s.pv.cur.isNone || (decide (s.pv.order = s.q) && t.pv.runs.isEmpty && t.pv.waiting.isEmpty && t.pv.tail.isEmpty)

/-- The spares that a run may take: not taken, and for a referee not the auditing spare. DEDUCED: log entry 53. -/
def spareFor (s : State) (taken : List Nat) (r : PavRun) : Option Nat :=
  (freeSpares s).find? fun k => !taken.contains k && decide (r.between.map (fun b => b.2.pav) ≠ some k)

/-- Some free spare could take a run at another time. -/
def spareExists (s : State) (r : PavRun) : Bool := (spareFor s [] r).isSome

/-- The run starts on a Pavilion (R166, R282): counted, with the faults it meets. -/
def startRun (s : State) (r : PavRun) (k : Nat) (faults : List PavFault) : State :=
  let s1 := if r.duty = .live ∨ r.duty = .audit then s else lodgeNote (bump s F.PAV_RERUNS.COUNT k 1) 1 1
  let s2 := if r.duty = .referee then bump s1 F.LODGE_REFEREE.COUNT 0 1 else s1
  setPv s2 { s2.pv with runs := s2.pv.runs ++ [{ r with pav := k, faults := faults.filter fun f => decide (f.pav = k) }] }

/-- Waiting runs take spares in order; one that finds none waits for the next slot from instant 0, or for a full tail when no free
spare could serve it (R170, R282). The list of spares taken is carried along. -/
def assignRuns (faults : List PavFault) : List PavRun → State × List Nat → State × List Nat
  | [], a => a
  | r :: t, a =>
    match spareFor a.1 a.2 r with
    | some k => assignRuns faults t (startRun a.1 r k faults, k :: a.2)
    | none =>
      let s1 := if spareExists a.1 r then setPv a.1 { a.1.pv with waiting := a.1.pv.waiting ++ [{ r with late := false, delay := 0 }] }
        else setPv a.1 { a.1.pv with tail := a.1.pv.tail ++ [{ r with late := false, delay := 0 }] }
      assignRuns faults t (s1, a.2)

/-- Re-runs before referees, each in ascending logical slot (R166, R282). -/
def waitOrder (l : List PavRun) : List PavRun :=
  bySlot (l.filter fun r => decide (r.duty = .rerun)) ++ bySlot (l.filter fun r => decide (r.duty = .referee))

/-- The audits of a block slot (R166): the spare of rank j audits slot (g S + j) mod 128 unless a re-run or referee holds it.
DEDUCED: log entry 53. -/
def startAudits (s : State) (o : Nat) (taken : List Nat) (faults : List PavFault) : State :=
  let sp := freeSpares s
  let g := s.rd F.PAV_BLOCK_SLOT.G 0
  let blocks := blocksAt s o
  (sp.zip (List.range sp.length)).foldl (fun s kj =>
    if taken.contains kj.1 then s else
      let p := (g * sp.length + kj.2) % 128
      match blocks.find? fun b => decide (b.1 = p) with
      | some b => startRun s { duty := .audit, pav := kj.1, logical := p, beta := b.2, order := o } kj.1 faults
      | none => s) s

/-- Block slot o begins: duties are chosen (R166, R168, R170). -/
def startSlot (s : State) (o : Nat) (busy : List Nat) (faults : List PavFault) : State :=
  let w := s.pv.waiting
  let rest := (w.filter fun r => !r.late && decide (r.delay ≠ 0)).map fun r => { r with delay := r.delay - 1 }
  let s0 := setPv s { s.pv with order := o + 1, settled := false, waited := false, waiting := rest }
  let s1 := (blocksAt s o).foldl (fun s b =>
    startRun s { duty := .live, pav := hostOf s b.1, logical := b.1, beta := b.2, order := o } (hostOf s b.1) faults) s0
  let a := assignRuns faults (waitOrder (w.filter fun r => !r.late && decide (r.delay = 0))) (s1, busy)
  let taken0 := a.2.filter fun k => !busy.contains k
  let b := assignRuns faults (waitOrder (w.filter fun r => r.late)) (a.1, taken0)
  startAudits b.1 o (b.2 ++ busy) faults

/-- The Pavilions of which position (f mod 2, o) of the tile memory, which block slot o will write once it has begun as in t, still holds an
unretired image (R161). -/
def tileHeld (t : State) (cyc f o : Nat) : List Nat :=
  (List.range 136).filter fun k => (t.pv.runs.any fun r => decide (r.pav = k) && decide (r.order = o)) &&
    ((t.pv.queue ++ t.pv.issued).any fun i => decide (i.pav = k) && decide (i.order = o) && decide (i.f % 2 = f % 2) && decide ((i.cyc, i.f) ≠ (cyc, f)))

/-- The clocks that Pavilions have spent waiting for the broadcast (R158). -/
def bcastWaits (s : State) (waits : List (Nat × Nat)) : State := waits.foldl (fun s w => bump s F.PAV_BCAST_WAIT.COUNT w.1 w.2) s

/-- Block slot o cannot begin yet: the wait is counted once, with the lowest Pavilion that it waits for (R161, Table 7-11). -/
def tileWait (s : State) (k : Nat) : State :=
  if s.pv.waited then s
  else setErr (bump (setPv s { s.pv with waited := true }) F.PAV_COMMIT_WAIT.COUNT 0 1) Err.PAV.unit Err.PAV.COMMIT_WAIT k

/-- BLOCK_SLOT_BEGIN (R158, R161, R166, Table 7-2). -/
def execBlockSlotBegin (met : StreamMet) (s : State) : Host.Outcome State Fault Refusal :=
  .next (run (fun s => decide (dpRUNNING ≤ s.dp) && s.pv.cur.isSome && decide (s.pv.order < s.q))
    (fun s =>
      let o := s.pv.order
      let h := (curHalf s).map fun h => (h.cyc, h.f)
      let busy := (s.pv.runs.filter fun r => r.late).map fun r => r.pav
      let s1 := settleSlot (bcastWaits s met.waits)
      let t := startSlot s1 o busy met.faults
      match tileHeld t (h.getD (0, 0)).1 (h.getD (0, 0)).2 o with
      | k :: _ => tileWait s1 k
      | [] => t) s)

/-- The Pavilion of a run on a full tail: a free spare, else the next full tail; with none to come, a referee's lowest-numbered
other host, or the block's own host (R170, R282). -/
def tailPav (s : State) (taken : List Nat) (r : PavRun) : Option Nat :=
  match spareFor s taken r with
  | some k => some k
  | none =>
    if spareExists s r then none
    else match r.between with
    | some (_, audit) =>
      (List.range 136).find? fun k => ((List.range 128).any fun p => decide (hostOf s p = k)) && decide (s.rd F.PAV_STATUS.PENDING k = 0) &&
        decide (k ≠ hostOf s r.logical) && decide (k ≠ audit.pav) && !taken.contains k
    | none => if taken.contains (hostOf s r.logical) then none else some (hostOf s r.logical)

/-- Runs of a full tail take their Pavilions; the rest stay for the next one. -/
def assignTail (faults : List PavFault) : List PavRun → State × List Nat → State × List Nat
  | [], a => a
  | r :: t, a =>
    match tailPav a.1 a.2 r with
    | some k => assignTail faults t (startRun a.1 r k faults, k :: a.2)
    | none => assignTail faults t (setPv a.1 { a.1.pv with tail := a.1.pv.tail ++ [r] }, a.2)

/-- One tail (R168, R170): the runs that joined late finish, and the runs that need a full tail run whole. -/
def streamTail (s : State) (o : Orangery) (faults : List PavFault) : State :=
  let g := s.rd F.PAV_BLOCK_SLOT.G 0 - 1
  let busy := s.pv.runs.map fun r => r.pav
  let todo := waitOrder s.pv.tail
  let s1 := bump (setPv s { s.pv with tail := [] }) F.PAV_TAILS.COUNT 0 1
  let s2 := (assignTail faults todo (s1, busy)).1
  let runs := s2.pv.runs
  let s3 := judgeRuns (setPv s2 { s2.pv with runs := [] }) o runs g g true
  setPv s3 { s3.pv with tail := s3.pv.tail ++ s3.pv.waiting.map (fun r => { r with late := false, delay := 0 }), waiting := [] }

/-- TAIL_STREAM (R158, R168, R170): the last block slot ends, and a tail is streamed when a run needs it. -/
def execTailStream (met : StreamMet) (s : State) : Host.Outcome State Fault Refusal :=
  .next (run (fun s => decide (dpRUNNING ≤ s.dp) && s.pv.cur.isSome && decide (s.pv.order = s.q) &&
      (!s.pv.settled || !s.pv.runs.isEmpty || !s.pv.tail.isEmpty))
    (fun s =>
      let s1 := settleSlot (bcastWaits s met.waits)
      match curHalf s1 with
      | some o => if s1.pv.runs.isEmpty && s1.pv.tail.isEmpty then s1 else streamTail s1 o met.faults
      | none => s1) s)

/-- The fetch of the next channel block can begin: its cycle is written, its half is released, and every channel block fetched before it
has begun (R157). -/
def fetchReady (s : State) : Bool :=
  decide (dpRUNNING ≤ s.dp) && !hung s 3 && s.pv.fetch.isNone && decide (s.pv.nextF < s.F) && decide (s.acs.cyc < s.px.written) &&
    (Tab.find s.pv.halves (s.pv.nextF % 2)).isNone && (s.pv.halves.all fun e => decide (s.pv.cur = some e.1)) && (decide (s.dp ≠ dpSTOPPING) || decide (s.E + (s.acs.cyc - s.acs.epochCyc) * s.T < s.glob.stopAt / s.M))

/-- The bytes listed in a range of the HBM, counted from its start. -/
def hbmSlice (s : State) (a n : Nat) : List Host.Cell :=
  (s.hbm.filter fun c => decide (a ≤ c.1) && decide (c.1 < a + n)).map fun c => (c.1 - a, c.2)

/-- CHANNEL_BLOCK_FETCH (R157): the released half takes the next channel block of the cycle in progress (R146, R147, R156). -/
def execChannelBlockFetch (s : State) : Host.Outcome State Fault Refusal :=
  .next (run fetchReady
    (fun s =>
      let f := s.pv.nextF
      let n := s.N * s.hBytes * s.T
      let half := s.acs.cyc % 2
      let a := regionBase s (s.rd F.PR_REGIONS.CT_REGION 0) + half * (n * s.F) + f * n
      let m := s.T * s.N / 8
      let b := regionBase s (s.rd F.PR_REGIONS.VB_REGION 0) + half * (s.C * m) + f / s.M * m
      let o : Orangery := { cyc := s.acs.cyc, f := f, samples := hbmSlice s a n, valids := hbmSlice s b m }
      setPv s { s.pv with fetch := some (f % 2), nextF := f + 1, halves := Tab.put s.pv.halves (f % 2) o }) s)

/-- The input blocks of a channel block of which a word is poisoned by a failed stack or an uncorrectable codeword. -/
def badBlocks (s : State) (o : Orangery) : List Nat :=
  if s.sound then [] else
    let n := s.N * s.hBytes * s.T
    let a := regionBase s (s.rd F.PR_REGIONS.CT_REGION 0) + o.cyc % 2 * (n * s.F) + o.f * n
    (List.range s.nBlk).filter fun b => (List.range s.T).any fun t => poisonedAt s (a + (t * s.N + 32 * b) * s.hBytes) (32 * s.hBytes)

/-- FETCH_COMPLETE (R157): the channel block is whole; the read of a cycle's last channel block frees its corner-turn half (R29),
and a channel block that the Pavilions waited for counts. DEDUCED: log entry 56. -/
def execFetchComplete (poison : List Nat) (s : State) : Host.Outcome State Fault Refusal :=
  .next (run (fun s => s.pv.fetch.isSome && !hung s 3)
    (fun s =>
      let h := s.pv.fetch.getD 0
      match Tab.find s.pv.halves h with
      | none => s
      | some o =>
        let poison := poison ++ badBlocks s o
        let s1 := if quiet s then bump s F.PAV_FETCH_WAIT.COUNT 0 1 else s
        let s2 := setPv s1 { s1.pv with fetch := none, halves := Tab.put s1.pv.halves h { o with ready := true, bad := poison } }
        let s3 := if poison.isEmpty then s2 else lodgeErr s2 Err.LODGE.DRAM_UNCORR 0 0 []
        if o.f + 1 = s.F then { s3 with px := { s3.px with fetched := o.cyc + 1 } } else s3) s)

/-- The half that holds the channel block to begin: the one fetched and not yet begun. -/
def nextHalf (s : State) : Option Nat :=
  (s.pv.halves.find? fun e => e.2.ready && decide (s.pv.cur ≠ some e.1)).map fun e => e.1

/-- A channel block begins (R157): the other half is released; a tally channel holds no count yet; the first channel block of a
cycle notes the cycle's first block slot. -/
def beginBlock (s : State) (h : Nat) (o : Orangery) : State :=
  let s1 := settleSlot s
  let held := if o.f % s.M = 0 then [] else s1.pv.held
  let s2 := setPv s1 { s1.pv with cur := some h, order := 0, settled := true, waited := false, halves := [(h, o)], held := held }
  if o.f = 0 then
    let fsi := s.E + (o.cyc - s.acs.epochCyc) * s.T
    setPv s2 { s2.pv with cycles := (s2.rd F.PAV_BLOCK_SLOT.G 0, o.cyc, fsi) :: s2.pv.cycles }
  else s2

/-- KAT_TICK (R280): at NS a multiple of 10 ms a pass is due for every free spare, and for every powered Pavilion while the data
plane is IDLE or ARMED; a pass still due counts as overdue. -/
def execKatTick (s : State) : Host.Outcome State Fault Refusal :=
  .next (run (fun _ => true)
    (fun s =>
      let s1 := advanceTo s (nextMultiple s (10 * 65536000000))
      let s2 := if s1.lo.katDue.isEmpty then s1 else bump s1 F.LODGE_KAT_OVERDUE.COUNT 0 s1.lo.katDue.length
      let due := if s2.dp = dpIDLE ∨ s2.dp = dpARMED then (List.range 136).filter fun k => domOn s2 (k / 8) else freeSpares s2
      { s2 with lo := { s2.lo with katDue := due } }) s)

/-- An idle interval: no block slot or tail streams (R280). -/
def katIdle (s : State) : Bool := decide (s.dp = dpIDLE) || decide (s.dp = dpARMED) || quiet s

/-- A failed pass (R281). -/
def katFailed (s : State) (k : Nat) : State :=
  let n := Tab.getD s.lo.katFailed k 0 + 1
  let s1 := lodgeNote (lodgeErr (bump s F.LODGE_KAT_FAIL.COUNT 0 1) Err.LODGE.KAT_FAIL k 0 []) 4 1
  let s2 := charge s1 k (s.rd F.PAV_BLOCK_SLOT.G 0)
  let s3 := { s2 with lo := { s2.lo with katFailed := Tab.put s2.lo.katFailed k n } }
  if (s.dp = dpIDLE ∨ s.dp = dpARMED) ∧ s.rd F.PAV_CFG.RETIRE_EN 0 = 1 ∧ 2 ≤ n ∧ s.rd F.PAV_STATUS.ROLE k ≠ roRETIRED ∧
      s.rd F.PAV_STATUS.ROLE k ≠ roFAILED then
    settleHosts (retire s3 k (((List.range 128).find? fun p => decide (hostOf s3 p = k)).getD 0xFF) 0xFF)
  else s3

/-- KAT_PASS_DONE (R280, R281): the idle interval has begun, so the last block slot has been judged. -/
def execKatPassDone (k : Fin 136) (pass : Bool) (s : State) : Host.Outcome State Fault Refusal :=
  .next (run (fun s => (s.lo.katDue.contains k.val || (Tab.find s.lo.katFailed k.val).isSome) && katIdle s && domOn s (k / 8))
    (fun s =>
      let s0 := settleSlot s
      let s1 := { s0 with lo := { s0.lo with katDue := s0.lo.katDue.filter fun j => decide (j ≠ k.val) } }
      if pass then
        let s2 := bump s1 F.LODGE_KAT_PASS.COUNT 0 1
        { s2 with lo := { s2.lo with katFailed := Tab.del s2.lo.katFailed k.val } }
      else katFailed s1 k) s)

end Sys2Proof.Machine
end

