-- ==== Sys2Proof/Machine/Accum.lean ====
section
/-! DEFINITION. The commit unit, the banks and their ends, preload, and how an epoch takes effect (chapters 3 and 8). -/
namespace Sys2Proof.Machine

/-- Values are wide (R178). -/
def State.wide (s : State) : Bool := decide (s.rd F.ACC_CFG.WIDE 0 = 1)

/-- Bytes of a value (R178). -/
def State.wBytes (s : State) : Nat := if s.wide then 16 else 8

/-- Bits of a component (R183). -/
def State.cwBits (s : State) : Nat := if s.wide then 64 else 32

/-- The number of baselines. -/
def State.Nb (s : State) : Nat := s.N * (s.N + 1) / 2

/-- The base of bank x and of its tallies (R177). -/
def bankBase (s : State) (x : Nat) : Nat := regionBase s (if x = 0 then s.rd F.ACC_REGIONS.BANK_A 0 else s.rd F.ACC_REGIONS.BANK_B 0)
def tallyBase (s : State) (x : Nat) : Nat := regionBase s (if x = 0 then s.rd F.ACC_REGIONS.TALLY_A 0 else s.rd F.ACC_REGIONS.TALLY_B 0)

/-- The largest exact component (R183). -/
def topOf (cw : Nat) : Int := 2 ^ (cw - 1) - 2

/-- A component holds a saturation code (R183). -/
def isSatCode (cw : Nat) (v : Int) : Bool := decide (v = topOf cw + 1) || decide (v = -(topOf cw + 2))

/-- `accum.add_comp` (R184). -/
def addComp (cw : Nat) (old v : Int) : Int :=
  if isSatCode cw old then old
  else if topOf cw < old + v then topOf cw + 1
  else if old + v < -(topOf cw) then -(topOf cw + 2)
  else old + v

/-- `accum.tally_add` (R186). -/
def tallyAdd (old n : Nat) : Nat := min (old + n) 0xFFFFFFFF

/-- The value of a baseline and fine channel in a bank's layout at a base (R177, R178). -/
def readValue (s : State) (base f b : Nat) : Cx :=
  let a := base + (f * s.Nb + b) * s.wBytes
  (signed s.cwBits (s.hbmNat a (s.wBytes / 2)), signed s.cwBits (s.hbmNat (a + s.wBytes / 2) (s.wBytes / 2)))

/-- A value written. -/
def writeValue (s : State) (base f b : Nat) (v : Cx) : State :=
  s.hbmWrite (base + (f * s.Nb + b) * s.wBytes) (leBytes (s.wBytes / 2) (unsigned s.cwBits v.1) ++ leBytes (s.wBytes / 2) (unsigned s.cwBits v.2))

/-- The committed cells of a baseline block as (cell, baseline): r ≤ s in a diagonal block, all in another (R167). -/
def committedCells (beta : Nat) : List (Nat × Nat) :=
  let y := blockY beta
  let z := blockZ beta
  (List.range 1024).filterMap fun k =>
    let i := 32 * y + k / 32
    let j := 32 * z + k % 32
    if y = z ∧ k % 32 < k / 32 then none else some (k, j * (j + 1) / 2 + i)

/-- The 32 runs of consecutive baselines of a block, one for each column, as (first baseline, length) (R178). -/
def columnRuns (beta : Nat) : List (Nat × Nat) :=
  (List.range 32).map fun c =>
    let j := 32 * blockZ beta + c
    (j * (j + 1) / 2 + 32 * blockY beta, if blockY beta = blockZ beta then c + 1 else 32)

/-- The bytes of those runs, of channel ch of an area with w bytes an entry. DEDUCED: log entry 94. -/
def byteRuns (s : State) (base ch w beta : Nat) : List (Nat × Nat) :=
  (columnRuns beta).map fun r => (base + (ch * s.Nb + r.1) * w, r.2 * w)

/-- The key of a block and fine (or coarse) channel in a touch map (R179). -/
def touchKey (beta f : Nat) : Nat := f * 8256 + beta

/-- An overflow bit that becomes 1 in bank x counts (R185). DEDUCED: log entry 59. -/
def countOverflow (s : State) (x n : Nat) : State :=
  if n = 0 then s else
    let s1 := setErr (bump s F.ACC_OVERFLOWS.COUNT 0 n) Err.ACC.unit Err.ACC.OVERFLOW x
    s1.wr F.ACC_BANK_OVF.COUNT x (min (s1.rd F.ACC_BANK_OVF.COUNT x + n) (2 ^ 32 - 1))

/-- Where the old values of a block are read from at its commit: its own bank once touched, else the preload image; none when they are 0
(R180). -/
def oldBase (s : State) (x beta f : Nat) : Option Nat :=
  if (getBank s x).touched.contains (touchKey beta f) then some (bankBase s x) else (getBank s x).preload.map (regionBase s)

/-- Where the old tally counts of a position are read from. -/
def oldTallyBase (s : State) (x beta c : Nat) : Option Nat :=
  if (getBank s x).touchedTally.contains (touchKey beta c) then some (tallyBase s x) else (getBank s x).preTally.map (regionBase s)

/-- The old value of a block's cell at its commit (R180). -/
def oldValue (s : State) (x beta f b : Nat) : Cx :=
  match oldBase s x beta f with
  | some a => readValue s a f b
  | none => (0, 0)

/-- The old tally count of a position. -/
def oldTally (s : State) (x beta c b : Nat) : Nat :=
  match oldTallyBase s x beta c with
  | some a => s.hbmNat (a + (c * s.Nb + b) * 4) 4
  | none => 0

/-- The read of a block's old value is poisoned. -/
def oldBad (s : State) (x beta f b : Nat) : Bool :=
  match oldBase s x beta f with
  | some a => poisonedAt s (a + (f * s.Nb + b) * s.wBytes) s.wBytes
  | none => false

/-- The read of an old tally count is poisoned. -/
def oldTallyBad (s : State) (x beta c b : Nat) : Bool :=
  match oldTallyBase s x beta c with
  | some a => poisonedAt s (a + (c * s.Nb + b) * 4) 4
  | none => false

/-- A commit of the block makes a read: it is touched or preloaded. -/
def readsOld (s : State) (x beta f : Nat) : Bool :=
  (oldBase s x beta f).isSome

/-- A commit of the tallies makes a read: the position is touched or has a tally image. -/
def readsTally (s : State) (x beta c : Nat) : Bool :=
  (oldTallyBase s x beta c).isSome

/-- One committed cell (R180, R182, R184, R185). DEDUCED: log entry 59. -/
def commitCell (s : State) (x : Nat) (img : Img) (bad : Bool) (k b : Nat) : State :=
  let old := oldValue s x img.beta img.f b
  let was := ((getBank s x).touched.contains (touchKey img.beta img.f)) && (isSatCode s.cwBits old.1 || isSatCode s.cwBits old.2)
  let v := (Tab.find img.cells k).getD (0, 0)
  let neg := -(topOf s.cwBits + 2)
  let new : Cx := if bad then (neg, neg) else (addComp s.cwBits old.1 v.1, addComp s.cwBits old.2 v.2)
  let s1 := if bad then bump s F.ACC_POISON.COUNT 0 1 else s
  let s2 := writeValue s1 (bankBase s x) img.f b new
  countOverflow s2 x (if !was && (isSatCode s.cwBits new.1 || isSatCode s.cwBits new.2) then 1 else 0)

/-- A tally count that saturates counts (R186). -/
def countTallySat (s : State) (x n : Nat) : State :=
  if n = 0 then s else
    let s1 := setErr (bump s F.ACC_TALLY_SAT.COUNT 0 n) Err.ACC.unit Err.ACC.TALLY_SAT x
    setBank s1 x { getBank s1 x with tallySat := true }

/-- One committed tally count (R180, R182, R186). -/
def commitTally (s : State) (x : Nat) (img : Img) (bad : Bool) (k b : Nat) : State :=
  let c := img.f / s.M
  let old := oldTally s x img.beta c b
  let new := if bad then 0xFFFFFFFF else tallyAdd old (Tab.getD img.counts k 0)
  let s1 := s.hbmWrite (tallyBase s x + (c * s.Nb + b) * 4) (leBytes 4 new)
  countTallySat s1 x (if old ≠ 0xFFFFFFFF ∧ new = 0xFFFFFFFF then 1 else 0)

/-- An image touches its block (R178). -/
def touch (s : State) (x : Nat) (img : Img) : State :=
  let b := getBank s x
  let k := touchKey img.beta img.f
  let k2 := touchKey img.beta (img.f / s.M)
  let t2 := if img.withTally && !b.touchedTally.contains k2 then k2 :: b.touchedTally else b.touchedTally
  setBank s x { b with touched := if b.touched.contains k then b.touched else k :: b.touched, touchedTally := t2 }

/-- The cells whose old value is poisoned: those given, and those of a failed stack or an uncorrectable codeword. DEDUCED: log entry 81. -/
def badCells (s : State) (x : Nat) (img : Img) (poison : List Nat) : List Nat :=
  if s.sound then poison else poison ++ ((committedCells img.beta).filter fun e => oldBad s x img.beta img.f e.2).map Prod.fst

/-- The cells whose old tally count is poisoned. -/
def badCounts (s : State) (x : Nat) (img : Img) (poison : List Nat) : List Nat :=
  if s.sound then poison else poison ++ ((committedCells img.beta).filter fun e => oldTallyBad s x img.beta (img.f / s.M) e.2).map Prod.fst

/-- `accum.commit` (R180): the adds of an image, whose writes are then outstanding. -/
def commitImage (s : State) (img : Img) (poison tallyPoison : List Nat) (touchBad : Bool) : State :=
  let x := img.bank
  let cells := committedCells img.beta
  let bad := if readsOld s x img.beta img.f then poison else []
  let badTally := if img.withTally && readsTally s x img.beta (img.f / s.M) then tallyPoison else []
  let s1 := (cells.foldl (fun s e => commitCell s x img (touchBad || bad.contains e.1) e.1 e.2) s).healRuns
    (byteRuns s (bankBase s x) img.f s.wBytes img.beta)
  let s2 := if img.withTally then
      (cells.foldl (fun s e => commitTally s x img (touchBad || badTally.contains e.1) e.1 e.2) s1).healRuns
        (byteRuns s (tallyBase s x) (img.f / s.M) 4 img.beta)
    else s1
  let s3 := bump (touch s2 x img) F.ACC_IMAGES.COUNT 0 1
  let s4 := if !(bad.isEmpty && badTally.isEmpty) then
      flagCycle (lodgeErr (setErr s3 Err.ACC.unit Err.ACC.UNCORR 0) Err.LODGE.DRAM_UNCORR 0 0 []) img.cyc flINCOMPLETE_INPUTS
    else s3
  let s5 := if touchBad then flagCycle (sramFault (setErr s4 Err.ACC.unit Err.ACC.UNCORR 0) 4) img.cyc flINCOMPLETE_INPUTS else s4
  setPv s5 { s5.pv with issued := s5.pv.issued ++ [img] }

/-- An image retires: its writes are accepted, its tile position is freed, and the bank's outstanding count falls (R161, R180). -/
def retireImage (s : State) (img : Img) : State :=
  let s1 := setPv s { s.pv with issued := s.pv.issued.erase img }
  setBank s1 img.bank { getBank s1 img.bank with outstanding := (getBank s1 img.bank).outstanding - 1 }

/-- An earlier image with outstanding writes meets the addresses of an image (R181). -/
def overlapping (s : State) (img : Img) : Option Img :=
  s.pv.issued.find? fun i => decide (i.bank = img.bank) && decide (i.beta = img.beta) && decide (i.f = img.f)

/-- The head of the commit queue is committed, after an overlapping image has retired (R181). -/
def commitHead (s : State) (poison tallyPoison : List Nat) (touchBad : Bool) : State :=
  match s.pv.queue with
  | [] => s
  | img :: t =>
    let s1 := setPv s { s.pv with queue := t }
    let s2 := match overlapping s1 img with
      | some i => retireImage (bump s1 F.ACC_ADDR_WAIT.COUNT 0 1) i
      | none => s1
    commitImage s2 img (badCells s2 img.bank img poison) (badCounts s2 img.bank img tallyPoison) touchBad

/-- COMMIT_IMAGE (R180, R181). -/
def execCommitImage (poison tallyPoison : List Nat) (touchBad : Bool) (s : State) : Host.Outcome State Fault Refusal :=
  .next (run (fun s => !s.pv.queue.isEmpty && !hung s 4) (fun s => commitHead s poison tallyPoison touchBad) s)

/-- The oldest image whose writes are outstanding retires. -/
def retireHead (s : State) : State :=
  match s.pv.issued with
  | [] => s
  | img :: _ => retireImage s img

/-- COMMIT_RETIRE (R181). -/
def execCommitRetire (s : State) : Host.Outcome State Fault Refusal :=
  .next (run (fun s => !s.pv.issued.isEmpty) retireHead s)

/-- Every image of the queue committed and retired: step 1 of Table 1-5. -/
def retireAll (s : State) : State :=
  let s1 := s.pv.queue.foldl (fun s _ => commitHead s [] [] false) s
  s1.pv.issued.foldl (fun s _ => retireHead s) s1

/-- An uncorrectable read of a preload image by a fill: the value counts as poisoned, and the dump carries INCOMPLETE_INPUTS (R182).
DEDUCED: log entry 81. -/
def fillPoison (s : State) (x : Nat) : State :=
  flagBank (lodgeErr (setErr s Err.ACC.unit Err.ACC.UNCORR 0) Err.LODGE.DRAM_UNCORR 0 0 []) x flINCOMPLETE_INPUTS

/-- One fill of an untouched block and fine channel: the preload image's values, or 0 (R182, R185, R193). -/
def fillBlock (s : State) (x beta f : Nat) : State :=
  if (getBank s x).touched.contains (touchKey beta f) then s else
    let bad := if s.sound then [] else (committedCells beta).filter fun e => oldBad s x beta f e.2
    let neg := -(topOf s.cwBits + 2)
    let s1 := (committedCells beta).foldl (fun s e =>
      let v := if bad.contains e then (neg, neg) else oldValue s x beta f e.2
      countOverflow (writeValue s (bankBase s x) f e.2 v) x (if isSatCode s.cwBits v.1 || isSatCode s.cwBits v.2 then 1 else 0)) s
    let s2 := bump (s1.healRuns (byteRuns s (bankBase s x) f s.wBytes beta)) F.ACC_FILLS.COUNT 0 1
    if bad.isEmpty then s2 else fillPoison (bump s2 F.ACC_POISON.COUNT 0 bad.length) x

/-- One fill of an untouched tally position (R182, R193). -/
def fillTally (s : State) (x beta c : Nat) : State :=
  if (getBank s x).touchedTally.contains (touchKey beta c) then s else
    let bad := if s.sound then [] else (committedCells beta).filter fun e => oldTallyBad s x beta c e.2
    let s1 := (committedCells beta).foldl (fun s e =>
      s.hbmWrite (tallyBase s x + (c * s.Nb + e.2) * 4) (leBytes 4 (if bad.contains e then 0xFFFFFFFF else oldTally s x beta c e.2))) s
    let s2 := bump (s1.healRuns (byteRuns s (tallyBase s x) c 4 beta)) F.ACC_FILLS.COUNT 0 1
    if bad.isEmpty then s2 else countTallySat (fillPoison s2 x) x bad.length

/-- The fills of a bank at its close (R193). -/
def fillBank (s : State) (x : Nat) : State :=
  let s1 := (List.range (nBlocks s)).foldl (fun s b => (List.range s.F).foldl (fun s f => fillBlock s x b f) s) s
  (List.range (nBlocks s)).foldl (fun s b => (List.range s.C).foldl (fun s c => fillTally s x b c) s) s1

/-- G of Table 2-7. -/
def exactSamples (s : State) : Nat := if s.wide then 4294967295 else if s.mode4 then 16777215 else 65535

/-- The FSI of the boundary that ends the cycle in progress (R56). -/
def nextBoundary (s : State) : Nat := s.E + (s.acs.cyc + 1 - s.acs.epochCyc) * s.T

/-- The flags that the close itself sets (R185, R187). -/
def closeFlags (s : State) (x : Nat) : Nat :=
  let n := s.rd F.ACC_INTEG_LEN.LEN 0 * s.T
  (s.rd F.ACC_BANK_FLAGS.FLAGS x) |||
    (if exactSamples s < n ∨ 4294967295 < n ∨ (getBank s x).tallySat = true then flUNGUARANTEED else 0) |||
    (if s.rd F.ACC_BANK_OVF.COUNT x ≠ 0 then flOVERFLOW_PRESENT else 0)

/-- INTEG to CLOSED (R190, R193, R195, R425). The sources of MIRROR_DEGRADED are announced anew from here on: a gap belongs to the integration
after it (R94). -/
def closeBank (s0 : State) (x : Nat) : State :=
  let s := fillBank s0 x
  let num := (s.rd F.ACC_INTEG_NUM.NUM 0 + 1) % 2 ^ 32
  let s1 := (setBankState s x bkCLOSED).wr F.ACC_INTEG_NUM.NUM 0 num
  let s2 := (s1.wr F.ACC_BANK_END.FSI x (nextBoundary s)).wr F.ACC_BANK_EPOCH.EPOCH x (s.rd F.GLOBAL_EPOCH_NUM.EPOCH_NUM 0)
  let s3 := ((s2.wr F.ACC_BANK_FLAGS.FLAGS x (closeFlags s x)).wr F.ACC_STATUS.STRETCHING 0 0).wr F.ACC_STATUS.PRELOAD_ACTIVE 0 0
  let b := getBank s3 x
  let s4 := setBank s3 x { b with num := num, epochRegs := s.act, epochM := s.M, startTb := timeOf s ((s.rd F.ACC_BANK_START.FSI x * s.M : Nat) : Int) }
  let s5 := { s4 with yg := { s4.yg with mirrorDone := [] } }
  setPv s5 { s5.pv with closedInts := (num, b.firstCycle, s.rd F.ACC_BANK_CYCLES.COUNT x) :: s5.pv.closedInts }

/-- The integration that begins in bank x is preloaded, when its fields say so (R197). -/
def preloadBank (s : State) (x : Nat) : State :=
  if s.ac F.ACC_PRELOAD.EN 0 = 1 ∧ (s.ac F.ACC_PRELOAD.MODE 0 = 1 ∨ s.acs.preloadDone = false) then
    let tally := if s.ac F.ACC_PRELOAD.TALLY 0 = 1 then some (s.ac F.ACC_PRELOAD.TALLY_REGION 0) else none
    let s1 := setBank s x { getBank s x with preload := some (s.ac F.ACC_PRELOAD.IMG_REGION 0), preTally := tally }
    let s2 := flagBank (s1.wr F.ACC_STATUS.PRELOAD_ACTIVE 0 1) x flPRELOADED
    { s2 with acs := { s2.acs with preloadDone := true } }
  else s

/-- The flags kept for a cycle reach bank x with the cycle (R194). -/
def takePending (s : State) (x cyc : Nat) : State :=
  match Tab.find s.acs.pendFlags cyc with
  | none => s
  | some f =>
    let s1 := { s with acs := { s.acs with pendFlags := Tab.del s.acs.pendFlags cyc } }
    s1.wr F.ACC_BANK_FLAGS.FLAGS x ((s1.rd F.ACC_BANK_FLAGS.FLAGS x) ||| f)

/-- FREE to INTEG at cycle `cyc` with first FSI `fsi` (Table 8-2, R194, R197); TRELLIS_INCOMPLETE is announced anew (R267). -/
def beginBank (s : State) (x cyc fsi : Nat) : State :=
  let s1 := setBank (setBankState s x bkINTEG) x { firstCycle := cyc, rateSrcs := s.rd F.GH_STATUS.RATE_SRCS 0 }
  let s2 := ((((s1.wr F.ACC_BANK_FLAGS.FLAGS x s.acs.nextFlags).wr F.ACC_BANK_FLAGS.STRETCH x 0).wr F.ACC_BANK_OVF.COUNT x 0).wr
    F.ACC_BANK_START.FSI x fsi).wr F.ACC_BANK_END.FSI x 0
  let s3 := (((s2.wr F.ACC_BANK_CYCLES.COUNT x 0).wr F.ACC_BANK_EPOCH.EPOCH x 0).wr F.ACC_INTEG_START.FSI 0 fsi).wr F.ACC_INTEG_LEN.LEN 0 0
  let s4 := { s3.wr F.ACC_STATUS.INTEG_BANK 0 x with acs := { s3.acs with nextFlags := 0 } }
  takePending (preloadBank { s4 with tr := { s4.tr with missed := [] } } x) x cyc

/-- A skipped end (R191). -/
def stretchBank (s : State) (x : Nat) : State :=
  let n := min (s.rd F.ACC_BANK_FLAGS.STRETCH x + 1) 0xFF
  let s1 := bump (s.wr F.ACC_BANK_FLAGS.STRETCH x n) F.ACC_STRETCHES.COUNT 0 1
  let s2 := raise (setErr s1 Err.ACC.unit Err.ACC.STRETCH x) 6 [x, 4, n]
  flagBank (s2.wr F.ACC_STATUS.STRETCHING 0 1) x flSTRETCHED

/-- GLOBAL_EPOCH_TARGET and ARMED follow the armed epoch (R59). -/
def setArmed (s : State) (a : Option Armed) : State :=
  ((({ s with glob := { s.glob with armed := a, fresh := [] } }).wr F.GLOBAL_DP_STATE.ARMED 0 (b2n a.isSome))).wr F.GLOBAL_EPOCH_TARGET.TARGET_FSI 0
    ((a.map Armed.target).getD 0)

/-- The armed epoch has the boundary that ends the cycle in progress as its target (R59). -/
def atTarget (s : State) : Bool :=
  match s.glob.armed with
  | some a => !a.start && decide (a.target = nextBoundary s)
  | none => false

/-- The armed epoch at this boundary is a STOP. -/
def stopHere (s : State) : Bool := atTarget s && (match s.glob.armed with | some a => a.stop | none => false)

/-- An end is forced at this boundary (R189). -/
def forcedHere (s : State) : Bool :=
  atTarget s && (stopHere s || epochChanges s F.PR_CHAN.C 0 || epochChanges s F.PR_CFG.M 0 || epochChanges s F.GLOBAL_DP_CFG.T_CODE 0)

/-- The gap ends (R196): the event carries the total. -/
def endGap (s : State) : State :=
  let s1 := raise (s.wr F.ACC_STATUS.GAP 0 0) 7 [s.acs.gapCycles]
  { s1 with acs := { s1.acs with gapCycles := 0 } }

/-- The gap begins (R196). -/
def beginGap (s : State) (x : Nat) : State :=
  let s1 := setErr (s.wr F.ACC_STATUS.GAP 0 1) Err.ACC.unit Err.ACC.GAP 0
  { s1 with acs := { s1.acs with gapCycles := 0, lastClosed := x } }

/-- Step 2 of Table 1-5: the state, and the bank that is to begin at step 5 (R189, R190, R196). -/
def step2 (s : State) : State × Option Nat :=
  match integBank s with
  | some x =>
    let len := min (s.rd F.ACC_INTEG_LEN.LEN 0 + 1) (2 ^ 32 - 1)
    let s1 := (s.wr F.ACC_INTEG_LEN.LEN 0 len).wr F.ACC_BANK_CYCLES.COUNT x len
    let forced := forcedHere s1
    let due := decide (len % max 1 (s1.ac F.ACC_INTEG.K 0) = 0) || decide (s1.rd F.ACC_STATUS.DUMP_PENDING 0 = 1) || forced
    if !due then (s1, none)
    else if bankState s1 (1 - x) = bkFREE then
      let s2 := (closeBank s1 x).wr F.ACC_STATUS.DUMP_PENDING 0 0
      (s2, if stopHere s1 then none else some (1 - x))
    else if forced then
      let s2 := (closeBank s1 x).wr F.ACC_STATUS.DUMP_PENDING 0 0
      (if stopHere s1 then s2 else beginGap s2 x, none)
    else (stretchBank s1 x, none)
  | none =>
    if inGap s then
      let s1 := bump s F.ACC_GAP_CYCLES.COUNT 0 1
      let s2 := { s1 with acs := { s1.acs with gapCycles := s1.acs.gapCycles + 1 } }
      let y := 1 - s2.acs.lastClosed
      if stopHere s2 then (endGap s2, none)
      else if bankState s2 y = bkFREE then (endGap s2, some y)
      else (s2, none)
    else (s, none)

/-- The Prism takes over what the epoch changes (R134, R137, R140); `cyc` is the first cycle of the epoch and `csi` its first coarse
sample. -/
def prismEpoch (s : State) (cyc csi : Nat) : State :=
  let x := s.px
  let delay := if armedStart s || bankChanges s 3 then cyc else x.delayCyc
  let s0 := if causesSettling s then csi else x.s0
  let hist := if clearsHistory s then csi else x.hist
  { s with px := { x with s0 := s0, hist := hist, delayCyc := delay } }

/-- Step 3 of Table 1-5 (R59): the active copies are loaded, the epoch begins at E, EPOCH_NUM increments and EPOCH_APPLIED is
raised with the FSI of the command, in the fine samples before it (DESIGN CHOICE: log entry 102). `cyc` is the first cycle under it. -/
def applyEpoch (s : State) (cyc : Nat) : State :=
  match s.glob.armed with
  | none => s
  | some a =>
    let csi := (armedCsi s).getD 0
    let map := b2n (bit (Regs.rd a.capt F.GLOBAL_BANK_SEL.BANK_SEL 0) 0)
    let s1 := prismEpoch (updEndedAll (freshFilters s map) map) cyc csi
    let again := a.start || decide (s.ac F.ACC_PRELOAD.EN 0 = 0)
    let primed := if again && decide (Regs.rd a.capt F.ACC_PRELOAD.EN 0 = 1) then false else s.acs.preloadDone
    let s2 := { setArmed s1 none with act := a.capt, acs := { s1.acs with epochCyc := cyc, preloadDone := primed } }
    let num := (s2.rd F.GLOBAL_EPOCH_NUM.EPOCH_NUM 0 + 1) % 2 ^ 32
    let s3 := (s2.wr F.GLOBAL_EPOCH_NUM.EPOCH_NUM 0 num).wr F.GLOBAL_START_FSI.E_FSI 0 (csi / s2.M)
    raise (s3.wr F.PAV_MAP_CTL.Q 0 (mapQ s3 false)) 1 [num, a.target]

/-- The capture ring goes to OFF; an export in progress completes first (Table 11-7). -/
def captureOff (s : State) : State :=
  if s.rd F.EYE_CAP_STATUS.STATE 0 = 0 ∨ s.rd F.EYE_CAP_STATUS.STATE 0 = 4 then s
  else { s.wr F.EYE_CAP_STATUS.STATE 0 0 with eye := { s.eye with cap := { s.eye.cap with cap := none } } }

/-- The run is over: no bank waits or drains, and STOPPING returns to IDLE (Table 3-3). The capture ring goes to OFF when the STOP completes,
after the steps of Table 11-8 for the last cycle (R256, R258). -/
def checkStopped (s : State) : State :=
  if s.dp = dpSTOPPING ∧ bankState s 0 = bkFREE ∧ bankState s 1 = bkFREE then
    let s1 := raise (setDp s dpIDLE) 3 []
    if s1.le.isOpen || s1.eye.pend.isSome then s1 else captureOff s1
  else s

/-- The STOP takes effect at step 2 (Table 3-3). -/
def stopRun (s : State) : State :=
  let csi := (armedCsi s).getD 0
  let s1 := setArmed s none
  checkStopped (setDp { s1 with glob := { s1.glob with stopAt := csi } } dpSTOPPING)

/-- The live field of boundary CYCLE takes effect (R49, Table 3-1): the alignment window. -/
def takeCycleFields (s : State) : State := { s with force := Regs.wr s.force F.GH_WINDOW.W 0 (s.rd F.GH_WINDOW.W 0) }

end Sys2Proof.Machine
end

