-- ==== Sys2Proof/Machine/Dma.lean ====
section
/-! DEFINITION. The DMA engine: its channels, their classes, how a descriptor ends, and the link and power states that pause it
(chapter 16). -/
namespace Sys2Proof.Machine

/-- A channel's job, set. -/
def setJob (s : State) (c : Nat) (j : Job) : State := { s with ko := { s.ko with chans := Tab.put s.ko.chans c j } }

/-- A channel's job, removed. -/
def delJob (s : State) (c : Nat) : State := { s with ko := { s.ko with chans := Tab.del s.ko.chans c } }

/-- A channel's state, set. -/
def setCh (s : State) (c v : Nat) : State := s.wr F.DMA_CH_STATUS.STATE c v

/-- The highest class among the channels with data ready. -/
def topClass (s : State) : Nat :=
  ((List.range 32).filter (chMoving s)).foldl (fun a c => min a (s.rd F.DMA_CH_CFG.CLASS c)) 3

/-- One channel under the arbitration between classes (R358). -/
def arbitrate (top : Nat) (s : State) (c : Nat) : State :=
  if chMoving s c && decide (top < s.rd F.DMA_CH_CFG.CLASS c) then
    (if chState s c = chACTIVE then setCh (bump s F.DMA_CH_PREEMPT.COUNT c 1) c chPREEMPTED else s)
  else if chState s c = chPREEMPTED then setCh s c chACTIVE else s

/-- Bytes in a beat of a job. -/
def beatLen (j : Job) (beat : Nat) : Nat := min 64 (j.info - 64 * beat)

/-- A channel whose data comes from the host: a transmit frame, a LOAD_TABLE or a LOAD_REGION. -/
def fromHost (c : Nat) (j : Job) : Bool := decide (11 ≤ c ∧ c ≤ 14) || (decide (15 ≤ c) && (decide (leAt j.desc 0 1 = 1) || decide (leAt j.desc 0 1 = 3)))

/-- HIGH and LOW of a channel in bytes (R359). -/
def highBytes (s : State) (c : Nat) : Nat := s.rd F.DMA_CH_CFG.HIGH c * 512
def lowBytes (s : State) (c : Nat) : Nat := s.rd F.DMA_CH_CFG.LOW c * 512

/-- Bytes asked of the host and not yet answered; what is answered leaves the buffer at once. DESIGN CHOICE: log entry 106. -/
def pendingBytes (j : Job) : Nat := j.asked - (j.answered.map (beatLen j)).sum

/-- A read request is not yet wholly answered. -/
def readOpen (j : Job) (r : Nat × Nat) : Bool :=
  (List.range ((r.1 + r.2 - 1) / 64 + 1 - r.1 / 64)).any fun i => !j.answered.contains (r.1 / 64 + i)

/-- Read requests outstanding over all channels, at most 256 (Table 16-1). -/
def openReads (s : State) : Nat := (s.ko.chans.map fun e => e.2.reqs.length).sum

/-- A channel may issue a read request: it moves beats, has bytes left to ask for, and its buffer is below HIGH (R359). -/
def canRead (s : State) (c : Nat) : Bool :=
  match getJob s c with
  | some j => fromHost c j && (decide (chState s c = chACTIVE) || decide (chState s c = chSTOPPING)) && !j.full && decide (j.asked < j.info) &&
      decide (pendingBytes j < highBytes s c)
  | none => false

/-- The next channel to issue a request: of the highest class, in turn in ascending number (R358). -/
def nextReader (s : State) : Option Nat :=
  let cs := (List.range 32).filter (canRead s)
  let top := minOf (cs.map fun c => s.rd F.DMA_CH_CFG.CLASS c)
  let own := cs.filter fun c => decide (s.rd F.DMA_CH_CFG.CLASS c = top)
  let after := match Tab.find s.ko.turns top with | some l => own.filter fun c => decide (l < c) | none => own
  (after ++ own).head?

/-- The next request of a job: within the largest read request, a 4 KiB page, what is left and the buffer (Table 16-1, R359). -/
def readLen (s : State) (j : Job) : Nat :=
  min (min (maxRead s) (4096 - (j.addr + j.asked) % 4096)) (min (j.info - j.asked) (16384 - pendingBytes j))

/-- A channel issues its next read request; at HIGH it stops until the buffer has fallen to LOW (R359). -/
def issueRead (s : State) (c : Nat) : State :=
  match getJob s c with
  | some j =>
    let n := readLen s j
    let j1 := { j with asked := j.asked + n, reqs := j.reqs ++ [(j.asked, n)] }
    let s1 := s.emit (.hostRead (j.addr + j.asked) n)
    { s1 with ko := { s1.ko with
      chans := Tab.put s1.ko.chans c { j1 with full := decide (highBytes s c ≤ pendingBytes j1) },
      turns := Tab.put s1.ko.turns (s.rd F.DMA_CH_CFG.CLASS c) c } }
  | none => s

/-- Read requests are issued as far as channels, tags and buffers allow. -/
def issueReads : Nat → State → State
  | 0, s => s
  | n + 1, s =>
    if openReads s < 256 then
      match nextReader s with
      | some c => issueReads n (issueRead s c)
      | none => s
    else s

/-- The channels of lower classes are preempted, those of the highest class with data ready are active, and read requests go out
(R358, R359). -/
def dmaArb (s : State) : State :=
  let s1 := (List.range 32).foldl (arbitrate (topClass s)) s
  if pcieReady s1 then issueReads 256 s1 else s1

/-- A channel toward the host fetches from its source while its buffer is below HIGH; at HIGH it waits until the buffer has drained to
LOW, or to less than one write (R359). DESIGN CHOICE: log entry 106. -/
def fetchOn (s : State) (c : Nat) (j : Job) : Job :=
  if j.full && decide (lowBytes s c < j.asked - j.sent) && decide (j.answered.length * 64 < j.asked) then j else
    let top := min j.info ((j.sent + highBytes s c + 63) / 64 * 64)
    { j with asked := max j.asked top, full := decide (j.sent + highBytes s c ≤ max j.asked top) }

/-- The bytes of the next write to the host: one Max Payload Size, or what ends the descriptor or the 4 KiB page (Table 16-1, R359). -/
def writeLen (s : State) (j : Job) : Nat := min (min (maxWrite s) (4096 - (j.addr + j.sent) % 4096)) (j.info - j.sent)

/-- Beats answered in order join the bytes to write next. -/
def joinBeats : Nat → Job → Job
  | 0, j => j
  | n + 1, j =>
    let b := (j.sent + j.data.length) / 64
    match Tab.find j.ahead b with
    | some l => joinBeats n { j with data := j.data ++ l, ahead := Tab.del j.ahead b }
    | none => j

/-- Whole writes leave the buffer: payload of one descriptor, with Relaxed Ordering while that is enabled (Table 16-1). -/
def payloadOut (c : Nat) : Nat → State → Job → State × Job
  | 0, s, j => (s, j)
  | n + 1, s, j =>
    let k := writeLen s j
    if k = 0 ∨ j.data.length < k then (s, j) else
      payloadOut c n (s.emit (.hostPayload (j.addr + j.sent) (j.data.take k) s.ko.pci.relaxed)) { j with sent := j.sent + k, data := j.data.drop k }

/-- A beat toward the host is answered with its bytes. -/
def beatToHost (s : State) (c : Nat) (j : Job) (beat : Nat) (bytes : List Byte) : State :=
  let j1 := joinBeats (j.ahead.length + 1) { j with ahead := Tab.put j.ahead beat bytes }
  let r := payloadOut c j1.data.length s j1
  setJob r.1 c (fetchOn r.1 c r.2)

/-- A descriptor ends with an error of a bit of DMA_ERR: the channel halts (R360). -/
def chError (s : State) (c bit_ beat : Nat) (device : Bool) : State :=
  let s1 := bump (setErr s Err.DMA.unit bit_ c) F.DMA_CH_ERRS.COUNT c 1
  setCh ((s1.wr F.DMA_CH_LAST_BEAT.BEAT c beat).wr F.DMA_CH_STATUS.ERR_SIDE c (b2n device)) c chHALTED

/-- The status and BEAT of a job whose beats are all answered (R360). DESIGN CHOICE: log entry 107. -/
def jobStatus (j : Job) : Nat := if j.bus then stBUS_ERROR else if j.err.isSome then stCOMPLETE_WITH_ERROR else stOK
def jobBeat (j : Job) : Nat := if j.bus then 0 else (j.err.map Prod.fst).getD 0

/-- The channel after its descriptor: HALTED after an error, STOPPED after a stop, else IDLE (Table 16-14). -/
def endChannel (s : State) (c : Nat) (j : Job) : State :=
  let s1 := delJob s c
  let s2 := if j.bus then chError s1 c Err.DMA.BUS_ERROR 0 true else match j.err with
    | some (beat, device) => chError s1 c Err.DMA.BEAT_ERR beat device
    | none => setCh s1 c (if chState s1 c = chSTOPPING then chSTOPPED else chIDLE)
  dmaArb (ringBoundary s2 j.ring)

/-- A channel takes a descriptor of its ring as a job. DESIGN CHOICE: log entry 39. -/
def startJob (s : State) (c : Nat) (j : Job) : State :=
  let x := getRing s j.ring
  let j1 := if fromHost c j then j else fetchOn s c j
  dmaArb (setCh (setJob (setRing s j.ring { x with next := (x.next + 1) % 2 ^ 32 }) c j1) c chACTIVE)

/-- A buffer descriptor handed back at once with a status and no transfer. -/
def refuseDescriptor (s : State) (r x status : Nat) : State :=
  let y := getRing s r
  handBack (writeBack (setRing s r { y with next := (y.next + 1) % 2 ^ 32 }) r x [(16, 1, status)]) r x

/-- The fetch of a buffer descriptor fails: the channel and the ring halt, and the write-back carries BUS_ERROR (R360). -/
def fetchFailed (s : State) (c r : Nat) : State :=
  let s1 := refuseDescriptor s r (getRing s r).next stBUS_ERROR
  let s2 := setErr (chError s1 c Err.DMA.BUS_ERROR 0 false) Err.KIOSK.unit Err.KIOSK.DESC_FETCH r
  s2.wr F.KIOSK_RING_STATUS.STATE r rgHALTED

/-- The fetch of a command descriptor fails: its completion carries TAG 0 (R360). -/
def cmdFetchFailed (s : State) : State :=
  let s1 := complete s [] stBUS_ERROR 0 0
  let s2 := setErr (chError s1 0 Err.DMA.BUS_ERROR 0 false) Err.KIOSK.unit Err.KIOSK.DESC_FETCH 0
  s2.wr F.KIOSK_RING_STATUS.STATE 0 rgHALTED

/-- One more beat of a job is answered, with the first erroneous beat in beat order and its side. -/
def answer (j : Job) (beat : Nat) (err : Option Bool) : Job :=
  let e := match err, j.err with
    | none, x => x
    | some d, none => some (beat, d)
    | some d, some (b, d') => if beat < b then some (beat, d) else some (b, d')
  let j1 := { j with answered := beat :: j.answered, err := e, errs := if err.isSome then beat :: j.errs else j.errs }
  { j1 with reqs := j1.reqs.filter (readOpen j1) }

/-- DMA_CH_CTL.STOP is written (R361). -/
def dmaStop (s : State) (c : Nat) : State :=
  if chState s c = chIDLE then setCh s c chSTOPPED
  else if chState s c = chACTIVE ∨ chState s c = chPREEMPTED then dmaArb (setCh s c chSTOPPING) else s

/-- DMA_CH_CTL.RESTART is written (R361). -/
def dmaRestart (s : State) (c : Nat) : State :=
  if chState s c = chSTOPPED ∨ chState s c = chHALTED then settleCmds (setCh s c chIDLE) else s

/-- PCIE_LINK_DOWN (R340, R286): the DMA channels pause and the data plane continues. -/
def execPcieLinkDown (s : State) : Host.Outcome State Fault Refusal :=
  .next (run (fun s => decide (s.rd F.KIOSK_STATUS.LINK_UP 0 = 1))
    (fun s =>
      let s1 := ((s.wr F.KIOSK_STATUS.LINK_UP 0 0).wr F.KIOSK_STATUS.SPEED 0 0).wr F.KIOSK_STATUS.WIDTH 0 0
      let s2 := setErr s1 Err.KIOSK.unit Err.KIOSK.LINK_DOWN 0
      { s2 with ko := { s2.ko with linkDownAt := some s2.el, linkFault := false } }) s)

/-- The Kiosk issues requests again: what waited goes out, and the channels resume (R340). -/
def resume (s : State) : State := dmaArb (msixRelease (settleCmds (hostFlush s)))

/-- The link is up at a rate of 1 to 5 and a width of 1, 2, 4, 8 or 16 lanes (Tables 16-1 and 16-18). -/
def linkTrained (s : State) (speed width : Nat) : State :=
  let s1 := ((s.wr F.KIOSK_STATUS.LINK_UP 0 1).wr F.KIOSK_STATUS.SPEED 0 speed).wr F.KIOSK_STATUS.WIDTH 0 width
  resume { s1 with ko := { s1.ko with linkDownAt := none, linkFault := false } }

/-- A rate and width that the link can train to. -/
def linkOk (speed width : Nat) : Bool := decide (1 ≤ speed ∧ speed ≤ 5) && [1, 2, 4, 8, 16].contains width

/-- PCIE_LINK_UP (R340): the link returns without a reset and the channels resume. -/
def execPcieLinkUp (speed width : Nat) (s : State) : Host.Outcome State Fault Refusal :=
  .next (run (fun s => decide (s.rd F.KIOSK_STATUS.LINK_UP 0 = 0) && !s.glob.perstHeld && linkOk speed width)
    (fun s => linkTrained s speed width) s)

/-- PCIE_LINK_FAULT (R286): the link has been out of L0 for more than 1 ms. -/
def execPcieLinkFault (s : State) : Host.Outcome State Fault Refusal :=
  .next (run (fun s => s.ko.linkDownAt.isSome && !s.ko.linkFault)
    (fun s =>
      let s1 := advanceEl s (s.ko.linkDownAt.getD 0 + 1000000 * nsUnits + 1)
      lodgeErr { s1 with ko := { s1.ko with linkFault := true } } Err.LODGE.PCIE_LINK 0 0 []) s)

/-- D3HOT_ENTER (R340). -/
def execD3hotEnter (s : State) : Host.Outcome State Fault Refusal :=
  .next (run (fun s => decide (s.rd F.KIOSK_STATUS.LINK_UP 0 = 1) && decide (s.rd F.KIOSK_STATUS.D3 0 = 0))
    (fun s => s.wr F.KIOSK_STATUS.D3 0 1) s)

/-- D0_RETURN (R340): the channels resume from their paused beats. -/
def execD0Return (s : State) : Host.Outcome State Fault Refusal :=
  .next (run (fun s => decide (s.rd F.KIOSK_STATUS.LINK_UP 0 = 1) && decide (s.rd F.KIOSK_STATUS.D3 0 = 1))
    (fun s => resume (s.wr F.KIOSK_STATUS.D3 0 0)) s)

end Sys2Proof.Machine
end

