-- ==== Sys2Proof/Machine/Ethernet.lean ====
section
/-! DEFINITION. The Ethernet ports: header templates, transmit classes and rungs, timestamps and the link (chapter 15). -/
namespace Sys2Proof.Machine

/-- The hidden state of a port. -/
def getPort (s : State) (p : Nat) : EthPort := Tab.getD s.eth p {}

/-- The hidden state of a port, replaced. -/
def setPort (s : State) (p : Nat) (x : EthPort) : State := { s with eth := Tab.put s.eth p x }

/-- The link of a port is up (R318). -/
def linkUp (s : State) (p : Nat) : Bool := decide (s.rd F.ETH_STATUS.LINK_UP p = 1)

/-- Bytes of a table bank in force. -/
def tblBytes (s : State) (id off n : Nat) : List Byte := (List.range n).map fun i => s.tbByte id (s.bankOf id) 0 (off + i)

/-- The sum of the 16-bit words of a header, for the checksum of IPv4. -/
def wordSum : List Byte → Nat
  | a :: b :: t => a.toNat * 256 + b.toNat + wordSum t
  | [a] => a.toNat * 256
  | [] => 0

/-- A sum folded to 16 bits in ones' complement. -/
def fold16 (x : Nat) : Nat :=
  let y := x % 65536 + x / 65536
  y % 65536 + y / 65536

/-- The IPv4 header checksum over a header whose checksum field is 0. -/
def ipChecksum (h : List Byte) : Nat := 65535 - fold16 (wordSum h)

/-- The frame that a port builds from an ETH_HEADER entry and a UDP payload, before its FCS (R320). -/
def buildFrame (s : State) (h : Nat) (payload : List Byte) : List Byte :=
  let e := 32 * h
  let len := payload.length
  let tag := if bit (s.tbl 14 (e + 28) 1) 1 then beBytes 2 0x8100 ++ beBytes 2 (s.tbl 14 (e + 24) 2) else []
  let ip0 := beBytes 2 (0x4500 + s.tbl 14 (e + 26) 1) ++ beBytes 2 (len + 28) ++ [0, 0, 0x40, 0] ++ tblBytes s 14 (e + 27) 1 ++ [17]
  let ips := tblBytes s 14 (e + 12) 8
  let ip := ip0 ++ beBytes 2 (ipChecksum (ip0 ++ [0, 0] ++ ips)) ++ ips
  let udp := beBytes 2 (s.tbl 14 (e + 20) 2) ++ beBytes 2 (s.tbl 14 (e + 22) 2) ++ beBytes 2 (len + 8) ++ [0, 0]
  let f := tblBytes s 14 e 12 ++ tag ++ beBytes 2 0x0800 ++ ip ++ udp ++ payload
  f ++ List.replicate (60 - f.length) 0

/-- Where the EtherType of a frame lies, after at most one 802.1Q tag. -/
def typeAt (f : List Byte) : Nat := if beAt f 12 2 = 0x8100 then 16 else 12

/-- The frame is IPv4 with IHL 5, not fragmented, and carries UDP (R327, R331). -/
def isUdp (f : List Byte) : Bool :=
  let o := typeAt f
  decide (beAt f o 2 = 0x0800) && decide (beAt f (o + 2) 1 = 0x45) && decide (beAt f (o + 8) 2 % 2 ^ 14 = 0) && decide (beAt f (o + 11) 1 = 17)

/-- The UDP destination port of a frame. -/
def udpDst (f : List Byte) : Nat := beAt f (typeAt f + 24) 2

/-- Where the PTP header of a recognised event message begins (R331). PRESUMED: log entry 64. -/
def ptpAt (f : List Byte) : Option Nat :=
  let o := typeAt f
  let at_ := if beAt f o 2 = 0x88F7 then some (o + 2) else if isUdp f && decide (udpDst f = 319) then some (o + 30) else none
  match at_ with
  | some a => if a < f.length ∧ beAt f a 1 % 16 ≤ 3 then some a else none
  | none => none

/-- Bytes of a list replaced from an offset on. -/
def patch (l : List Byte) (off : Nat) (b : List Byte) : List Byte := l.take off ++ b ++ l.drop (off + b.length)

/-- The frame is a host Sync that is sent one-step (R332). PRESUMED: log entry 64. -/
def oneStepAt (s : State) (p : Nat) (f : TxFrame) : Option Nat :=
  match f.sender, ptpAt f.bytes with
  | .host, some a =>
    if beAt f.bytes a 1 % 16 = 0 ∧ bit (beAt f.bytes (a + 6) 1) 1 = false ∧ s.inForce F.ETH_CFG.ONE_STEP p = 1 then some a else none
  | _, _ => none

/-- The changes that the port makes to a one-step Sync (R332). -/
def oneStep (s : State) (f : List Byte) (a stamp : Nat) : List Byte :=
  let t := (stamp + rneDiv ((s.rd F.ETH_TS_CORR.TX_CORR 0 * 65536 : Nat) : Int) 1000).toNat
  let f1 := patch f (a + 34) (beBytes 6 (t / secUnits) ++ beBytes 4 (t / nsUnits % 1000000000))
  let f2 := patch f1 (a + 8) (beBytes 8 (beAt f1 (a + 8) 8 + t % nsUnits))
  if isUdp f then patch f2 (a - 2) [0, 0] else f2

/-- A frame begins: its stamp is taken, and a one-step Sync is changed (R330, R332). DEDUCED: log entry 65. -/
def beginFrame (s : State) (p : Nat) (f : TxFrame) : TxFrame :=
  let g := { f with stamp := s.tb, holdover := !traceable s.sdState }
  match oneStepAt s p f with
  | some a => { g with bytes := oneStep s f.bytes a s.tb }
  | none => g

/-- A port takes a root-output frame, which takes the next SEQ of its KIND then; one that is sent again keeps its own (R264, R325). DEDUCED: log
entry 74. -/
def rootSeq (s : State) (f : TxFrame) : State × TxFrame :=
  if f.sender = .root ∧ f.begun = false then
    ({ s with tr := { s.tr with seqRoot := (s.tr.seqRoot + 1) % 2 ^ 32 } }, { f with bytes := patch f.bytes (typeAt f.bytes + 30 + 44) (beBytes 4 s.tr.seqRoot) })
  else (s, f)

/-- The fields of boundary FRAME take effect: ONE_STEP, and CUR after a write of BASE (R325). DEDUCED: log entry 65. -/
def frameFields (s : State) (p : Nat) : State :=
  let s1 := { s with force := Regs.wr s.force F.ETH_CFG.ONE_STEP p (s.rd F.ETH_CFG.ONE_STEP p) }
  if (getPort s1 p).basePend then
    setPort (s1.wr F.ETH_TX_THRESH.CUR p (s1.rd F.ETH_TX_THRESH.BASE p)) p { getPort s1 p with basePend := false }
  else s1

/-- No frame is in progress on a port. DEDUCED: log entry 65. -/
def portIdle (s : State) (p : Nat) : Bool := (getPort s p).cur.isNone && (getPort s p).exp.isNone

/-- The rung of a preemptable frame (R322). -/
def rungOf (f : TxFrame) : Nat :=
  match f.sender with
  | .eye | .root | .partial_ => 3
  | .portico _ => 4
  | .host => 5

/-- The place of a sender in the fixed order Portico streams 0 to 3, Eyepiece, Trellis, host. -/
def orderOf (f : TxFrame) : Nat :=
  match f.sender with
  | .portico i => i
  | .eye => 4
  | .root | .partial_ => 5
  | .host => 6

/-- The next express frame: host frames within the allowance of R323 first, then Trellis partials. DEDUCED: log entry 62. -/
def nextExpress (x : EthPort) : Option TxFrame :=
  match x.ready.find? fun f => f.express && decide (f.sender = .host) && decide (x.expressSent < 256) with
  | some f => some f
  | none => x.ready.find? fun f => f.express && decide (f.sender ≠ .host)

/-- The next preemptable frame: of the highest rung with a frame ready, of the source whose turn it is. -/
def nextPreemptable (x : EthPort) : Option TxFrame :=
  let fs := x.ready.filter fun f => !f.express
  let rung := minOf (fs.map rungOf)
  let rs := fs.filter fun f => decide (rungOf f = rung)
  let after := (rs.map orderOf).filter fun i => match Tab.find x.last rung with | some l => decide (l < i) | none => true
  let who := if after.isEmpty then minOf (rs.map orderOf) else minOf after
  rs.find? fun f => decide (orderOf f = who)

/-- A preemptable frame in progress can be cut into two fragments of the minimum size, the first with a check of 4 bytes of its own
(R324). DEDUCED: log entry 108. -/
def canCut (s : State) (p : Nat) (f : TxFrame) : Bool := decide (2 * (64 * (1 + s.rd F.ETH_CFG.ADD_FRAG p)) ≤ f.bytes.length + 8)

/-- An express frame may begin: no preemptable frame is in progress, or preemption is active and cuts it (R324). -/
def expressMayStart (s : State) (p : Nat) : Bool :=
  match (getPort s p).cur with
  | none => true
  | some f => decide (s.rd F.ETH_STATUS.PREEMPT_ACTIVE p = 1) && canCut s p f

/-- The express frame of the port begins, preempting the frame in progress when there is one; either way a frame starts (R49). -/
def startExpress (s : State) (p : Nat) (f : TxFrame) : State :=
  let s1 := frameFields (if portIdle s p then s else bump s F.ETH_PREEMPTIONS.COUNT p 1) p
  let x := getPort s1 p
  let n := if f.sender = .host then x.expressSent + 1 else x.expressSent
  setPort s1 p { x with ready := x.ready.erase f, exp := some (beginFrame s1 p f), expressSent := n }

/-- A preemptable frame of the port begins. -/
def startPreemptable (s : State) (p : Nat) (f : TxFrame) : State :=
  let r := rootSeq (frameFields s p) f
  let s1 := r.1
  let x := getPort s1 p
  setPort s1 p { x with ready := x.ready.erase f, cur := some (beginFrame s1 p r.2), last := Tab.put x.last (rungOf f) (orderOf f) }

/-- The port chooses its next frame (R322, R324). -/
def startNext (s : State) (p : Nat) : State :=
  let x := getPort s p
  if !linkUp s p || x.exp.isSome then s
  else match nextExpress x with
    | some f => if expressMayStart s p then startExpress s p f else s
    | none => if x.cur.isSome then s else match nextPreemptable x with
      | some f => startPreemptable s p f
      | none => s

/-- The transmit descriptor of a port is handed back: OK for a frame sent or discarded (Table 16-13, R326). DEDUCED: log entry 63. -/
def txHandBack (s : State) (p status : Nat) : State :=
  match getJob s (11 + p) with
  | some j => endChannel (handBack (writeBack s (8 + p) j.idx [(16, 1, status)]) (8 + p) j.idx) (11 + p) j
  | none => s

/-- The host frame of a port was sent or discarded. DEDUCED: log entry 62. -/
def hostFrameOut (s : State) (p : Nat) : State := txHandBack s p stOK

/-- A frame that a port with its link down takes and discards (R326). -/
def discardFrame (s : State) (p : Nat) (f : TxFrame) : State :=
  let s1 := bump (rootSeq s f).1 F.ETH_TX_DISCARD.COUNT p 1
  if f.sender = .host then hostFrameOut s1 p else s1

/-- A frame is offered to a port: it becomes ready, or is discarded while the link is down (R326). -/
def offerFrame (s : State) (p : Nat) (f : TxFrame) : State :=
  if linkUp s p then startNext (setPort s p { getPort s p with ready := (getPort s p).ready ++ [f] }) p
  else discardFrame s p f

/-- A frame is of a sender and context, and its transmission has not begun: an underrun does not make it one that has not (R325). -/
def notBegun (w : Sender) (ctx : Nat) (f : TxFrame) : Bool := decide (f.sender = w) && decide (f.ctx = ctx) && !f.begun

/-- A frame of a sender and context waits at a port, whichever it is, and has not begun. -/
def waitingFrame (s : State) (w : Sender) (ctx : Nat) : Bool := (List.range 4).any fun p => (getPort s p).ready.any (notBegun w ctx)

/-- That frame dropped whole (R254, R270). -/
def dropWaiting (s : State) (w : Sender) (ctx : Nat) : State :=
  (List.range 4).foldl (fun s p =>
    if (getPort s p).ready.any (notBegun w ctx) then
      setPort s p { getPort s p with ready := (getPort s p).ready.filter fun f => !notBegun w ctx f }
    else s) s

/-- A frame of a sender is at a port, ready or being sent. -/
def frameAt (s : State) (p : Nat) (w : Sender) : Bool :=
  ((getPort s p).ready ++ (getPort s p).cur.toList ++ (getPort s p).exp.toList).any fun f => decide (f.sender = w)

/-- The transmit stamp of a two-step event message enters the timestamp queue, or is lost (R333, R334). PRESUMED: log entry 64. -/
def stampFrame (s : State) (p : Nat) (f : TxFrame) : State :=
  match f.sender, ptpAt f.bytes with
  | .host, some a =>
    if (oneStepAt s p f).isSome then s
    else if (getPort s p).tsq.length < 64 then
      let e : TsEntry := { stamp := f.stamp, msgType := beAt f.bytes a 1 % 16, domain := beAt f.bytes (a + 4) 1,
                           seqId := beAt f.bytes (a + 30) 2, holdover := f.holdover }
      let s1 := setPort s p { getPort s p with tsq := (getPort s p).tsq ++ [e] }
      if (getPort s p).tsq.isEmpty then signal s1 ((ringVector s1 (8 + p)).getD 0) else s1
    else setErr (bump s F.ETH_TS_DROP.COUNT p 1) (Err.ETH.unit p) Err.ETH.TS_DROP 0
  | _, _ => s

/-- A frame has left the port with a good FCS (R322, R337), or, for an uncorrectable word of the port buffer, with an inverted one
(R285). DEDUCED: log entry 63. -/
def frameOut (s : State) (p : Nat) (f : TxFrame) (sramBad : Bool) : State :=
  let s1 := s.emit (.frame p f.bytes (!sramBad))
  let s2 := if sramBad then sramFault s1 7 else
    let n := f.bytes.length + 4
    let t := bump (bump s1 F.ETH_TX_FRAMES.COUNT p 1) F.ETH_TX_BYTES.COUNT p n
    stampFrame (if f.express then bump t F.ETH_TX_EXPRESS.COUNT p 1 else t) p f
  if f.sender = .host then hostFrameOut s2 p else s2

/-- Preemption as the configuration and the link leave it (R324): off, at once with VERIFY_DIS, or verifying. -/
def preemptEval (s : State) (p : Nat) : State :=
  if !linkUp s p || decide (s.rd F.ETH_CFG.PREEMPT_EN p = 0) then (s.wr F.ETH_STATUS.VERIFY p 0).wr F.ETH_STATUS.PREEMPT_ACTIVE p 0
  else if s.rd F.ETH_CFG.VERIFY_DIS p = 1 then (s.wr F.ETH_STATUS.VERIFY p 0).wr F.ETH_STATUS.PREEMPT_ACTIVE p 1
  else if s.rd F.ETH_STATUS.VERIFY p = 2 then s
  else (s.wr F.ETH_STATUS.VERIFY p 1).wr F.ETH_STATUS.PREEMPT_ACTIVE p 0

/-- A frame at a port whose link goes down: a frame of a Portico stream with ROUTE = 1 waits, any other is discarded (R326).
DEDUCED: log entry 66. -/
def loseFrame (s : State) (p : Nat) (f : TxFrame) : State :=
  if f.waits then setPort s p { getPort s p with ready := (getPort s p).ready ++ [f] } else discardFrame s p f

/-- The link of a port goes down (R318, R326). -/
def linkLost (s : State) (p : Nat) : State :=
  let x := getPort s p
  let s1 := preemptEval (s.wr F.ETH_STATUS.LINK_UP p 0) p
  let s2 := raise (setErr (bump s1 F.ETH_LINK_DOWN_CNT.COUNT p 1) (Err.ETH.unit p) Err.ETH.LINK_DOWN 0) 22 [p]
  let s3 := setPort s2 p { x with ready := [], cur := none, exp := none }
  (x.exp.toList ++ x.cur.toList ++ x.ready).foldl (fun s f => loseFrame s p f) s3

/-- A read of ETH_TSQ_NS: the oldest entry is removed and its other fields are latched; an empty queue gives VALID = 0 (R333). -/
def tsqRead (s : State) (p : Nat) : Nat × State :=
  match (getPort s p).tsq with
  | [] => (0, s)
  | e :: t =>
    let s1 := setPort s p { getPort s p with tsq := t }
    let s2 := (s1.wr F.ETH_TSQ_INFO.HOLDOVER p (b2n e.holdover)).wr F.ETH_TSQ_INFO.MSG_TYPE p e.msgType
    let s3 := (s2.wr F.ETH_TSQ_INFO.DOMAIN p e.domain).wr F.ETH_TSQ_INFO.SEQ_ID p e.seqId
    (2 ^ 31 + e.stamp / nsUnits % 1000000000,
      (s3.wr F.ETH_TSQ_FRAC.FRAC p (e.stamp % nsUnits)).wr F.ETH_TSQ_SEC.SEC p (e.stamp / secUnits))

/-- A frame in progress is the host's. -/
def hostOwned (f : Option TxFrame) : Bool :=
  match f with
  | some g => decide (g.sender = .host)
  | none => false

/-- A port at a data-plane reset (R335): the frame in progress ends with an inverted FCS, and the buffer, the timestamp queue
and CUR are reset. -/
def resetPort (s : State) (p : Nat) : State :=
  let x := getPort s p
  let s0 := if portIdle s p then s else s.emit (.frameCut p)
  let s1 := if hostOwned x.cur || hostOwned x.exp then txHandBack s0 p stSTOPPED else s0
  setPort (s1.wr F.ETH_TX_THRESH.CUR p (s1.rd F.ETH_TX_THRESH.BASE p)) p
    { expressSent := x.expressSent, ready := x.ready.filter fun f => decide (f.sender = .host) }

/-- The host frames of a port at a function-level or warm reset (R335): one that has begun ends with an inverted FCS. The receive buffer
stays, and a frame being delivered starts again. -/
def dropHostFrames (s : State) (p : Nat) : State :=
  let x := getPort s p
  let host := hostOwned
  let s1 := if host x.cur || host x.exp then s.emit (.frameCut p) else s
  startNext (setPort s1 p { x with cur := if host x.cur then none else x.cur, exp := if host x.exp then none else x.exp,
                                   ready := x.ready.filter fun f => decide (f.sender ≠ .host),
                                   rx := x.rx.map fun f => { f with filled := 0 } }) p

end Sys2Proof.Machine
end

