-- ==== Sys2Proof/Machine/Fp.lean ====
section
/-! DEFINITION. IEEE 754 binary formats, over exact integers: every result is the exact real result rounded once to the nearest,
ties to even (R205). -/
namespace Sys2Proof.Machine

/-- A binary format: exponent and mantissa bits. -/
structure Fmt where
  eb : Nat
  mb : Nat
  deriving DecidableEq, Repr

abbrev fp16 : Fmt := { eb := 5, mb := 10 }
abbrev bf16 : Fmt := { eb := 8, mb := 7 }
abbrev fp32 : Fmt := { eb := 8, mb := 23 }
abbrev fp64 : Fmt := { eb := 11, mb := 52 }

/-- A value of a format: a NaN, an infinity, or (-1)^neg · m · 2^e. -/
inductive Fp where
  | nan
  | inf (neg : Bool)
  | fin (neg : Bool) (m : Nat) (e : Int)
  deriving DecidableEq, Repr

/-- 1 - bias, the exponent of the least normal number. -/
def Fmt.emin (f : Fmt) : Int := 2 - 2 ^ (f.eb - 1)

/-- The code of an infinity. -/
def Fmt.infCode (f : Fmt) (neg : Bool) : Nat := b2n neg * 2 ^ (f.eb + f.mb) + (2 ^ f.eb - 1) * 2 ^ f.mb

/-- The code of the quiet NaN that operations deliver: its sign and payload are open. -/
def Fmt.nanCode (f : Fmt) : Nat :=
  Config.nanPayload f.mb / 2 ^ (f.mb - 1) % 2 * 2 ^ (f.eb + f.mb) + (2 ^ f.eb - 1) * 2 ^ f.mb + 2 ^ (f.mb - 1) +
    Config.nanPayload f.mb % 2 ^ (f.mb - 1)

/-- The value of a code. -/
def Fmt.decode (f : Fmt) (v : Nat) : Fp :=
  let neg := bit v (f.eb + f.mb)
  let ex := bits v f.mb f.eb
  let m := bits v 0 f.mb
  if ex = 2 ^ f.eb - 1 then (if m = 0 then .inf neg else .nan)
  else if ex = 0 then .fin neg m (f.emin - f.mb)
  else .fin neg (2 ^ f.mb + m) (f.emin - f.mb + ex - 1)

/-- x · 2^k as a numerator over a denominator. -/
def scaleQ (p q : Nat) (k : Int) : Nat × Nat := if 0 ≤ k then (p * 2 ^ k.toNat, q) else (p, q * 2 ^ (-k).toNat)

/-- floor(log2(p / q)) for positive p and q. -/
def floorLog2 (p q : Nat) : Int :=
  let l : Int := (Nat.log2 p : Int) - (Nat.log2 q : Int)
  let x := scaleQ p q (-l)
  if x.2 ≤ x.1 then l else l - 1

/-- The code of p / q · 2^e rounded to the nearest, ties to even, with subnormals, and an infinity beyond the range. -/
def Fmt.encode (f : Fmt) (neg : Bool) (p q : Nat) (e : Int) : Nat :=
  let sign := b2n neg * 2 ^ (f.eb + f.mb)
  if p = 0 then sign else
    let ex := max (floorLog2 p q + e) f.emin
    let x := scaleQ p q (e - (ex - f.mb))
    let code := (ex - f.emin).toNat * 2 ^ f.mb + (rneDiv x.1 x.2).toNat
    if (2 ^ f.eb - 1) * 2 ^ f.mb ≤ code then f.infCode neg else sign + code

/-- The code of a value rounded to a format. -/
def Fmt.round (f : Fmt) : Fp → Nat
  | .nan => f.nanCode
  | .inf neg => f.infCode neg
  | .fin neg m e => f.encode neg m 1 e

/-- The exact product. -/
def Fp.mul : Fp → Fp → Fp
  | .nan, _ => .nan
  | _, .nan => .nan
  | .inf a, .inf b => .inf (a != b)
  | .inf a, .fin b m _ => if m = 0 then .nan else .inf (a != b)
  | .fin a m _, .inf b => if m = 0 then .nan else .inf (a != b)
  | .fin a m e, .fin b n g => .fin (a != b) (m * n) (e + g)

/-- The exact sum; a sum that is exactly 0 is -0 only when both are -0. -/
def Fp.add : Fp → Fp → Fp
  | .nan, _ => .nan
  | _, .nan => .nan
  | .inf a, .inf b => if a = b then .inf a else .nan
  | .inf a, .fin _ _ _ => .inf a
  | .fin _ _ _, .inf b => .inf b
  | .fin a m e, .fin b n g =>
    let lo := min e g
    let x : Int := (m * 2 ^ (e - lo).toNat : Nat)
    let y : Int := (n * 2 ^ (g - lo).toNat : Nat)
    let z := (if a then -x else x) + (if b then -y else y)
    if z = 0 then .fin (a && b) 0 lo else .fin (decide (z < 0)) z.natAbs lo

/-- floor(sqrt x), from the highest bit down. -/
def isqrtFrom (x : Nat) : Nat → Nat → Nat
  | 0, r => r
  | n + 1, r => isqrtFrom x n (if (r + 2 ^ n) * (r + 2 ^ n) ≤ x then r + 2 ^ n else r)

/-- floor(sqrt x). -/
def isqrt (x : Nat) : Nat := isqrtFrom x (Nat.log2 x / 2 + 1) 0

/-- The square root of a value that is not negative, with a last bit that says whether it is inexact: enough bits for a rounding
to binary32. -/
def Fp.sqrt : Fp → Fp
  | .nan => .nan
  | .inf neg => if neg then .nan else .inf false
  | .fin neg m e =>
    if m = 0 then .fin neg 0 e else if neg then .nan else
      let odd := e % 2
      let x := m * 2 ^ (64 + odd.toNat)
      let r := isqrt x
      .fin false (2 * r + (if r * r = x then 0 else 1)) ((e - odd) / 2 - 33)

/-- A binary32 product. -/
def mul32 (a b : Nat) : Nat := fp32.round ((fp32.decode a).mul (fp32.decode b))

/-- A binary32 multiply and add, rounded once. -/
def fma32 (a b c : Nat) : Nat := fp32.round (((fp32.decode a).mul (fp32.decode b)).add (fp32.decode c))

/-- sqrt(re^2 + im^2) of binary32 components, rounded once. -/
def abs32 (re im : Nat) : Nat :=
  let x := fp32.decode re
  let y := fp32.decode im
  fp32.round ((x.mul x).add (y.mul y)).sqrt

/-- x / n for an integer x and positive n, as binary32. -/
def quot32 (x : Int) (n : Nat) : Nat := fp32.encode (decide (x < 0)) x.natAbs n 0

/-- A binary32 code in another format; a NaN stays a quiet NaN (Table 9-1). -/
def toFmt (f : Fmt) (v : Nat) : Nat := f.round (fp32.decode v)

/-- sat_sym of a binary32 value times 2^k to w bits, to the nearest with ties to even; an infinity saturates and a NaN gives 0
(Table 9-1). -/
def toInt (w : Nat) (k : Int) (v : Nat) : Int :=
  match fp32.decode v with
  | .nan => 0
  | .inf neg => if neg then -(2 ^ (w - 1) - 1) else 2 ^ (w - 1) - 1
  | .fin neg m e =>
    let x := scaleQ m 1 (e + k)
    satSym (rneDiv (if neg then -(x.1 : Int) else x.1) x.2) w

/-- floor of a binary32 value that is not negative, at most `top`. -/
def floorTo (top : Nat) (v : Nat) : Nat :=
  match fp32.decode v with
  | .nan => 0
  | .inf neg => if neg then 0 else top
  | .fin neg m e => if neg then 0 else min top ((scaleQ m 1 e).1 / (scaleQ m 1 e).2)

end Sys2Proof.Machine
end

