-- ==== Sys2Proof/Machine/Portico.lean ====
section
/-! DEFINITION. The Portico: the dump of a closed bank, its value path, its streams and their routes (chapter 9). -/
namespace Sys2Proof.Machine

/-- A field of the epoch that the dump's bank is tagged with (R202). -/
def State.tag (s : State) (f : Fld) (k : Nat) : Nat := Regs.rd (getBank s s.po.bank).epochRegs f k

/-- A quantity of a table bank of that epoch (R202). -/
def tagTbl (s : State) (id off n : Nat) : Nat := s.tbNat id (b2n (bit (s.tag F.GLOBAL_BANK_SEL.BANK_SEL 0) id)) 0 off n

/-- M, C and F of the dump. -/
def dumpM (s : State) : Nat := (getBank s s.po.bank).epochM
def dumpC (s : State) : Nat := s.tag F.PR_CHAN.C 0
def dumpF (s : State) : Nat := dumpC s * dumpM s

/-- The hidden state of a stream dump. -/
def getStream (s : State) (i : Nat) : StreamSt := Tab.getD s.po.streams i {}

/-- The hidden state of a stream dump, replaced. -/
def setStream (s : State) (i : Nat) (x : StreamSt) : State := { s with po := { s.po with streams := Tab.put s.po.streams i x } }

/-- The exported range of a stream after clipping: first fine channel and count (R204). -/
def rangeOf (s : State) (i : Nat) : Nat × Nat :=
  let lo := s.tag F.PO_STREAM_RANGE.F_LO i
  (lo, min (s.tag F.PO_STREAM_RANGE.F_COUNT i) (dumpF s - lo))

/-- TYPE of a stream. -/
def typeOf (s : State) (i : Nat) : Nat := s.tag F.PO_STREAM_CTL.TYPE i

/-- e: bytes of an exported value (Table 9-1). -/
def eBytes (s : State) (i : Nat) : Nat := if typeOf s i = 0 then s.wBytes else if typeOf s i = 1 then 8 else 4

/-- The tally section is present (R210). -/
def hasTally (s : State) (i : Nat) : Bool := decide (s.tag F.PO_STREAM_CTL.TALLY i = 1) || decide (typeOf s i = 0)

/-- The coarse channels of the tally section: the first and how many. -/
def coarseOf (s : State) (i : Nat) : Nat × Nat :=
  let r := rangeOf s i
  let lo := r.1 / dumpM s
  (lo, if r.2 = 0 then 0 else (r.1 + r.2 - 1) / dumpM s + 1 - lo)

/-- The sizes of sections 2, 3 and 4 (R210). -/
def valueBytes (s : State) (i : Nat) : Nat := (rangeOf s i).2 * s.Nb * eBytes s i
def tallyBytes (s : State) (i : Nat) : Nat := if hasTally s i then (coarseOf s i).2 * s.Nb * 4 else 0
def rowBytes (s : State) (i : Nat) : Nat := if s.tag F.PO_STREAM_CTL.ROWSUM i = 1 then (rangeOf s i).2 * s.N * 8 else 0

/-- The inputs of a baseline: b = j (j + 1) / 2 + i. -/
def baselineJ (b : Nat) : Nat := (isqrt (8 * b + 1) - 1) / 2
def baselineI (b : Nat) : Nat := b - baselineJ b * (baselineJ b + 1) / 2

/-- The accumulated value and tally count that an export uses, a poisoned one as R211 states. -/
def exportValue (s : State) (st : StreamSt) (f b : Nat) : Cx :=
  let neg := -(topOf s.cwBits + 2)
  if st.bad.contains (f * s.Nb + b) then (neg, neg) else readValue s (bankBase s s.po.bank) f b
def exportTally (s : State) (st : StreamSt) (c b : Nat) : Nat :=
  if st.badTally.contains (c * s.Nb + b) then 0xFFFFFFFF else s.hbmNat (tallyBase s s.po.bank + (c * s.Nb + b) * 4) 4

/-- The conditions of a value that a mask can name: bit 0 ovf, 1 empty, 2 tsat, 3 auto (R205, R207). -/
def valueCond (s : State) (v : Cx) (n b : Nat) : Nat :=
  b2n (isSatCode s.cwBits v.1 || isSatCode s.cwBits v.2) + 2 * b2n (decide (n = 0)) + 4 * b2n (decide (n = 0xFFFFFFFF)) +
    8 * b2n (decide (baselineI b = baselineJ b))

/-- A value is masked (R205). -/
def isMasked (s : State) (i : Nat) (st : StreamSt) (f b : Nat) : Bool :=
  decide (valueCond s (exportValue s st f b) (exportTally s st (f / dumpM s) b) b &&& s.tag F.PO_STREAM_CTL.ZMASK i ≠ 0)

/-- One normalised component as binary32 (R205). -/
def normalise (s : State) (x : Int) (n : Nat) : Nat :=
  if x = topOf s.cwBits + 1 then fp32.infCode false
  else if x = -(topOf s.cwBits + 2) then fp32.infCode true
  else if n = 0 then fp32.nanCode else quot32 x n

/-- y of `portico.value` before the preview curve, as binary32 components (R205). -/
def scaled (s : State) (st : StreamSt) (f b : Nat) : Nat × Nat :=
  let v := exportValue s st f b
  let n := exportTally s st (f / dumpM s) b
  let scale := tagTbl s 12 (8 * f) 4
  let bias := if baselineI b = baselineJ b then tagTbl s 12 (8 * f + 4) 4 else 0
  (fma32 (normalise s v.1 n) scale bias, mul32 (normalise s v.2 n) scale)

/-- The preview curve applied (R205, R208). -/
def preview (s : State) (y : Nat × Nat) : Nat × Nat :=
  let x := mul32 (abs32 y.1 y.2) (s.tag F.PO_CURVE_SCALE.CSCALE 0)
  let g := tagTbl s 13 (4 * floorTo 1023 x) 4
  (mul32 y.1 g, mul32 y.2 g)

/-- One exported component (Table 9-1). -/
def convert (s : State) (i v : Nat) : List Byte :=
  if typeOf s i = 1 then leBytes 4 v
  else if typeOf s i = 2 then leBytes 2 (toFmt fp16 v)
  else if typeOf s i = 3 then leBytes 2 (toFmt bf16 v)
  else leBytes 2 (unsigned 16 (toInt 16 (signed 8 (s.tag F.PO_STREAM_CTL.I16_EXP i)) v))

/-- The bytes of an exported value (R205, R206). -/
def valueOut (s : State) (i : Nat) (st : StreamSt) (f b : Nat) : List Byte :=
  if isMasked s i st f b then List.replicate (eBytes s i) 0
  else if typeOf s i = 0 then
    let v := exportValue s st f b
    leBytes (s.wBytes / 2) (unsigned s.cwBits v.1) ++ leBytes (s.wBytes / 2) (unsigned s.cwBits v.2)
  else
    let y := scaled s st f b
    let z := if s.tag F.PO_STREAM_CTL.PREVIEW i = 1 then preview s y else y
    convert s i z.1 ++ convert s i z.2

/-- |y| of a baseline as a row summary takes it (R209). -/
def amplitude (s : State) (i : Nat) (st : StreamSt) (f b : Nat) : Nat :=
  if isMasked s i st f b then 0 else abs32 (scaled s st f b).1 (scaled s st f b).2

/-- The baselines that contain row r, ascending (R209). -/
def rowBaselines (s : State) (r : Nat) : List Nat :=
  (List.range (r + 1)).map (fun i => r * (r + 1) / 2 + i) ++
    (List.range (s.N - r - 1)).map fun d => (r + 1 + d) * (r + 2 + d) / 2 + r

/-- MAX_r and SUM_r (R209). -/
def rowSummary (s : State) (i : Nat) (st : StreamSt) (f r : Nat) : Nat × Nat :=
  let amps := ((rowBaselines s r).map (amplitude s i st f)).filter fun a => !isNaN32 a
  let sum := amps.foldl (fun acc a => fp64.round ((fp64.decode acc).add (fp32.decode a))) 0
  (maxOf amps, fp32.round (fp64.decode sum))

/-- A byte of a stream dump after its header (R210). -/
def bodyByte (s : State) (i : Nat) (st : StreamSt) (pos : Nat) : Byte :=
  let r := rangeOf s i
  if pos < valueBytes s i then
    let v := pos / eBytes s i
    (valueOut s i st (r.1 + v / s.Nb) (v % s.Nb)).getD (pos % eBytes s i) 0
  else if pos < valueBytes s i + tallyBytes s i then
    let q := pos - valueBytes s i
    (leBytes 4 (exportTally s st ((coarseOf s i).1 + q / 4 / s.Nb) (q / 4 % s.Nb))).getD (q % 4) 0
  else
    let q := pos - valueBytes s i - tallyBytes s i
    let x := rowSummary s i st (r.1 + q / 8 / s.N) (q / 8 % s.N)
    (leBytes 4 x.1 ++ leBytes 4 x.2).getD (q % 8) 0

/-- Bytes of a stream dump. -/
def dumpBytes (s : State) (i : Nat) (st : StreamSt) (off len : Nat) : List Byte :=
  (List.range len).map fun k => if off + k < 128 then st.header.getD (off + k) 0 else bodyByte s i st (off + k - 128)

/-- CONTENT of the header. -/
def contentOf (s : State) (i : Nat) : Nat :=
  b2n (hasTally s i) + 2 * s.tag F.PO_STREAM_CTL.ROWSUM i + 4 * s.tag F.PO_STREAM_CTL.PREVIEW i + 8 * b2n s.wide

/-- The dump header (Table 9-2). -/
def dumpHeader (s : State) (i : Nat) : List Byte :=
  let x := s.po.bank
  let b := getBank s x
  let flags := s.rd F.ACC_BANK_FLAGS.FLAGS x
  let susp := if flags &&& flAUDIT_SUSPECT = 0 then 2 ^ 64 - 1 else b.suspect.getD (2 ^ 64 - 1)
  let t := b.startTb
  let h := record 128 [(0, 4, 0x44505856), (4, 1, 1), (5, 1, flags), (6, 1, i), (7, 1, typeOf s i), (8, 2, contentOf s i), (10, 2, s.N),
    (12, 2, dumpC s), (14, 2, dumpM s), (16, 2, tOf (s.tag F.GLOBAL_DP_CFG.T_CODE 0)), (18, 2, (rangeOf s i).1), (20, 2, (rangeOf s i).2),
    (22, 1, if typeOf s i = 4 then s.tag F.PO_STREAM_CTL.I16_EXP i else 0), (24, 4, b.num), (28, 4, s.rd F.ACC_BANK_EPOCH.EPOCH x),
    (32, 8, s.rd F.ACC_BANK_START.FSI x), (40, 8, s.rd F.ACC_BANK_END.FSI x), (48, 4, s.rd F.ACC_BANK_CYCLES.COUNT x),
    (52, 4, s.rd F.ACC_BANK_OVF.COUNT x), (56, 4, b.rateSrcs), (60, 4, s.rd F.ACC_BANK_FLAGS.STRETCH x),
    (64, 8, unsigned 64 (t / secUnits)), (72, 4, (t % secUnits / nsUnits).toNat), (80, 8, susp),
    (88, 8, valueBytes s i), (96, 8, tallyBytes s i), (104, 8, rowBytes s i), (112, 8, s.tag F.PO_DEVICE_TAG.TAG 0)]
  h.take 124 ++ leBytes 4 (crc32 (h.take 124))

/-- A stream of the dump begins: its header is fixed, and a clipped range is reported (R204, R211). -/
def beginStream (s : State) (i : Nat) : State :=
  if s.tag F.PO_STREAM_CTL.EN i = 1 then
    let size := 128 + valueBytes s i + tallyBytes s i + rowBytes s i
    let s1 := (setStream s i { header := dumpHeader s i, size := size }).wr F.PO_STREAM_STATUS.BUSY i 1
    if (rangeOf s i).2 < s.tag F.PO_STREAM_RANGE.F_COUNT i then setErr s1 Err.PO.unit Err.PO.RANGE_CLIPPED i else s1
  else s

/-- The dump is complete on every stream: the bank is FREE, with the DUMP_DONE event (Table 8-2, R216). -/
def endDump (s : State) : State :=
  let num := (getBank s s.po.bank).num
  let s1 := { setBankState s s.po.bank bkFREE with po := { s.po with streams := [] } }
  checkStopped (raise (bump s1 F.PO_DUMPS.COUNT 0 1) 4 [num])

/-- The dump ends when every stream dump is complete. -/
def settleDump (s : State) : State := if s.po.streams.all fun e => e.2.fin then endDump s else s

/-- Bank x is the closed bank to drain next: its adds have retired, and no other closed before it. -/
def drainable (s : State) (x : Nat) : Bool :=
  decide (bankState s x = bkCLOSED) && decide ((getBank s x).outstanding = 0) && decide (bankState s (1 - x) ≠ bkDRAINING) &&
    (decide (bankState s (1 - x) ≠ bkCLOSED) || decide (idxDiff (getBank s (1 - x)).num (getBank s x).num < 2 ^ 31))

/-- CLOSED to DRAINING (R193, R211). -/
def startDump (s : State) (x : Nat) : State :=
  let s1 := setBankState { s with po := { s.po with bank := x, streams := [], again := false } } x bkDRAINING
  settleDump ((List.range 4).foldl beginStream s1)

/-- BANK_DRAIN_START (R193). -/
def execBankDrainStart (s : State) : Host.Outcome State Fault Refusal :=
  .next (run (fun s => drainable s 0 || drainable s 1) (fun s => startDump s (if drainable s 0 then 0 else 1)) s)

/-- The ports of a stream: PORT, and MIRROR_PORT on a mirrored one, each with its header entry (R213). -/
def streamPorts (s : State) (i : Nat) : List (Nat × Nat) :=
  let h := s.tag F.PO_STREAM_ETH.HDR_IDX i
  if s.tag F.PO_STREAM_CTL.ROUTE i = 1 then [(s.tag F.PO_STREAM_ETH.PORT i, h)]
  else if s.tag F.PO_STREAM_CTL.ROUTE i = 2 then [(s.tag F.PO_STREAM_ETH.PORT i, h), (s.tag F.PO_STREAM_ETH.MIRROR_PORT i, h + 1)]
  else []

/-- A port can take the current frame of a stream: it holds none of the stream, and its link is up or the stream is mirrored
(R214, R279, R326). -/
def canTake (s : State) (i p : Nat) : Bool :=
  !hung s 5 && !frameAt s p (.portico i) && (linkUp s p || decide (s.tag F.PO_STREAM_CTL.ROUTE i = 2))

/-- The ports that can take the current frame of a stream and have not. -/
def takers (s : State) (i : Nat) : List (Nat × Nat) :=
  (streamPorts s i).filter fun e => !(getStream s i).taken.contains e.1 && canTake s i e.1

/-- A stream dump in progress has bytes left. -/
def streamLeft (s : State) (i : Nat) : Bool :=
  decide (i ∈ s.po.streams.map Prod.fst) && !(getStream s i).fin && decide ((getStream s i).off < (getStream s i).size)

/-- PO_STREAM_STATUS[i].WAITING: the stream waits for its route. -/
def streamWaiting (s : State) (i : Nat) : Bool :=
  streamLeft s i && (if s.tag F.PO_STREAM_CTL.ROUTE i = 0 then (getJob s (3 + i)).isNone else (takers s i).isEmpty)

/-- What lies in bytes [off, off + len) of a stream dump as values: the indices of the values whose first byte lies there. -/
def valuesIn (s : State) (i off len : Nat) : List Nat :=
  let lo := ((off - 128) + eBytes s i - 1) / eBytes s i
  let hi := min ((rangeOf s i).2 * s.Nb) (((off + len - 128) + eBytes s i - 1) / eBytes s i)
  (List.range (hi - lo)).map (· + lo)

/-- Uncorrectable reads met in bytes [off, off + len) of a stream dump: values and tally counts not met before (R211).
DEDUCED: log entry 67. -/
def notePoison (s : State) (i off len : Nat) (bad badTally : List Nat) : State :=
  let st := getStream s i
  let lo := (rangeOf s i).1 * s.Nb
  let all := if s.sound then bad else
    bad ++ ((valuesIn s i off len).map (· + lo)).filter fun k => poisonedAt s (bankBase s s.po.bank + k * s.wBytes) s.wBytes
  let allT := if s.sound then badTally else
    badTally ++ ((List.range ((coarseOf s i).2 * s.Nb)).map (· + (coarseOf s i).1 * s.Nb)).filter fun k => poisonedAt s (tallyBase s s.po.bank + 4 * k) 4
  let vs := (all.dedup).filter fun k => !st.bad.contains k && decide (lo ≤ k) && (valuesIn s i off len).contains (k - lo)
  let ts := (allT.dedup).filter fun k => !st.badTally.contains k && decide ((coarseOf s i).1 * s.Nb ≤ k) &&
    decide (k < ((coarseOf s i).1 + (coarseOf s i).2) * s.Nb)
  if vs.isEmpty && ts.isEmpty then s else
    let s1 := setStream s i { st with bad := st.bad ++ vs, badTally := st.badTally ++ ts }
    let s2 := setErr (bump s1 F.PO_POISON.COUNT 0 (vs.length + ts.length)) Err.PO.unit Err.PO.UNCORR i
    lodgeErr s2 Err.LODGE.DRAM_UNCORR 0 0 []

/-- The values of bytes [off, off + len) that a mask zeroes are counted (R207). -/
def noteZeroed (s : State) (i off len : Nat) : State :=
  let st := getStream s i
  let z := (valuesIn s i off len).filter fun v => isMasked s i st ((rangeOf s i).1 + v / s.Nb) (v % s.Nb)
  bump s F.PO_ZEROED.COUNT 0 z.length

/-- The length of the current frame of a stream (R213). -/
def frameLen (s : State) (i : Nat) : Nat := min (s.tag F.PO_STREAM_ETH.PAYLOAD64 i * 64) ((getStream s i).size - (getStream s i).off)

/-- The Portico frame header and payload (Table 9-3). -/
def porticoPayload (s : State) (i : Nat) : List Byte :=
  let st := getStream s i
  let len := frameLen s i
  let flags := b2n (decide (st.off = 0)) + 2 * b2n (decide (st.off + len = st.size))
  beBytes 2 0x5046 ++ beBytes 1 1 ++ beBytes 1 flags ++ beBytes 4 (Tab.getD s.po.seq i 0) ++ beBytes 4 (getBank s s.po.bank).num ++
    beBytes 8 st.off ++ beBytes 1 i ++ [0, 0, 0] ++ beBytes 8 (s.tag F.PO_DEVICE_TAG.TAG 0) ++ dumpBytes s i st st.off len

/-- The current frame of a stream goes to a port. -/
def giveFrame (i : Nat) (payload : List Byte) (s : State) (e : Nat × Nat) : State :=
  let f : TxFrame := { sender := .portico i, bytes := buildFrame s e.2 payload, waits := decide (s.tag F.PO_STREAM_CTL.ROUTE i = 1) }
  let s1 := setStream s i { getStream s i with taken := e.1 :: (getStream s i).taken }
  offerFrame s1 e.1 f

/-- Every port has taken the current frame: the stream moves to the next (R213, R214). -/
def nextFrame (s : State) (i : Nat) : State :=
  let st := getStream s i
  if (streamPorts s i).all fun e => st.taken.contains e.1 then
    let len := frameLen s i
    let s1 := setStream s i { st with off := st.off + len, taken := [] }
    let s2 := { s1 with po := { s1.po with seq := Tab.put s1.po.seq i ((Tab.getD s1.po.seq i 0 + 1) % 2 ^ 32) } }
    bump (bump s2 F.PO_STREAM_FRAMES.COUNT i 1) F.PO_STREAM_BYTES.COUNT i len
  else s

/-- PORTICO_FRAME_SEND (R213, R214): the ports that can take the current frame take it. -/
def execPorticoFrameSend (i : Fin 4) (bad badTally : List Nat) (s : State) : Host.Outcome State Fault Refusal :=
  .next (run (fun s => streamLeft s i && !(takers s i).isEmpty)
    (fun s =>
      let st := getStream s i
      let s1 := if st.taken.isEmpty then noteZeroed (notePoison s i st.off (frameLen s i) bad badTally) i st.off (frameLen s i) else s
      nextFrame ((takers s1 i).foldl (giveFrame i (porticoPayload s1 i)) s1) i) s)

/-- A stream dump has been delivered on its route (R203). -/
def streamDelivered (s : State) (i : Nat) : Bool :=
  decide (i ∈ s.po.streams.map Prod.fst) && !(getStream s i).fin && decide ((getStream s i).off = (getStream s i).size) &&
    (getJob s (3 + i)).isNone && (streamPorts s i).all fun e => !frameAt s e.1 (.portico i)

/-- STREAM_DUMP_COMPLETE (R203, R211). -/
def execStreamDumpComplete (i : Fin 4) (s : State) : Host.Outcome State Fault Refusal :=
  .next (run (fun s => streamDelivered s i)
    (fun s =>
      let st := getStream s i
      let s1 := (setStream s i { st with fin := true }).wr F.PO_STREAM_STATUS.BUSY i 0
      let s2 := if st.bad.isEmpty && st.badTally.isEmpty then s1
        else dumpAmend s1 (getBank s s.po.bank).num flOVERFLOW_PRESENT st.bad.length i
      settleDump s2) s)

/-- The dump ring is enabled after a function-level or warm reset: every host stream of an incomplete dump starts again from its
first byte (R203). -/
def reexport (s : State) : State :=
  if s.po.again then
    (s.po.streams.filter fun e => decide (s.tag F.PO_STREAM_CTL.ROUTE e.1 = 0)).foldl (fun s e =>
        let s1 := (setStream s e.1 { header := e.2.header, size := e.2.size }).wr F.PO_STREAM_STATUS.BUSY e.1 1
        bump s1 F.PO_REEXPORTS.COUNT 0 1)
      { s with po := { s.po with again := false } }
  else s

end Sys2Proof.Machine
end

