-- ==== Sys2Proof/Machine/TableMem.lean ====
section
/-! DEFINITION. The tables as memories: sizes, reserved encodings, whole-table rules, and how a LOAD or READ command moves beats to and
from tables and regions (R21, R107, R305, R348 to R351, R360). -/
namespace Sys2Proof.Machine

/-- Entries per bank and bytes per entry of each table (Table 16-5). -/
def tableSizes : List (Nat × Nat) :=
  [(256, 8), (4096, 2), (131072, 2), (4096, 16), (64, 4), (8256, 4), (4096, 16), (16384, 64), (65536, 4), (64, 512), (24576, 8), (4160, 4), (8192, 8),
   (1024, 4), (256, 32), (16, 32)]

def tableEntries (id : Nat) : Nat := (tableSizes.getD id (0, 0)).1
def tableBytes (id : Nat) : Nat := (tableSizes.getD id (0, 0)).2

/-- A table of the Lens. -/
def isLensTable (id : Nat) : Bool := decide (6 ≤ id ∧ id ≤ 9)

/-- The Lens groups that are ON, ascending. -/
def lensOn (s : State) : List Nat := (List.range 4).filter fun g => domOn s (18 + g)

/-- The table's domain is OFF (Table 16-5, R349). -/
def tableOff (s : State) (id : Nat) : Bool :=
  if 1 ≤ id ∧ id ≤ 4 then !domOn s 17 else if isLensTable id then (lensOn s).isEmpty else if id = 10 ∨ id = 11 then !domOn s 22 else false

/-- The power domains of a table (Table 16-5). -/
def tableDomains (id : Nat) : List Nat :=
  if 1 ≤ id ∧ id ≤ 4 then [17] else if isLensTable id then [18, 19, 20, 21] else if id = 10 ∨ id = 11 then [22] else []

/-- A run of bytes that is all zero. -/
def zeroAt (l : List Byte) (off len : Nat) : Bool := ((l.drop off).take len).all fun b => decide (b = 0)

/-- A PRISM_STEP entry holds no reserved encoding (Table 6-2). -/
def stepOk (w : Nat) : Bool :=
  let op := bits w 28 4
  let arg := bits w 0 5
  decide (op ≤ 6) && decide (bits w 9 19 = 0) && decide (bits w 5 3 = 0) && (decide (op = 3) || decide (bits w 8 1 = 0)) &&
    (if op = 2 then [4, 8, 12, 16].contains arg else if op = 3 then decide (arg ≤ 2) else decide (arg = 0))

/-- A LENS_DIR entry with EN = 1 holds no reserved encoding (Table 10-1). -/
def dirOk (e : List Byte) : Bool :=
  let x := leAt e 30 1
  decide (leAt e 24 2 ≤ 8191) && decide (1 ≤ leAt e 26 2 ∧ leAt e 26 2 ≤ 8192) && decide (leAt e 28 1 < 64) && decide (leAt e 29 1 ≤ 47) &&
    decide (bits x 2 2 ≠ 3) && decide (bits x 4 2 ≠ 3) && decide (bits x 6 2 ≠ 3) && zeroAt e 31 1 && zeroAt e 34 2 && zeroAt e 38 2 &&
    decide (leAt e 40 1 < 16) && zeroAt e 41 23

/-- Entry x of table `id` holds no reserved encoding (R21, Table 16-5). -/
def entryOk (id x : Nat) (e : List Byte) : Bool :=
  if id = 0 then !bit (leAt e 6 1) 0 || (decide (leAt e 4 2 < 512) && decide (leAt e 6 1 ≤ 1) && zeroAt e 7 1)
  else if id = 4 then stepOk (leAt e 0 4)
  else if id = 5 then decide (bits (leAt e 0 4) 23 9 = 0) && decide (bits (leAt e 0 4) 16 7 ≤ 71) && decide (bits (leAt e 0 4) 7 9 = 0)
  else if id = 7 then !bit (leAt e 30 1) 0 || dirOk e
  else if id = 10 then
    if x < 8192 then zeroAt e 4 4 else decide (leAt e 4 1 < 64) && decide (leAt e 5 1 < 4) && zeroAt e 6 2
  else if id = 11 then
    if 1030 ≤ x % 1040 then zeroAt e 0 4 else decide (-131072 ≤ signed 32 (leAt e 0 4) ∧ signed 32 (leAt e 0 4) ≤ 131071)
  else if id = 12 then !isNaN32 (leAt e 0 4) && !isNaN32 (leAt e 4 4)
  else if id = 13 then !isNaN32 (leAt e 0 4)
  else if id = 14 then
    !bit (leAt e 28 1) 0 || (decide (leAt e 22 2 ≠ 0) && decide (leAt e 27 1 ≠ 0) && decide (leAt e 28 1 < 4) && zeroAt e 29 3)
  else if id = 15 then
    !bit (leAt e 22 1) 0 || (decide (leAt e 16 4 < 2 ^ 30) && decide (leAt e 22 1 ≤ 1) && zeroAt e 23 1 && decide (leAt e 24 6 ≠ 0) && decide (leAt e 30 2 ≠ 0))
  else true

/-- A relation holds between every two members of a list, in order. -/
def allPairs {α : Type} (r : α → α → Bool) : List α → Bool
  | [] => true
  | a :: t => t.all (r a) && allPairs r t

/-- The valid entries of a SOURCE_MAP bank with their numbers. -/
def sourcesIn (s : State) (bank : Nat) : List (Nat × SourceEntry) :=
  (List.range 256).filterMap fun e => if (sourceEntry s bank e).valid then some (e, sourceEntry s bank e) else none

/-- A SOURCE_MAP bank keeps R107; against the bank in force, when the bank loaded is not in force. -/
def sourceMapOk (s : State) (bank : Nat) : Bool :=
  let l := sourcesIn s bank
  (l.all fun e => decide (1 ≤ e.2.count) && decide (e.2.base + e.2.count ≤ 256)) &&
    allPairs (fun a b => decide (a.2.id ≠ b.2.id) && (decide (a.2.base + a.2.count ≤ b.2.base) || decide (b.2.base + b.2.count ≤ a.2.base))) l &&
    (decide (bank = s.bankOf 0) || l.all fun a => (sourcesIn s (1 - bank)).all fun b => decide (a.2.id ≠ b.2.id) || decide (a.1 = b.1))

/-- An ANCHOR bank keeps R305. -/
def anchorOk (s : State) (bank : Nat) : Bool :=
  allPairs (fun a b => decide (a.i0 < b.i0 ∧ a.t0 < b.t0) || decide (b.i0 < a.i0 ∧ b.t0 < a.t0)) (anchorsIn s bank)

/-- The whole-table rules of the bank that a load would leave. -/
def bankOk (s : State) (id bank : Nat) : Bool := if id = 0 then sourceMapOk s bank else if id = 15 then anchorOk s bank else true

/-- LENS_LOADED after a load of a Lens table into the groups that are ON (R221). -/
def lensLoaded (s : State) (id bank : Nat) : State :=
  s.wr F.LENS_LOADED.LOADED 0 ((lensOn s).foldl (fun m g => setBit m (8 * g + 2 * (id - 6) + bank)) (s.rd F.LENS_LOADED.LOADED 0))

/-- Entries of one copy of a table bank are written: words found uncorrectable among them are sound again (R285). -/
def writeCopy (s : State) (id bank grp first : Nat) (bs : List Byte) : State :=
  let hit : Nat × Nat × Nat × Nat → Bool := fun w =>
    decide (w.1 = id ∧ w.2.1 = bank ∧ w.2.2.1 = grp) && decide (first ≤ w.2.2.2) && decide (w.2.2.2 * tableBytes id < first * tableBytes id + bs.length)
  { s.tbWrite id bank grp (first * tableBytes id) bs with tableBad := s.tableBad.filter fun w => !hit w }

/-- Bytes written into a table bank from an entry on: in every Lens group that is ON for a Lens table. -/
def writeTable (s : State) (id bank first : Nat) (bs : List Byte) : State :=
  if isLensTable id then lensLoaded ((lensOn s).foldl (fun s g => writeCopy s id bank g first bs) s) id bank
  else writeCopy s id bank 0 first bs

/-- Bytes of a table bank as a read returns them: of the lowest Lens group that is ON for a Lens table. -/
def readTableAt (s : State) (id bank off n : Nat) : List Byte :=
  (List.range n).map fun i => s.tbByte id bank (if isLensTable id then (lensOn s).headD 0 else 0) (off + i)

/-- The parts of a table command (Table 16-4). -/
structure TableCmd where
  id : Nat
  bank : Nat
  first : Nat
  count : Nat

def tableCmd (d : List Byte) : TableCmd := { id := leAt d 20 1, bank := leAt d 21 1, first := leAt d 24 4, count := leAt d 28 4 }

/-- Bytes of a descriptor's LENGTH and the beats that carry them. -/
def descLen (d : List Byte) : Nat := leAt d 16 4
def descAddr (d : List Byte) : Nat := leAt d 8 8
def descBeats (d : List Byte) : Nat := (descLen d + 63) / 64

/-- Entry x of a load overlaps a beat answered with an error. -/
def entryHit (errs : List Nat) (size x : Nat) : Bool := errs.any fun b => decide (64 * b < (x + 1) * size) && decide (x * size < 64 * b + 64)

/-- The data of a LOAD_TABLE is refused: an entry holds a reserved encoding, or the bank would break a rule of the whole table. Entries
of which a beat failed cannot be judged. -/
def loadBad (s : State) (c : TableCmd) (bs : List Byte) (errs : List Nat) : Bool :=
  let size := tableBytes c.id
  ((List.range c.count).any fun x => !entryHit errs size x && !entryOk c.id (c.first + x) ((bs.drop (x * size)).take size)) ||
    (errs.isEmpty && !bankOk (writeTable s c.id c.bank c.first bs) c.id c.bank)

/-- Bytes padded with zeros to a length, or cut to it. -/
def fitBytes (l : List Byte) (n : Nat) : List Byte := l.take n ++ List.replicate (n - l.length) 0

/-- OPCODE, region and OFFSET of a region command. -/
def opOf (d : List Byte) : Nat := leAt d 0 1
def regionIdx (d : List Byte) : Nat := leAt d 20 1
def regionOff (d : List Byte) : Nat := leAt d 24 8

/-- The HBM address of a byte of a region command. -/
def regionAddr (s : State) (d : List Byte) (off : Nat) : Nat := regionBase s (regionIdx d) + regionOff d + off

/-- The bytes of a beat that a READ command sends, as they stand when the beat is read (R349, R350). -/
def cmdBytes (s : State) (j : Job) (beat : Nat) : List Byte :=
  let c := tableCmd j.desc
  let n := beatLen j beat
  if opOf j.desc = 2 then readTableAt s c.id c.bank (c.first * tableBytes c.id + 64 * beat) n else s.hbmRead (regionAddr s j.desc (64 * beat)) n

/-- A READ_REGION beat whose HBM word is uncorrectable is answered with an error on the device side (R360, R370). -/
def cmdErr (s : State) (j : Job) (beat : Nat) (err : Option Bool) : Option Bool :=
  match err with
  | some d => some d
  | none => if opOf j.desc = 4 ∧ poisonedAt s (regionAddr s j.desc (64 * beat)) (beatLen j beat) = true then some true else none

/-- A beat of a LOAD command arrives: a region takes it at once, a table when the command ends. What a failed beat leaves in a region is
undefined (R350, R360). -/
def takeBeat (s : State) (c : Nat) (j : Job) (beat : Nat) (failed : Bool) (bytes : List Byte) : State :=
  let bs := fitBytes bytes (beatLen j beat)
  if c < 15 ∨ opOf j.desc = 1 then setJob s c { j with data := patch j.data (64 * beat) bs }
  else if failed then (s.takeFree).2.hbmWrite (regionAddr s j.desc (64 * beat)) (leBytes (beatLen j beat) (s.takeFree).1)
  else s.hbmWrite (regionAddr s j.desc (64 * beat)) bs

/-- Bytes of a job whose beats met no error. -/
def bytesMoved (j : Job) : Nat := (((List.range j.beats).filter fun b => !j.errs.contains b).map (beatLen j)).sum

/-- How a LOAD or READ command ends: its effect, and STATUS, BEAT and RESULT (R349, R350, R360). DEDUCED: log entry 34. -/
def cmdResult (s : State) (j : Job) : State × Nat × Nat × Nat :=
  let c := tableCmd j.desc
  if opOf j.desc = 1 then
    (if loadBad s c j.data j.errs then (s, stBAD_TABLE, 0, 0)
     else if jobStatus j = stOK then (writeTable s c.id c.bank c.first j.data, stOK, 0, j.info)
     else (s, jobStatus j, jobBeat j, 0))
  else (s, jobStatus j, jobBeat j, bytesMoved j)

/-- The status of a command that a channel ran is decided; completions follow in ring order (R351). -/
def decideCmd (s : State) (idx : Nat) (res : Nat × Nat × Nat) : State :=
  { s with ko := { s.ko with cmds := s.ko.cmds.map fun x => if x.idx = idx then { x with res := some res } else x } }

/-- Every beat of a LOAD or READ command is answered. A refused table halts no channel. -/
def endCmdJob (s : State) (c : Nat) (j : Job) : State :=
  let r := cmdResult s j
  let j1 := if r.2.1 = stBAD_TABLE then { j with err := none, bus := false } else j
  settleCmds (endChannel (decideCmd r.1 j.idx r.2) c j1)

end Sys2Proof.Machine
end

