-- ==== Sys2Proof/Machine/DmaRows.lean ====
section
/-! DEFINITION. The buffer rings: how a DMA channel takes a descriptor, moves its beats and hands it back (chapter 16). -/
namespace Sys2Proof.Machine

/-- A dump buffer descriptor is well formed (Table 16-11). DEDUCED: log entry 41. -/
def dumpDescOk (d : List Byte) : Bool :=
  decide (leAt d 0 8 % 64 = 0) && decide (leAt d 8 4 % 64 = 0) && decide (4096 ≤ leAt d 8 4 ∧ leAt d 8 4 ≤ 2 ^ 31) && decide (leAt d 12 4 = 0)

/-- Stream i takes a dump buffer (R357). -/
def takeDumpBuffer (s : State) (i : Nat) (d : List Byte) : State :=
  let x := (getRing s 3).next
  if dumpDescOk d then
    let st := getStream s i
    let n := min (leAt d 8 4) (st.size - st.off)
    let lst := decide (st.off + n = st.size)
    startJob s (3 + i) { ring := 3, idx := x, desc := d, addr := leAt d 0 8, beats := (n + 63) / 64, offset := st.off, info := n, first := decide (st.off = 0), last := lst }
  else refuseDescriptor s 3 x stBAD_DESCRIPTOR

/-- The frame at the head of a port's receive buffer. -/
def rxHead (s : State) (p : Nat) : Option RxFrame := (getPort s p).rx.head?

/-- Buffers that a frame takes (R329). -/
def rxBuffers (f : RxFrame) : Nat := (f.bytes.length + 2047) / 2048

/-- The frame at the head takes a receive buffer for its next 2 KiB. DEDUCED: log entry 41. -/
def takeRxBuffer (s : State) (p : Nat) (f : RxFrame) (d : List Byte) : State :=
  let x := (getRing s (4 + p)).next
  let n := min 2048 (f.bytes.length - 2048 * f.filled)
  let lst := decide (f.filled + 1 = rxBuffers f)
  let fst_ := decide (f.filled = 0)
  startJob s (7 + p) { ring := 4 + p, idx := x, desc := d, addr := leAt d 0 8, beats := (n + 63) / 64, offset := 2048 * f.filled, info := n, first := fst_, last := lst }

/-- A transmit descriptor is well formed: the limits of R323 and the reserved bits of Table 16-13. -/
def txDescOk (d : List Byte) : Bool :=
  let len := leAt d 8 2
  decide (60 ≤ len ∧ len ≤ 9596) && decide (leAt d 10 1 ≤ 1) && decide (leAt d 11 5 = 0) && (decide (leAt d 10 1 = 0) || decide (len + 4 ≤ 1522))

/-- Port p takes a transmit descriptor; one that names a port in DRAIN or OFF completes with DOMAIN_OFF (R72). DEDUCED: log entry 41. -/
def takeTxDescriptor (s : State) (p : Nat) (d : List Byte) : State :=
  let x := (getRing s (8 + p)).next
  let len := leAt d 8 2
  if domState s (24 + p) = pdOFF ∨ domState s (24 + p) = pdDRAIN then refuseDescriptor s (8 + p) x stDOMAIN_OFF
  else if txDescOk d then
    let z : List Byte := List.replicate len 0
    startJob s (11 + p) { ring := 8 + p, idx := x, desc := d, addr := leAt d 0 8, beats := (len + 63) / 64, info := len, data := z }
  else refuseDescriptor s (8 + p) x stBAD_DESCRIPTOR

/-- A descriptor is available to an IDLE channel (Table 16-14): the ring that it serves, if so. -/
def fetchRing (s : State) (c : Nat) : Option Nat :=
  if chState s c ≠ chIDLE then none
  else if c = 0 then (if cmdReady s then some 0 else none)
  else if 3 ≤ c ∧ c ≤ 6 then
    (if streamLeft s (c - 3) ∧ s.tag F.PO_STREAM_CTL.ROUTE (c - 3) = 0 ∧ hasDescriptor s 3 then some 3 else none)
  else if 7 ≤ c ∧ c ≤ 10 then (if (rxHead s (c - 7)).isSome ∧ hasDescriptor s (c - 3) then some (c - 3) else none)
  else if 11 ≤ c ∧ c ≤ 14 then (if hasDescriptor s (c - 3) then some (c - 3) else none)
  else none

/-- The fetched descriptor becomes the channel's job. -/
def takeDescriptor (s : State) (c : Nat) (d : List Byte) : State :=
  if 3 ≤ c ∧ c ≤ 6 then takeDumpBuffer s (c - 3) d
  else if 7 ≤ c ∧ c ≤ 10 then (match rxHead s (c - 7) with | some f => takeRxBuffer s (c - 7) f d | none => s)
  else if 11 ≤ c ∧ c ≤ 14 then takeTxDescriptor s (c - 11) d
  else s

/-- DESCRIPTOR_FETCH (R361). A command's descriptor is taken by the row of its command; here only its fetch can fail. -/
def execDescriptorFetch (c : Fin 32) (desc : List Byte) (fetched : Bool) (s : State) : Host.Outcome State Fault Refusal :=
  .next (run (fun s => pcieReady s && (fetchRing s c).isSome && (!fetched || decide (c.val ≠ 0)))
    (fun s =>
      if fetched then takeDescriptor s c (desc.take 64)
      else if c.val = 0 then cmdFetchFailed s
      else fetchFailed s c ((fetchRing s c).getD 0)) s)

/-- The write-back of a dump buffer (Table 16-11). -/
def dumpWriteBack (s : State) (c : Nat) (j : Job) (status bytes : Nat) : State :=
  writeBack s 3 j.idx [(16, 1, status), (17, 1, b2n j.first + 2 * b2n j.last), (18, 1, c - 3), (20, 4, (getBank s s.po.bank).num),
    (24, 8, j.offset), (32, 4, bytes), (36, 4, jobBeat j)]

/-- A dump buffer is handed back, and its stream moves on. -/
def endDumpJob (s : State) (c : Nat) (j : Job) : State :=
  let i := c - 3
  let st := getStream s i
  let s1 := dumpWriteBack s c j (jobStatus j) j.info
  let s2 := bump (setStream s1 i { st with off := st.off + j.info }) F.PO_STREAM_BYTES.COUNT i j.info
  endChannel (handBack s2 3 j.idx) c j

/-- A port has no buffers for the frame at the head of its receive buffer: the frame is dropped whole, and the buffers it had filled
are returned unadvanced (R329). -/
def rxDrop (s : State) (p : Nat) : State :=
  let r := getRing s (4 + p)
  let s1 := setRing (setPort s p { getPort s p with rx := (getPort s p).rx.tail }) (4 + p) { r with next := r.devIdx }
  setErr (bump s1 F.ETH_RX_RING_DROP.COUNT p 1) (Err.ETH.unit p) Err.ETH.RX_RING_DROP 0

/-- The frames at the head of a port's receive buffer for which its ring holds no buffer are dropped. -/
def rxSettle (p : Nat) : Nat → State → State
  | 0, s => s
  | n + 1, s =>
    if (rxHead s p).isSome && (getJob s (7 + p)).isNone && !hasDescriptor s (4 + p) then rxSettle p n (rxDrop s p) else s

/-- The receive buffer of a port after a change. -/
def rxAdvance (s : State) (p : Nat) : State := rxSettle p (getPort s p).rx.length s

/-- A receive buffer is filled (Table 16-12): its write-back, and DEV_IDX once the frame is whole. -/
def endRxJob (s : State) (c : Nat) (j : Job) : State :=
  let p := c - 7
  match rxHead s p with
  | none => endChannel s c j
  | some f =>
    let flags := b2n j.first + 2 * b2n j.last + 4 * b2n (ptpAt f.bytes).isSome + 8 * b2n f.holdover
    let head := if j.first then [(20, 1, rxBuffers f), (24, 2, f.bytes.length), (32, 6, f.stamp / secUnits), (38, 2, f.stamp % nsUnits),
      (40, 4, f.stamp / nsUnits % 1000000000)] else []
    let s1 := writeBack s (4 + p) j.idx ([(16, 1, jobStatus j), (17, 1, flags), (18, 2, j.info)] ++ head)
    let x := getPort s1 p
    let s2 := if j.last then advanceDev (setPort s1 p { x with rx := x.rx.tail }) (4 + p) (rxBuffers f) false
      else setPort s1 p { x with rx := { f with filled := f.filled + 1 } :: x.rx.tail }
    rxAdvance (endChannel s2 c j) p

/-- A frame has been read from the host: it is offered to its port, or handed back with an error (R323, Table 16-13). -/
def endTxJob (s : State) (c : Nat) (j : Job) : State :=
  let p := c - 11
  let event := (ptpAt j.data).isSome
  if jobStatus j ≠ stOK then endChannel (handBack (writeBack s (8 + p) j.idx [(16, 1, jobStatus j), (20, 4, jobBeat j)]) (8 + p) j.idx) c j
  else if event ∧ 1522 < j.info + 4 then txHandBack s p stBAD_DESCRIPTOR
  else offerFrame s p { sender := .host, express := event || decide (leAt j.desc 10 1 = 1), bytes := j.data }

/-- The bytes of a beat toward the host, as its source holds them: a dump, a received frame, a table or a region. -/
def sourceBytes (s : State) (c : Nat) (j : Job) (beat : Nat) : List Byte :=
  let off := j.offset + 64 * beat
  let n := beatLen j beat
  if c ≤ 6 then dumpBytes s (c - 3) (getStream s (c - 3)) off n
  else if c ≤ 10 then ((((rxHead s (c - 7)).map RxFrame.bytes).getD []).drop off).take n
  else cmdBytes s j beat

/-- What the Portico notes as a beat of a dump is read (R207, R211). -/
def noteBeat (s : State) (c : Nat) (j : Job) (beat : Nat) (bad badTally : List Nat) : State :=
  let off := j.offset + 64 * beat
  if c ≤ 6 then noteZeroed (notePoison s (c - 3) off (beatLen j beat) bad badTally) (c - 3) off (beatLen j beat) else s

/-- The beat's data moves: to the host, or from it. What a failed beat carries is undefined at its destination (R360). -/
def moveBeat (s : State) (c : Nat) (j : Job) (beat : Nat) (failed : Bool) (bytes : List Byte) : State :=
  if fromHost c j then takeBeat s c j beat failed bytes
  else if failed then beatToHost (s.takeFree).2 c j beat (leBytes (beatLen j beat) (s.takeFree).1)
  else beatToHost s c j beat (sourceBytes s c j beat)

/-- Every beat of a job is answered: its status is decided (R360). -/
def endJob (s : State) (c : Nat) : State :=
  match getJob s c with
  | none => s
  | some j =>
    if j.answered.length < j.beats then dmaArb s
    else if c ≤ 6 then endDumpJob s c j
    else if c ≤ 10 then endRxJob s c j
    else if c ≤ 14 then dmaArb (endTxJob s c j)
    else endCmdJob s c j

/-- The job of a channel after a beat's answer; a buffer from the host that has fallen to LOW asks for more (R359). -/
def jobAnswered (s : State) (c : Nat) (j : Job) (beat : Nat) (err : Option Bool) : Job :=
  let j1 := answer j beat err
  if fromHost c j then { j1 with full := j1.full && decide (lowBytes s c < pendingBytes j1) } else j1

/-- A beat is answered (R360). DEDUCED: log entry 67. -/
def beatAnswered (s : State) (c beat : Nat) (err : Option Bool) (bytes : List Byte) (bad badTally : List Nat) : State :=
  match getJob s c with
  | none => s
  | some j =>
    let e := if 15 ≤ c then cmdErr s j beat err else err
    let s1 := moveBeat (noteBeat s c j beat bad badTally) c j beat e.isSome bytes
    let s2 := setJob s1 c (jobAnswered s1 c ((getJob s1 c).getD j) beat e)
    endJob (if e.isNone then chMoved s2 c (beatLen j beat) else s2) c

/-- The channel moves beats, and this one has been asked for and not answered. -/
def beatDue (s : State) (c beat : Nat) : Bool :=
  pcieReady s && !hung s 0 && !(decide (3 ≤ c ∧ c ≤ 6) && hung s 5) && (decide (chState s c = chACTIVE) || decide (chState s c = chSTOPPING)) &&
    (match getJob s c with
     | some j => decide (beat < j.beats) && !j.answered.contains beat && decide (min (64 * (beat + 1)) j.info ≤ j.asked)
     | none => false)

/-- Beats that are answered with the command that starts them: each that is due is taken as DMA_BEAT_RESPONSE takes it (R360).
DESIGN CHOICE: log entry 40. -/
def beatsAnswered (c : Nat) (answers : List BeatAnswer) (s : State) : State :=
  answers.foldl (fun s a => if beatDue s c a.beat then beatAnswered s c a.beat a.err a.bytes [] [] else s) s

/-- DMA_BEAT_RESPONSE (R360). -/
def execDmaBeatResponse (c : Fin 32) (beat : Nat) (err : Option Bool) (bytes : List Byte) (bad badTally : List Nat) (s : State) :
    Host.Outcome State Fault Refusal :=
  .next (run (fun s => beatDue s c beat) (fun s => beatAnswered s c beat err bytes bad badTally) s)

/-- A channel's own buffer holds an uncorrectable word: its descriptor will complete with BUS_ERROR, once every beat is answered (R285,
R360). A frame that has gone on to its port is in the buffer no longer. -/
def jobBusError (s : State) (c : Nat) : State :=
  match getJob s c with
  | none => s
  | some j => if j.answered.length < j.beats then setJob s c { j with bus := true } else s

end Sys2Proof.Machine
end

