-- ==== Sys2Proof/Machine/Lens.lean ====
section
/-! DEFINITION. The Lens: contexts, Focus weights, exact sums, output formats and the HBM rings (chapter 10). The fields in force for
a channel block are given as the register file `act` of its epoch. -/
namespace Sys2Proof.Machine

/-- The bank of a table under a set of active fields. -/
def bankIn (act : Regs) (id : Nat) : Nat := b2n (bit (Regs.rd act F.GLOBAL_BANK_SEL.BANK_SEL 0) id)

/-- M, C, F and T under a set of active fields. -/
def actM (act : Regs) : Nat := mOf (Regs.rd act F.PR_CFG.M 0)
def actC (act : Regs) : Nat := Regs.rd act F.PR_CHAN.C 0
def actF (act : Regs) : Nat := actC act * actM act
def actT (act : Regs) : Nat := tOf (Regs.rd act F.GLOBAL_DP_CFG.T_CODE 0)

/-- The Lens groups named in GROUPS, ascending (R229). -/
def groupsIn (act : Regs) : List Nat := (List.range 4).filter (bit (Regs.rd act F.LENS_CFG.GROUPS 0))

/-- The group whose copies of LENS_DIR and LENS_MASK say what the contexts are: the first named one. DEDUCED: log entry 68. -/
def firstGroup (act : Regs) : Nat := (groupsIn act).headD 0

/-- A field of a LENS_DIR entry (Table 10-1). DEDUCED: log entry 68. -/
def lensDir (s : State) (act : Regs) (k off n : Nat) : Nat := s.tbNat 7 (bankIn act 7) (firstGroup act) (64 * k + off) n

def lensEn (s : State) (act : Regs) (k : Nat) : Bool := bit (lensDir s act k 30 1) 0
def lensWsrc (s : State) (act : Regs) (k : Nat) : Bool := bit (lensDir s act k 30 1) 1
def lensRoute (s : State) (act : Regs) (k : Nat) : Nat := bits (lensDir s act k 30 1) 2 2
def lensFormat (s : State) (act : Regs) (k : Nat) : Nat := bits (lensDir s act k 30 1) 4 2
def lensPair (s : State) (act : Regs) (k : Nat) : Nat := bits (lensDir s act k 30 1) 6 2
def lensLo (s : State) (act : Regs) (k : Nat) : Nat := lensDir s act k 24 2
def lensShift (s : State) (act : Regs) (k : Nat) : Nat := lensDir s act k 29 1
def lensTaper (s : State) (act : Regs) (k : Nat) : Nat := lensDir s act k 32 2

/-- The end of a context's range (R217). -/
def lensHi (s : State) (act : Regs) (k : Nat) : Nat := min (lensLo s act k + lensDir s act k 26 2) (actF act)

/-- F_k, the fine channels of a context's range. -/
def lensFk (s : State) (act : Regs) (k : Nat) : Nat := lensHi s act k - lensLo s act k

/-- An enabled context whose range holds fine channel f. -/
def lensHolds (s : State) (act : Regs) (k f : Nat) : Bool :=
  lensEn s act k && decide (lensLo s act k ≤ f) && decide (f < lensHi s act k)

/-- The inputs below N in a context's mask, ascending (R217). -/
def maskInputs (s : State) (act : Regs) (k : Nat) : List Nat :=
  let u := lensDir s act k 28 1
  (List.range s.N).filter fun i => bit (s.tbNat 9 (bankIn act 9) (firstGroup act) (512 * u + i / 8) 1) (i % 8)

/-- c_k: the clocks of a context on every named group (R229). -/
def lensCost (s : State) (act : Regs) (k : Nat) : Nat :=
  let n := (maskInputs s act k).length
  let r := (n + 7) / 8
  let g := (groupsIn act).length
  if r = 0 ∨ g = 0 then 0 else
    let a := (r + g - 1) / g
    let h := if (r - 1) % g = 0 then 8 * (a - 1) + n - 8 * (r - 1) else 8 * a
    (h * actT act + 8191) / 8192

/-- The group that forms the products of the input at place q among the masked inputs (R229). -/
def dealtGroup (act : Regs) (q : Nat) : Nat :=
  let gs := groupsIn act
  gs.getD (q / 8 % gs.length) 0

/-- K_C of R222. -/
def lensKC : Int := rneDiv (2 ^ 96) 299792458000

/-- A direction component before and after saturation (R222). -/
def dirComp (s : State) (act : Regs) (n k i : Nat) : Int × Int :=
  let x := signed 32 (lensDir s act k (4 * i) 4) + rne (signed 32 (lensDir s act k (12 + 4 * i) 4) * (n : Int)) 16
  (x, sat x 32)

/-- The frequency of a fine channel in units of 2^-16 Hz (R222). -/
def fineFreq (act : Regs) (f : Nat) : Int :=
  signed 64 (Regs.rd act F.PR_CHAN_FREQ.FREQ (f / actM act)) +
    (((f % actM act : Nat) : Int) - ((actM act / 2 : Nat) : Int)) * (Regs.rd act F.PR_FINE_DF.DF 0 : Nat)

/-- `focus.weight` for the input at place q among the masked inputs, with its components before saturation (R222). -/
def focusWeight (s : State) (act : Regs) (n k f q i : Nat) : Cx × Cx :=
  if lensWsrc s act k then
    let a := regionBase s (Regs.rd act F.LENS_REGIONS.WTAB_REGION 0) + 16384 * actF act * lensDir s act k 36 2 + 4 * (f * 4096 + i)
    let w : Cx := (signed 16 (s.hbmNat a 2), signed 16 (s.hbmNat (a + 2) 2))
    (w, w)
  else
    let g := dealtGroup act q
    let pos := fun off => signed 32 (s.tbNat 6 (bankIn act 6) g (16 * i + off) 4)
    let d := (dirComp s act n k 0).2 * pos 0 + (dirComp s act n k 1).2 * pos 4 + (dirComp s act n k 2).2 * pos 8
    let nu := fineFreq act f
    let kap := rne (nu * lensKC) 64
    let e := rot (unsigned 32 (-(rne (kap * d) 47) - rne (nu * pos 12) 32))
    let cal := 4 * (i * 16 + 16 * f / actF act)
    let c : Cx := (signed 16 (s.tbNat 8 (bankIn act 8) g cal 2), signed 16 (s.tbNat 8 (bankIn act 8) g (cal + 2) 2))
    let t := lensTaper s act k
    let a : Int := if t = 0xFFFF then 32768 else (s.hbmNat (regionBase s (Regs.rd act F.LENS_REGIONS.TAPER_REGION 0) + 8192 * t + 2 * i) 2 : Nat)
    let w := cxMap (fun v => rne (v * a) 31) (cxMul c e)
    (w, cxMap (fun v => satSym v 16) w)

/-- The sample of an input that the Lens reads from the Orangery. The words of a poisoned input block (R162) are open. -/
def lensSample (s : State) (o : Orangery) (i t : Nat) : Cx :=
  if o.bad.contains (i / 32) then
    let v := Config.freeValue (s.free + i * 65536 + t)
    if s.mode4 then (signed 4 v, signed 4 (v / 16)) else (signed 8 v, signed 8 (v / 256))
  else orSample s o i t

/-- The weights of a context for a channel block, by masked input (R222). -/
def lensWeights (s : State) (act : Regs) (n k f : Nat) : List (Nat × Cx × Cx) :=
  (maskInputs s act k).zipIdx.map fun p => (p.1, focusWeight s act n k f p.2 p.1)

/-- S at an instant (R225, R226). -/
def beamSum (s : State) (o : Orangery) (ws : List (Nat × Cx × Cx)) (t : Nat) : Cx :=
  ws.foldl (fun acc w => cxAdd acc (cxMul w.2.2 (lensSample s o w.1 t))) (0, 0)

/-- n_c at an instant (R225). -/
def beamCount (s : State) (o : Orangery) (ws : List (Nat × Cx × Cx)) (t : Nat) : Nat :=
  (ws.filter fun w => orValid s o w.1 t).length

/-- The sums and contribution counts of a context for its channel block. -/
structure BeamOut where
  k : Nat
  sums : List Cx
  counts : List Nat
  inputs : Nat

/-- One output component in its format, and whether it saturated (R227). DEDUCED: log entry 93. -/
def outComp (fmt shift : Nat) (x : Int) : Int × Bool :=
  if fmt = 2 then
    if 65504 * 2 ^ shift < x.natAbs then ((if x < 0 then 0xFBFF else 0x7BFF), true)
    else ((fp16.encode (decide (x < 0)) x.natAbs 1 (-(shift : Int)) : Nat), false)
  else
    let w := if fmt = 0 then 8 else 16
    let r := rne x shift
    (satSym r w, decide (satSym r w ≠ r))

/-- Bytes of an output component. -/
def compBytes (fmt : Nat) : Nat := if fmt = 0 then 1 else 2

/-- The bytes of an output value. -/
def outBytes (fmt : Nat) (y : Cx) : List Byte :=
  leBytes (compBytes fmt) (unsigned (8 * compBytes fmt) y.1) ++ leBytes (compBytes fmt) (unsigned (8 * compBytes fmt) y.2)

/-- The samples of a context in its format, with the components saturated counted (R227). -/
def formatOut (s : State) (act : Regs) (k : Nat) (sums : List Cx) : List Cx × Nat :=
  let one := fun (x : Cx) => (outComp (lensFormat s act k) (lensShift s act k) x.1, outComp (lensFormat s act k) (lensShift s act k) x.2)
  let r := sums.map one
  (r.map fun p => (p.1.1, p.2.1), (r.map fun p => b2n p.1.2 + b2n p.2.2).sum)

/-- RECORD_LEN (R234). -/
def recordLen (fmt T : Nat) : Nat := (32 + T * (2 * compBytes fmt + 2) + 63) / 64 * 64

/-- A record of a context and channel block (Table 10-5). -/
def recordBytes (s : State) (act : Regs) (k f fsi epochNum : Nat) (discont : Bool) (b : BeamOut) (ys : List Cx) : List Byte :=
  let fmt := lensFormat s act k
  let len := recordLen fmt (actT act)
  let h := record 32 [(0, 2, 0x4C42), (2, 1, 1), (3, 1, fmt), (4, 2, k), (6, 2, f), (8, 8, fsi), (16, 2, actT act), (18, 2, b.inputs),
    (20, 1, b2n discont), (21, 1, lensShift s act k), (24, 4, epochNum), (28, 4, len)]
  let body := h ++ ys.flatMap (outBytes fmt) ++ b.counts.flatMap (leBytes 2)
  body ++ List.replicate (len - body.length) 0

/-- A skip header (R234). -/
def skipBytes (len : Nat) : List Byte := record 32 [(0, 2, 0x4C42), (2, 1, 1), (3, 1, 0xFF), (28, 4, len)]

/-- The size of one HBM ring. -/
def lensRingSize (s : State) (act : Regs) : Nat := regionSize s (Regs.rd act F.LENS_REGIONS.REORDER_REGION 0) / 16 / 4096 * 4096

/-- The address of an HBM ring. -/
def lensRingBase (s : State) (act : Regs) (r : Nat) : Nat := regionBase s (Regs.rd act F.LENS_REGIONS.REORDER_REGION 0) + r * lensRingSize s act

/-- Where a record of a length goes (R234): whether a skip header goes before it to the end of the ring, and its offset, none when there is no
room. A record or a skip header leaves at least 64 bytes free before RD. DEDUCED: log entry 70. -/
def ringPlace (size wr rd len : Nat) : Bool × Option Nat :=
  if wr < rd then (false, if wr + len + 64 ≤ rd then some wr else none)
  else if wr + len < size ∨ (wr + len = size ∧ 64 ≤ rd) then (false, some wr)
  else if wr + len = size ∨ rd < 64 then (false, none)
  else (true, if len + 64 ≤ rd then some 0 else none)

/-- A record written to an HBM ring, or dropped whole; a skip header stands although the record after it is dropped (R234). DEDUCED: log
entry 70. -/
def ringRecord (s : State) (act : Regs) (k : Nat) (rec_ : List Byte) : State :=
  let r := lensDir s act k 40 1 % 16
  let size := lensRingSize s act
  let wr := s.rd F.LENS_RING_WR.WR r
  let place := if hung s 6 then (false, none) else ringPlace size wr (s.rd F.LENS_RING_RD.RD r) rec_.length
  let s0 := if place.1 then (s.hbmWrite (lensRingBase s act r + wr) (skipBytes (size - wr))).wr F.LENS_RING_WR.WR r 0 else s
  match place.2 with
  | none =>
    let s1 := setErr (bump s0 F.LENS_RING_DROP.COUNT 0 1) Err.LENS.unit Err.LENS.RING_DROP (k * 256)
    raise { s1 with le := { s1.le with discont := k :: s1.le.discont.erase k } } 8 [4, r]
  | some at_ =>
    let s1 := s0
    let s2 := s1.hbmWrite (lensRingBase s act r + at_) rec_
    { s2.wr F.LENS_RING_WR.WR r (if at_ + rec_.length = size then 0 else at_ + rec_.length) with
      le := { s2.le with discont := s2.le.discont.erase k } }

/-- A context needs data from HBM: a weight set, or a taper set that is not on die (R232). -/
def needsFetch (s : State) (act : Regs) (k : Nat) : Bool :=
  lensWsrc s act k || (decide (lensTaper s act k ≠ 0xFFFF) && !s.le.cache.contains (lensTaper s act k))

/-- A word of the Lens tables that a context uses was found uncorrectable and is not reloaded (R285): its LENS_DIR and LENS_MASK entries in a
named group, and the positions and calibration of its inputs in the group that forms their weights. -/
def lensWordBad (s : State) (act : Regs) (k f : Nat) : Bool :=
  let ins := (maskInputs s act k).zipIdx
  s.tableBad.any fun w => (groupsIn act).contains w.2.2.1 && decide (w.2.1 = bankIn act w.1) &&
    (if w.1 = 7 then decide (w.2.2.2 = k)
     else if w.1 = 9 then decide (w.2.2.2 = lensDir s act k 28 1)
     else !lensWsrc s act k && ins.any fun p => decide (dealtGroup act p.2 = w.2.2.1) &&
       (if w.1 = 6 then decide (w.2.2.2 = p.1) else decide (w.1 = 8) && decide (w.2.2.2 = p.1 * 16 + 16 * f / actF act)))

/-- The contexts served with k: a pair is served as one (R233). -/
def servedWith (s : State) (act : Regs) (k : Nat) : List Nat := if lensPair s act k = 1 then [k, k + 1] else [k]

/-- The contexts that the window's channel block is to serve, ascending; the Y beam of a pair stands with its X beam. -/
def windowContexts (s : State) : List Nat :=
  (List.range 16384).filter fun k => lensHolds s s.le.act k s.le.f && decide (lensPair s s.le.act k ≠ 2)

/-- The context whose turn it is. -/
def lensNext (s : State) : Option Nat :=
  if s.le.isOpen then (windowContexts s).find? fun k => decide (s.le.nextK ≤ k) && !s.le.lost.contains k else none

/-- The direction components of a context are formed, once in a cycle (R224). -/
def countDirection (s : State) (k : Nat) : State :=
  if lensWsrc s s.le.act k || s.le.dirCounted.contains k then s else
    let n := countWhere 3 fun i => decide ((dirComp s s.le.act s.le.n k i).1 ≠ (dirComp s s.le.act s.le.n k i).2)
    let s1 := { s with le := { s.le with dirCounted := k :: s.le.dirCounted } }
    if n = 0 then s1 else setErr (bump s1 F.LENS_DIR_SAT.COUNT 0 n) Err.LENS.unit Err.LENS.DIR_SAT (k * 256)

/-- The weights of a context are formed (R224). -/
def countWeights (s : State) (k : Nat) (ws : List (Nat × Cx × Cx)) : State :=
  let n := (ws.map fun w => cxDiff w.2.1 w.2.2).sum
  if n = 0 then s else setErr (bump s F.LENS_W_SAT.COUNT 0 n) Err.LENS.unit Err.LENS.W_SAT (k * 256)

/-- What the Lens forms for a context in its window. -/
def beamOf (s : State) (o : Orangery) (k : Nat) : State × BeamOut :=
  let ws := lensWeights s s.le.act s.le.n k s.le.f
  let T := actT s.le.act
  let b : BeamOut := { k := k, sums := (List.range T).map (beamSum s o ws), counts := (List.range T).map (beamCount s o ws), inputs := ws.length }
  let s1 := countWeights (countDirection s k) k ws
  (if ws.any fun w => o.bad.contains (w.1 / 32) then { s1 with free := s1.free + 4096 * 65536 } else s1, b)

/-- Output saturations counted (R227). -/
def countOut (s : State) (n : Nat) : State := bump s F.LENS_OUT_SAT.COUNT 0 n

/-- The Lens cycle count at a cycle (R223): 0 for the first cycle of the run and of an epoch that changes the LENS_DIR bank. -/
def lensCycle (s : State) (restart : Bool) : State :=
  s.wr F.LENS_DIR_N.N_CYC 0 (if restart then 0 else min (s.rd F.LENS_DIR_N.N_CYC 0 + 1) (2 ^ 32 - 1))

end Sys2Proof.Machine
end

