-- ==== Sys2Proof/Machine/Series.lean ====
section
/-! DEFINITION. The Eyepiece's series: terms, collapse, integration, decimation, resampling and settling (R240 to R250). -/
namespace Sys2Proof.Machine

/-- A binary32 code that is an infinity. -/
def isInf32 (v : Nat) : Bool := decide (v % 2 ^ 31 = 0x7F800000)

/-- A binary32 code that is not a NaN, as an integer in the order of the values. -/
def ordKey (v : Nat) : Int := if v % 2 ^ 32 < 2 ^ 31 then (v % 2 ^ 32 : Nat) else -(((v % 2 ^ 31 : Nat)) : Int)

/-- a < b for codes that are not NaN. -/
def lt32 (a b : Nat) : Bool := decide (ordKey a < ordKey b)

/-- The sum of coefficient times value over exact terms, scaled by 2^-k and rounded once (R245). -/
def exactSum (terms : List (Int × Nat)) (k : Nat) : Nat :=
  let vs := terms.map Prod.snd
  let pos := vs.any fun v => isInf32 v && decide (v < 2 ^ 31)
  let neg := vs.any fun v => isInf32 v && decide (2 ^ 31 ≤ v)
  if (vs.any isNaN32) || (pos && neg) then fp32.nanCode
  else if pos then fp32.infCode false
  else if neg then fp32.infCode true
  else
    let sum := terms.foldl (fun acc t => acc.add ((Fp.fin (decide (t.1 < 0)) t.1.natAbs 0).mul (fp32.decode t.2))) (Fp.fin false 0 0)
    fp32.round (sum.mul (.fin false 1 (-(k : Int))))

/-- A field of the profile of a context. -/
def eyeEntry (s : State) (act : Regs) (k off n : Nat) : Nat := s.tbNat 10 (bankIn act 10) 0 (8 * (8192 + k) + off) n
def eyeProfile (s : State) (act : Regs) (k : Nat) : Nat := eyeEntry s act k 4 1 % 64
def prof (s : State) (act : Regs) (f : Fld) (k : Nat) : Nat := Regs.rd act f (eyeProfile s act k)

/-- The context is an Eyepiece context (R238). -/
def isEyeCtx (s : State) (act : Regs) (k : Nat) : Bool :=
  lensEn s act k && decide (lensRoute s act k = 0) &&
    !(decide (lensPair s act k = 2) && decide (prof s act F.EYE_PROF_CTL.DETECT (k - 1) = 1))

/-- The Eyepiece contexts, ascending. -/
def eyeContexts (s : State) (act : Regs) : List Nat := (List.range 16384).filter (isEyeCtx s act)

/-- The Eyepiece detects Stokes parameters of the pair. -/
def isStokes (s : State) (act : Regs) (k : Nat) : Bool := decide (prof s act F.EYE_PROF_CTL.DETECT k = 1)

/-- q: terms per sample (R242). -/
def eyeQ (s : State) (act : Regs) (k : Nat) : Nat := if isStokes s act k then 4 else 1

/-- d_k(f) (R239). -/
def eyeDelay (s : State) (act : Regs) (k f : Nat) : Nat :=
  (rne ((eyeEntry s act k 0 4 * s.tbNat 10 (bankIn act 10) 0 (8 * f) 4 : Nat) : Int) 32).toNat

/-- D_k (R239). -/
def eyeDmax (s : State) (act : Regs) (k : Nat) : Nat :=
  maxOf ((List.range (lensFk s act k)).map fun j => eyeDelay s act k (lensLo s act k + j))

/-- The terms of a sample of one beam, or of a pair (R240). -/
def terms (x : Cx) : Option Cx → List Int
  | none => [x.1 * x.1 + x.2 * x.2]
  | some y => [x.1 * x.1 + x.2 * x.2, y.1 * y.1 + y.2 * y.2, x.1 * y.1 + x.2 * y.2, x.2 * y.1 - x.1 * y.2]

/-- Exact sums, term by term. -/
def addTerms : List Int → List Int → List Int
  | [], b => b
  | a, [] => a
  | a :: t, b :: u => (a + b) :: addTerms t u

/-- What a retune compares for a context (R249). -/
def eyeKey (s : State) (act : Regs) (k : Nat) : List Nat :=
  let p := eyeProfile s act k
  [lensLo s act k, lensDir s act k 26 2, lensDir s act k 28 1, lensDir s act k 30 1 % 2, lensPair s act k, lensRoute s act k, lensFormat s act k,
   eyeEntry s act k 0 8, bankIn act 11, actC act, actM act, actT act] ++
  ([F.EYE_PROF_CTL.OUT_EN, F.EYE_PROF_CTL.PORT, F.EYE_PROF_CTL.THR_EN, F.EYE_PROF_CTL.THR_DIR, F.EYE_PROF_CTL.THR_COMP, F.EYE_PROF_CTL.RS_EN,
    F.EYE_PROF_CTL.FSET, F.EYE_PROF_CTL.STAGES, F.EYE_PROF_CTL.DETECT, F.EYE_PROF_CTL.HDR_IDX, F.EYE_PROF_CTL.SH, F.EYE_PROF_NINT.N_INT,
    F.EYE_PROF_STEP.STEP, F.EYE_PROF_THI.THI, F.EYE_PROF_TLO.TLO, F.EYE_PROF_DECAY.DECAY, F.EYE_PROF_REPORT.REPORT_N].map fun f => Regs.rd act f p)

/-- ceil(p / q) of naturals. -/
def cdiv (p q : Nat) : Nat := (p + q - 1) / q

/-- a_0 and a_s of R250 for the stages up to s. -/
def settleAt (a0 : Nat) : Nat → Nat
  | 0 => a0
  | s + 1 => cdiv (settleAt a0 s + 22) 2

/-- The first window and stage output that nothing before the retune touches. -/
def levelFrom (s : State) (act : Regs) (k : Nat) (c : EyeCtx) (lev : Nat) : Nat :=
  settleAt (cdiv (c.from_ + c.dmax) (prof s act F.EYE_PROF_NINT.N_INT k)) lev

/-- r_min (R250). -/
def rMin (s : State) (act : Regs) (k : Nat) (c : EyeCtx) : Nat :=
  let a := levelFrom s act k c (prof s act F.EYE_PROF_CTL.STAGES k)
  if prof s act F.EYE_PROF_CTL.RS_EN k = 1 then cdiv ((a + 15) * 2 ^ 32) (prof s act F.EYE_PROF_STEP.STEP k) else a

/-- σ of R250. -/
def suppression (s : State) (act : Regs) (k : Nat) (c : EyeCtx) : Nat :=
  let rE := cdiv c.from_ (prof s act F.EYE_PROF_NINT.N_INT k * 2 ^ prof s act F.EYE_PROF_CTL.STAGES k)
  let rE' := if prof s act F.EYE_PROF_CTL.RS_EN k = 1 then cdiv (rE * 2 ^ 32) (prof s act F.EYE_PROF_STEP.STEP k) else rE
  rMin s act k c - rE'

/-- floor(Φ(r)) (R248). -/
def phiFloor (s : State) (act : Regs) (k r : Nat) : Int :=
  let n : Int := (prof s act F.EYE_PROF_NINT.N_INT k : Nat)
  let S := prof s act F.EYE_PROF_CTL.STAGES k
  let p64 : Int := if prof s act F.EYE_PROF_CTL.RS_EN k = 1 then ((r * prof s act F.EYE_PROF_STEP.STEP k / 2 ^ 26 : Nat) : Int) - 480 else (64 * r : Nat)
  (n * (2 ^ S * 2 * p64 - 11 * 128 * (2 ^ S - 1)) + 64 * (n - 1)) / 128

/-- The mark of a saturated window component: it lies beyond ±(2^63 - 1), where a further addition leaves it. -/
def intAdd (a b : Int) : Int :=
  if a.natAbs = 2 ^ 63 then a else if 2 ^ 63 - 1 < a + b then 2 ^ 63 else if a + b < -(2 ^ 63 - 1) then -(2 ^ 63) else a + b

/-- Integration of one element's sums (R244). -/
def intSums : List Int → List Int → List Int
  | [], b => b.map (intAdd 0)
  | a, [] => a
  | a :: t, b :: u => intAdd a b :: intSums t u

/-- A saturated component. -/
def intSat (a : Int) : Bool := decide (a.natAbs = 2 ^ 63)

/-- A window's components in binary32 (R244). -/
def windowVals : List Int → List Nat
  | [a, b, c, e] =>
    let one := fun (bad : Bool) (x : Int) => if bad then fp32.nanCode else quot32 x 1
    [one (intSat a || intSat b) (a + b), one (intSat a || intSat b) (a - b), one (intSat c) (2 * c), one (intSat e) (-2 * e)]
  | l => l.map fun a => if intSat a then fp32.infCode false else quot32 a 1

/-- An output of a filter over the samples of a level: coefficient (scale 2^-17) and index of each input (R245). -/
def filterAt (lev : List Sample) (idx : Nat) (taps : List (Int × Nat)) (sh epoch : Nat) : Sample :=
  let ins := taps.map fun t => (t.1, lev.find? fun x => decide (x.idx = t.2))
  let q := maxOf (lev.map fun x => x.vals.length)
  { idx := idx, inc := ins.any (fun i => (i.2.map Sample.inc).getD true), sat := ins.any (fun i => (i.2.map Sample.sat).getD false), epoch := epoch,
    vals := (List.range q).map fun c => exactSum (ins.map fun i => (i.1, (i.2.map fun x => x.vals.getD c 0).getD 0)) (17 + sh) }

/-- A coefficient of an EYE_FILTER set (R248). -/
def coef (s : State) (act : Regs) (k e : Nat) : Int :=
  signed 32 (s.tbNat 11 (bankIn act 11) 0 (4 * (1040 * prof s act F.EYE_PROF_CTL.FSET k + e)) 4)

/-- The taps of a half-band stage for output m (R246). -/
def halfTaps (s : State) (act : Regs) (k m : Nat) : List (Int × Nat) :=
  (65536, 2 * m - 11) :: (List.range 6).flatMap fun r =>
    let a := coef s act k (1024 + r)
    [(a, 2 * m - 11 - (2 * r + 1)), (a, 2 * m - 11 + (2 * r + 1))]

/-- The taps of the resampler for output r (R247). -/
def resampleTaps (s : State) (act : Regs) (k r : Nat) : List (Int × Nat) :=
  let step := prof s act F.EYE_PROF_STEP.STEP k
  let i := r * step / 2 ^ 32
  let ph := r * step / 2 ^ 26 % 64
  (List.range 16).map fun j => (coef s act k (16 * ph + j), i - j)

/-- A sample enters a level, which keeps the latest that a filter can need. -/
def keep (l : List Sample) (x : Sample) : List Sample := (x :: l).take 32

/-- A sample of level `lev` is formed: the outputs that follow from it, and the settled final outputs (R246, R247, R250). The first
argument counts the stages still to pass. -/
def feed (s : State) (act : Regs) (k : Nat) : Nat → Nat → EyeCtx → Sample → EyeCtx × List Sample
  | 0, lev, c, x =>
    let l := keep (c.levels.getD lev []) x
    let c1 := { c with levels := c.levels.take lev ++ [l] }
    if prof s act F.EYE_PROF_CTL.RS_EN k = 1 then
      let step := prof s act F.EYE_PROF_STEP.STEP k
      let lo := max (cdiv (x.idx * 2 ^ 32) step) (rMin s act k c)
      let hi := cdiv ((x.idx + 1) * 2 ^ 32) step
      (c1, (List.range (hi - lo)).map fun j => filterAt l (lo + j) (resampleTaps s act k (lo + j)) 0 x.epoch)
    else (c1, if rMin s act k c ≤ x.idx then [x] else [])
  | n + 1, lev, c, x =>
    let l := keep (c.levels.getD lev []) x
    let c1 := { c with levels := c.levels.take lev ++ [l] ++ c.levels.drop (lev + 1) }
    let m := x.idx / 2
    if x.idx % 2 = 0 ∧ levelFrom s act k c (lev + 1) ≤ m then
      let sh := prof s act F.EYE_PROF_CTL.SH k / 4 ^ lev % 4
      feed s act k n (lev + 1) c1 (filterAt l m (halfTaps s act k m) sh x.epoch)
    else (c1, [])

/-- The integrator takes an element (R241, R244): the context, the saturated windows, and the settled final outputs. A window before a_0 reaches
no output (R250). -/
def integrate (s : State) (act : Regs) (k epoch : Nat) (c : EyeCtx) (u : Nat) (el : Element) : EyeCtx × Nat × List Sample :=
  let n := prof s act F.EYE_PROF_NINT.N_INT k
  let j := u / n
  let old := match c.win with | some (i, e) => if i = j then e else {} | none => {}
  let zero := List.replicate (eyeQ s act k) (0 : Int)
  let sums := intSums (if old.sums = [] then zero else old.sums) el.sums
  let e : Element := { sums := sums, n := 0, inc := old.inc || el.inc, sat := old.sat || el.sat || sums.any intSat }
  if (u + 1) % n ≠ 0 then ({ c with win := some (j, e) }, 0, [])
  else if j < levelFrom s act k c 0 then ({ c with win := none }, b2n e.sat, [])
  else
    let r := feed s act k (prof s act F.EYE_PROF_CTL.STAGES k) 0 { c with win := none }
      { idx := j, vals := windowVals sums, inc := e.inc, sat := e.sat, epoch := epoch }
    (r.1, b2n e.sat, r.2)

end Sys2Proof.Machine
end

