-- ==== Sys2Proof/Machine/Eyepiece.lean ====
section
/-! DEFINITION. The Eyepiece: retunes, thresholds and detectors, series frames, transient capture and the export of the Lens rings
(R249 to R258). -/
namespace Sys2Proof.Machine

/-- The hidden state of an Eyepiece context, replaced. -/
def setEye (s : State) (k : Nat) (c : EyeCtx) : State := { s with eye := { s.eye with ctxs := Tab.put s.eye.ctxs k c } }

/-- The hidden state of an Eyepiece context. -/
def getEye (s : State) (k : Nat) : EyeCtx := Tab.getD s.eye.ctxs k {}

/-- The capture ring, replaced. -/
def setCap (s : State) (c : CapSt) : State := { s with eye := { s.eye with cap := c } }

/-- Capture ring states (Table 11-7). -/
abbrev cpOFF : Nat := 0
abbrev cpROLLING : Nat := 1
abbrev cpCOLLECTING : Nat := 2
abbrev cpFROZEN : Nat := 3
abbrev cpEXPORTING : Nat := 4

/-- EYE_CAP_STATUS.STATE. -/
def capState (s : State) : Nat := s.rd F.EYE_CAP_STATUS.STATE 0
def setCapState (s : State) (v : Nat) : State := s.wr F.EYE_CAP_STATUS.STATE 0 v

/-- Frame contexts of the Eyepiece at a port: series by k, the capture, and ring exports. -/
abbrev capCtx : Nat := 2 ^ 20
abbrev ringCtx (r : Nat) : Nat := 2 ^ 21 + r

/-- SEQ of a KIND and SOURCE, and the state with the next (Table 11-5). -/
def eyeSeq (s : State) (kind src : Nat) : Nat × State :=
  let v := Tab.getD s.eye.seq (kind, src) 0
  (v, { s with eye := { s.eye with seq := Tab.put s.eye.seq (kind, src) ((v + 1) % 2 ^ 32) } })

/-- The Eyepiece frame header (Table 11-5). -/
def eyeHeader (s : State) (kind src flags profile seq index epoch : Nat) : List Byte :=
  beBytes 2 0x4550 ++ beBytes 1 1 ++ beBytes 1 kind ++ beBytes 2 src ++ beBytes 1 flags ++ beBytes 1 profile ++ beBytes 4 seq ++ beBytes 8 index ++
    beBytes 4 epoch ++ beBytes 8 (s.ac F.PO_DEVICE_TAG.TAG 0)

/-- A frame of the Eyepiece, of a sender context, is at a port, ready or being sent: at whichever port was named when it was formed. -/
def eyeFrameAt (s : State) (ctx : Nat) : Bool :=
  (List.range 4).any fun p => ((getPort s p).ready ++ (getPort s p).cur.toList).any fun f => decide (f.sender = .eye) && decide (f.ctx = ctx)

/-- The component that the detectors watch (R251). -/
def watched (s : State) (act : Regs) (k : Nat) (x : Sample) : Nat :=
  x.vals.getD (if isStokes s act k then prof s act F.EYE_PROF_CTL.THR_COMP k else 0) 0

/-- A trigger record onto the event queue (Table 11-4, R354). -/
def trigRecord (s : State) (act : Regs) (k : Nat) (isEnd : Bool) (flags : Nat) (t : TrigSt) (rEnd : Nat) : State :=
  let tail := if isEnd then [(40, 8, t.extIdx), (48, 4, t.ext), (56, 8, rEnd)] else []
  let head := [(16, 1, eyeProfile s act k), (20, 4, s.rd F.GLOBAL_EPOCH_NUM.EPOCH_NUM 0), (24, 8, t.start), (32, 8, t.fsi)]
  pushEvent s { kind := if isEnd then 2 else 1, code := 32, head := flags + 256 * k, tb := s.tb, body := head ++ tail }

/-- The open event of a context ends (R251). -/
def endTrig (s : State) (act : Regs) (k rEnd : Nat) (aborted : Bool) : State :=
  match (getEye s k).trig with
  | none => s
  | some t =>
    let s1 := trigRecord s act k true (b2n aborted + 2 * b2n t.inc + t.capFlags) t rEnd
    setEye s1 k { getEye s1 k with trig := none }

/-- The context is retuned at FSI e (R249, R250). DEDUCED: log entry 72. -/
def retune (s : State) (act : Regs) (k e : Nat) : State :=
  let s1 := endTrig s act k (getEye s k).last true
  let old := getEye s1 k
  let c : EyeCtx := { key := eyeKey s act k, from_ := e, dmax := eyeDmax s act k, dropped := old.dropped, discont := old.discont }
  bump (setEye s1 k c) F.EYE_SETTLE_SUPP.COUNT 0 (suppression s act k c)

/-- The Eyepiece serves a context in a cycle that begins at FSI e: the first time in a new epoch it compares the old and new
entries (R249). -/
def ensureEye (s : State) (act : Regs) (e k : Nat) : State :=
  match Tab.find s.eye.ctxs k with
  | some c => if c.key = eyeKey s act k then s else retune s act k e
  | none => retune s act k e

/-- The samples of a context for a channel block collapse (R241): terms and incompleteness by instant. -/
def collapse (s : State) (act : Regs) (k f u0 : Nat) (xs : List (List Int × Bool)) : State :=
  let d := eyeDelay s act k f
  let c := getEye s k
  let els := xs.zipIdx.foldl (fun els x =>
    let u := u0 + x.2 + d
    let el := Tab.getD els u {}
    Tab.put els u { sums := addTerms el.sums x.1.1, n := el.n + 1, inc := el.inc || x.1.2, sat := el.sat }) c.els
  setEye s k { c with els := els }

/-- The cycle of the run that holds an FSI: the latest up to a cycle that does not begin after it. -/
def cycleHolding (s : State) (upto u : Nat) : Nat :=
  ((s.pv.cycles.find? fun c => decide (c.2.1 ≤ upto) && decide (c.2.2 ≤ u)).map fun c => c.2.1).getD 0

/-- The contexts that the capture ring records (R255). -/
def capContexts (s : State) (act : Regs) : List Nat := (eyeContexts s act).filter fun k => bit (eyeEntry s act k 5 1) 0

/-- The size of the capture ring: its region, of at most 8 GiB. -/
def capSize (s : State) (act : Regs) : Nat := min (regionSize s (Regs.rd act F.EYE_REGIONS.CAPTURE_REGION 0)) (2 ^ 33)

/-- Z, and H (R255). -/
def capZ (s : State) (act : Regs) : Nat := ((capContexts s act).map fun k => lensFk s act k * recordLen (lensFormat s act k) (actT act)).sum
def capH (s : State) (act : Regs) : Nat :=
  let big := maxOf ((capContexts s act).map fun k => recordLen (lensFormat s act k) (actT act))
  if capZ s act = 0 then 0 else (capSize s act - big) / capZ s act

/-- Records that two byte ranges overwrite leave the ring. -/
def overwritten (recs : List (Nat × Nat × Nat × Nat)) (lo hi : Nat) : List (Nat × Nat × Nat × Nat) :=
  recs.filter fun r => decide (r.2.1 < hi) && decide (lo < r.2.1 + r.2.2.1)

/-- The capture ring takes records. -/
def capWriting (s : State) : Bool := !hung s 7 && (decide (capState s = cpROLLING) || decide (capState s = cpCOLLECTING))

/-- A record enters the capture ring, over the oldest ones (R255). DEDUCED: log entry 73. -/
def capRecord (s : State) (act : Regs) (cyc k : Nat) (rec_ : List Byte) : State :=
  if capWriting s = false then s else
    let c := s.eye.cap
    let size := capSize s act
    let base := regionBase s (Regs.rd act F.EYE_REGIONS.CAPTURE_REGION 0)
    let at_ := if c.wr + rec_.length ≤ size then c.wr else 0
    let s1 := if at_ = c.wr then s else s.hbmWrite (base + c.wr) (skipBytes (size - c.wr))
    let s2 := s1.hbmWrite (base + at_) rec_
    let gone := overwritten c.recs at_ (at_ + rec_.length) ++ (if at_ = c.wr then [] else overwritten c.recs c.wr size)
    let kept := (c.recs.filter fun r => !gone.contains r) ++ [(cyc, at_, rec_.length, k)]
    let wr := if at_ + rec_.length = size then 0 else at_ + rec_.length
    setCap s2 { c with wr := wr, recs := kept, oldest := max c.oldest (maxOf (gone.map fun r => r.1 + 1)) }

/-- A trigger of the capture at FSI u in cycle cy (Table 11-7): its flags in the trigger record. -/
def capTrigger (s : State) (act : Regs) (u cy k : Nat) (forced : Bool) : State × Nat :=
  let c := s.eye.cap
  let lo : Int := (cy : Int) - (Regs.rd act F.EYE_CAP_CFG.PRE 0 : Nat)
  let hi := cy + Regs.rd act F.EYE_CAP_CFG.POST 0
  if capState s = cpOFF then (s, 0)
  else if capState s = cpROLLING then
    let trunc := decide (lo < (c.oldest : Nat))
    let n : Capture_ := { u := u, k := k, forced := forced, trunc := trunc, lo := lo, first := max lo.toNat c.oldest, last := hi, number := c.count + 1 }
    let s1 := bump (setCapState (setCap s { c with cap := some n, count := c.count + 1, sent := 0 }) cpCOLLECTING) F.EYE_CAPTURES.COUNT 0 1
    let s2 := s1.wr F.EYE_CAP_STATUS.TRUNCATED 0 (b2n trunc)
    (if trunc then setErr s2 Err.EYE.unit Err.EYE.CAP_TRUNC 0 else s2, 4)
  else match c.cap with
    | some p => if p.lo ≤ lo ∧ hi ≤ p.last then (bump s F.EYE_CAP_COVERED.COUNT 0 1, 8)
      else (setErr (bump s F.EYE_CAP_MISSED.COUNT 0 1) Err.EYE.unit Err.EYE.CAP_MISSED 0, 16)
    | none => (setErr (bump s F.EYE_CAP_MISSED.COUNT 0 1) Err.EYE.unit Err.EYE.CAP_MISSED 0, 16)

/-- The threshold state at a settled final output of a cycle that closes (Table 11-3). -/
def threshold (s : State) (y : EyeCycle) (k : Nat) (x : Sample) : State :=
  let act := y.act
  let z := watched s act k x
  if prof s act F.EYE_PROF_CTL.THR_EN k = 0 ∨ isNaN32 z = true then s else
    let fall := decide (prof s act F.EYE_PROF_CTL.THR_DIR k = 1)
    let before := fun a b => if fall then lt32 b a else lt32 a b
    let hi := prof s act F.EYE_PROF_THI.THI k
    let lo0 := prof s act F.EYE_PROF_TLO.TLO k
    let lo := if before hi lo0 then hi else lo0
    match (getEye s k).trig with
    | none =>
      if before z hi || x.inc then s else
        let fsi := (phiFloor s act k x.idx).toNat
        let t := if bit (eyeEntry s act k 5 1) 1 then capTrigger s act fsi (cycleHolding s y.cyc fsi) k false else (s, 0)
        let ev : TrigSt := { start := x.idx, fsi := fsi, extIdx := x.idx, ext := z, inc := false, capFlags := t.2 }
        let s1 := bump (trigRecord t.1 act k false t.2 ev 0) F.EYE_TRIGGERS.COUNT 0 1
        setEye s1 k { getEye s1 k with trig := some ev }
    | some t =>
      let t1 := { t with inc := t.inc || x.inc }
      if before z lo then endTrig (setEye s k { getEye s k with trig := some t1 }) act k x.idx false
      else
        let t2 := if before t.ext z then { t1 with ext := z, extIdx := x.idx } else t1
        setEye s k { getEye s k with trig := some t2 }

/-- PEAK and its index over an interval (R252). DEDUCED: log entry 72. -/
def peakOf (s : State) (act : Regs) (k : Nat) (l : List Sample) : Option (Nat × Nat) :=
  l.foldl (fun m x =>
    let z := watched s act k x
    if isNaN32 z then m else match m with
      | some (v, i) => if lt32 v z then some (z, x.idx) else some (v, i)
      | none => some (z, x.idx)) none

/-- rn32(sqrt(m · 2^e / n)) (R252). -/
def rootMean (m n : Nat) (e : Int) : Nat :=
  if m = 0 then 0 else
    let j0 : Int := 66 + (Nat.log2 n : Nat)
    let j := if (e - j0) % 2 = 0 then j0 else j0 + 1
    let x := m * 2 ^ j.toNat
    let r := isqrt (x / n)
    let exact := decide (r * r = x / n) && decide (x % n = 0)
    fp32.round (.fin false (2 * r + b2n (!exact)) ((e - j) / 2 - 1))

/-- RMS over an interval (R252). -/
def rmsOf (zs : List Nat) : Nat :=
  let fin := zs.filter fun z => !isNaN32 z && !isInf32 z
  if zs.any isInf32 then fp32.infCode false
  else if fin.isEmpty then fp32.nanCode
  else match fin.foldl (fun acc z => acc.add ((fp32.decode z).mul (fp32.decode z))) (Fp.fin false 0 0) with
    | .fin _ m e => rootMean m fin.length e
    | _ => fp32.nanCode

/-- The envelope at a settled sample (R252). DEDUCED: log entry 72. -/
def envelope (s : State) (act : Regs) (k : Nat) (env : Option Nat) (z : Nat) : Option Nat :=
  if isNaN32 z then env else
    match env with
    | none => some z
    | some e =>
      let d := mul32 e (prof s act F.EYE_PROF_DECAY.DECAY k)
      some (if lt32 z d then d else z)

/-- The series block and samples of a frame (Table 11-6). PEAK of an interval without a number, and ENV before one, are open. -/
def seriesBlock (s : State) (act : Regs) (k : Nat) (c : EyeCtx) (dropped : Nat) : List Byte :=
  let l := c.final
  let first := (l.head?.map Sample.idx).getD 0
  let pk := peakOf s act k l
  let zs := l.map (watched s act k)
  beBytes 2 l.length ++ beBytes 1 (eyeQ s act k) ++ beBytes 1 dropped ++ beBytes 2 (l.filter Sample.inc).length ++ beBytes 2 (l.filter Sample.sat).length ++
    beBytes 8 (unsigned 64 (phiFloor s act k first)) ++ beBytes 4 ((pk.map Prod.fst).getD (Config.freeValue s.free)) ++
    beBytes 2 ((pk.map fun p => p.2 - first).getD 0xFFFF) ++ [0, 0] ++ beBytes 4 (rmsOf zs) ++ beBytes 4 (c.env.getD (Config.freeValue (s.free + 1))) ++
    l.flatMap fun x => x.vals.flatMap (leBytes 4)

/-- A series frame that has not begun is dropped when the next of its context is ready (R254). -/
def dropSeries (s : State) (k : Nat) : State :=
  let s1 := dropWaiting s .eye k
  raise (setErr (bump s1 F.EYE_BEAM_DROP.COUNT 0 1) Err.EYE.unit Err.EYE.BEAM_DROP (k * 256)) 8 [2, k]

/-- The series frame of the interval in progress (R253, R254), when it holds a settled output. -/
def sendSeries (s : State) (act : Regs) (k : Nat) : State :=
  let c := getEye s k
  let clear := fun (s : State) => setEye s k { getEye s k with final := [] }
  if c.final.isEmpty || decide (prof s act F.EYE_PROF_CTL.OUT_EN k = 0) then clear s else
    let p := prof s act F.EYE_PROF_CTL.PORT k
    let late := waitingFrame s .eye k
    let dropped := if late then min 255 (c.dropped + 1) else 0
    let s1 := if late then dropSeries s k else s
    let q := eyeSeq s1 1 k
    let x := c.final.headD { idx := 0, vals := [], inc := false, sat := false, epoch := 0 }
    let payload := eyeHeader s 1 k (6 + b2n (decide (0 < dropped))) (eyeProfile s act k) q.1 x.idx x.epoch ++ seriesBlock s act k c dropped
    let s2 := setEye { q.2 with free := q.2.free + 2 } k { c with final := [], dropped := dropped }
    offerFrame s2 p { sender := .eye, ctx := k, bytes := buildFrame s2 (prof s act F.EYE_PROF_CTL.HDR_IDX k) payload }

/-- A settled final output (R251 to R253). -/
def settled (s : State) (y : EyeCycle) (k : Nat) (x : Sample) : State :=
  let act := y.act
  let s1 := threshold s y k x
  let c := getEye s1 k
  let s2 := setEye s1 k { c with final := c.final ++ [x], env := envelope s act k c.env (watched s act k x), last := x.idx }
  if (x.idx + 1) % prof s act F.EYE_PROF_REPORT.REPORT_N k = 0 then sendSeries s2 act k else s2

/-- One collapsed instant of a closing cycle (R241). -/
def closeInstant (y : EyeCycle) (k : Nat) (s : State) (u : Nat) : State :=
  let act := y.act
  let c := getEye s k
  let el := Tab.getD c.els u {}
  let el1 := if el.n < lensFk s act k then { el with inc := true } else el
  let r := integrate s act k y.epochNum { c with els := Tab.del c.els u } u el1
  let s1 := setEye s k r.1
  let s2 := if r.2.1 = 0 then s1 else setErr (bump s1 F.EYE_INT_SAT.COUNT 0 1) Err.EYE.unit Err.EYE.INT_SAT (k * 256)
  r.2.2.foldl (fun s x => settled s y k x) s2

/-- `eyepiece.close_cycle` for a context. -/
def closeContext (y : EyeCycle) (s : State) (k : Nat) : State :=
  ((List.range y.T).map (· + y.first)).foldl (closeInstant y k) (ensureEye s y.act y.first k)

/-- A context that is no Eyepiece context any more: its open event ends (R249). -/
def dropContext (act : Regs) (s : State) (k : Nat) : State :=
  let s1 := endTrig s act k (getEye s k).last true
  { s1 with eye := { s1.eye with ctxs := Tab.del s1.eye.ctxs k } }

/-- Numbers in ascending order. -/
def ascend (l : List Nat) : List Nat := l.foldr (fun a t => (t.filter fun b => decide (b < a)) ++ a :: t.filter fun b => decide (a ≤ b)) []

/-- The records of a capture that the ring holds, oldest first. -/
def capRecs (c : CapSt) (p : Capture_) : List (Nat × Nat × Nat × Nat) := c.recs.filter fun r => decide (p.first ≤ r.1) && decide (r.1 ≤ p.last)

/-- The collection ends (Table 11-7): START and LENGTH of the capture, from its first record to the end of its last, and its route. -/
def capFinish (s : State) (act : Regs) : State :=
  let c := s.eye.cap
  match c.cap with
  | none => s
  | some p =>
    let recs := capRecs c p
    let start := (recs.head?.map fun r => r.2.1).getD c.wr
    let stop := (recs.getLast?.map fun r => r.2.1 + r.2.2.1).getD c.wr
    let len := if recs.isEmpty then 0 else if stop ≤ start then capSize s act - start + stop else stop - start
    let s1 := (s.wr F.EYE_CAP_START.OFFSET 0 start).wr F.EYE_CAP_LEN.LENGTH 0 len
    setCapState s1 (if Regs.rd act F.EYE_CAP_CFG.ROUTE 0 = 1 then cpEXPORTING else cpFROZEN)

/-- The collection ends before its window does, truncated (R256). -/
def capCut (s : State) (act : Regs) : State :=
  let c := s.eye.cap
  let s1 := setErr (s.wr F.EYE_CAP_STATUS.TRUNCATED 0 1) Err.EYE.unit Err.EYE.CAP_TRUNC 0
  capFinish (setCap s1 { c with cap := c.cap.map fun p => { p with trunc := true } }) act

/-- The capture block and the records of a capture that is exported (R256). DEDUCED: log entry 73. -/
def capStream (s : State) : List Byte :=
  let c := s.eye.cap
  match c.cap with
  | none => []
  | some p =>
    let recs := capRecs c p
    let base := regionBase s (s.ac F.EYE_REGIONS.CAPTURE_REGION 0)
    let body := recs.flatMap fun r => s.hbmRead (base + r.2.1) r.2.2.1
    let cycles := (recs.map fun r => r.1).dedup.length
    beBytes 8 p.u ++ beBytes 2 (if p.forced then 0xFFFF else p.k) ++ beBytes 1 (b2n p.trunc + 2 * b2n p.forced) ++ [0] ++ beBytes 4 p.number ++
      beBytes 8 (leAt body 8 8) ++ beBytes 4 cycles ++ beBytes 8 body.length ++ List.replicate 28 0 ++ body

/-- The next frame of the capture that is exported. DEDUCED: log entry 73. -/
def capFrame (s : State) : State :=
  let c := s.eye.cap
  let all := capStream s
  let part := (all.drop c.sent).take 8192
  let q := eyeSeq s 2 0
  let flags := 2 * b2n (decide (c.sent = 0)) + 4 * b2n (decide (c.sent + part.length = all.length))
  let payload := eyeHeader s 2 0 flags 0 q.1 c.sent (leAt all (64 + 24) 4) ++ part
  let s1 := setCap q.2 { c with sent := c.sent + part.length }
  offerFrame s1 (s.ac F.EYE_CAP_CFG.CAP_PORT 0) { sender := .eye, ctx := capCtx, bytes := buildFrame s1 (s.ac F.EYE_CAP_CFG.CAP_HDR 0) payload }

/-- The capture has left its port. -/
def capSent (s : State) : Bool :=
  decide ((capStream s).length ≤ s.eye.cap.sent) && !eyeFrameAt s capCtx

/-- Frames of an exported capture go to the port one at a time; a port with its link down takes them all. -/
def capPump : Nat → State → State
  | 0, s => s
  | n + 1, s =>
    if capState s = cpEXPORTING ∧ eyeFrameAt s capCtx = false ∧ s.eye.cap.sent < (capStream s).length then
      capPump n (capFrame s)
    else if capState s = cpEXPORTING ∧ capSent s = true ∧ (s.ac F.EYE_CAP_CFG.EN 0 = 0 ∨ s.dp ≤ dpIDLE) then setCapState (setCap s { s.eye.cap with cap := none }) cpOFF
    else s

/-- LENS_RING_RD of ring r moves past its record. -/
def ringAdvance (s : State) (r len : Nat) : State :=
  let rd := s.rd F.LENS_RING_RD.RD r + len
  { s.wr F.LENS_RING_RD.RD r (if rd = lensRingSize s s.act then 0 else rd) with eye := { s.eye with exports := Tab.put s.eye.exports r 0 } }

/-- The next frame of the record at RD of an exported ring (R257). -/
def ringFrame (s : State) (r : Nat) : State :=
  let a := lensRingBase s s.act r + s.rd F.LENS_RING_RD.RD r
  let len := s.hbmNat (a + 28) 4
  let off := Tab.getD s.eye.exports r 0
  let n := min 8192 (len - off)
  let q := eyeSeq s 3 r
  let flags := 2 * b2n (decide (off = 0)) + 4 * b2n (decide (off + n = len))
  let payload := eyeHeader s 3 r flags 0 q.1 off (s.hbmNat (a + 24) 4) ++ s.hbmRead (a + off) n
  let s1 := { q.2 with eye := { q.2.eye with exports := Tab.put q.2.eye.exports r (off + n) } }
  offerFrame s1 (s.ac F.EYE_RING_EXP.PORT r) { sender := .eye, ctx := ringCtx r, bytes := buildFrame s1 (s.ac F.EYE_RING_EXP.HDR_IDX r) payload }

/-- Frames of an exported ring go to the port one at a time, and RD follows when a record's last frame has left, EN = 1 or not (R257). -/
def ringPump (r : Nat) : Nat → State → State
  | 0, s => s
  | n + 1, s =>
    let rd := s.rd F.LENS_RING_RD.RD r
    let a := lensRingBase s s.act r + rd
    let len := s.hbmNat (a + 28) 4
    let sent := Tab.getD s.eye.exports r 0
    if rd = s.rd F.LENS_RING_WR.WR r ∨ eyeFrameAt s (ringCtx r) = true then s
    else if 0 < sent ∧ len ≤ sent then ringPump r n (ringAdvance s r len)
    else if s.ac F.EYE_RING_EXP.EN r = 0 then s
    else if Memory.get s.hbm (a + 3) = 0xFF then ringPump r n (ringAdvance s r len)
    else ringPump r n (ringFrame s r)

/-- What the Eyepiece exports in the background takes its next step. -/
def eyePump (s : State) : State :=
  let s1 := capPump (s.eye.cap.recs.length * 2 ^ 16 + 2) s
  (List.range 16).foldl (fun s r => ringPump r (lensRingSize s s.act / 32 + 2) s) s1

/-- A cycle begins for the capture ring (Table 11-7). -/
def capCycle (s : State) : State :=
  let act := s.le.act
  let en := Regs.rd act F.EYE_CAP_CFG.EN 0 = 1
  let z := capZ s act
  let s0 := s.wr F.EYE_CAP_STATUS.H 0 (min (capH s act) 0xFFFF)
  let fresh := fun (s : State) => setCapState (setCap s { s.eye.cap with wr := 0, recs := [], oldest := s.le.cyc, cap := none, released := false, z := z }) cpROLLING
  if capState s = cpEXPORTING then (if capSent s then (if en then fresh s0 else setCapState s0 cpOFF) else s0)
  else if ¬ en then setCapState s0 cpOFF
  else if capState s = cpOFF then (if s.dp = dpRUNNING then fresh s0 else s0)
  else if capState s = cpFROZEN then (if s.eye.cap.released then fresh s0 else s0)
  else if capState s = cpCOLLECTING ∧ z ≠ s.eye.cap.z then capCut s0 act
  else setCap s0 { s0.eye.cap with z := z }

/-- The capture at the close of a cycle: its records of the cycle are complete (R256). -/
def capClose (s : State) (y : EyeCycle) : State :=
  match capState s, s.eye.cap.cap with
  | 2, some p => if p.last ≤ y.cyc then capFinish s y.act else s
  | _, _ => s

/-- The steps of Table 11-8 for a cycle. -/
def closeCycle (s : State) (y : EyeCycle) : State :=
  let ks := eyeContexts s y.act
  let s1 := (ascend ((s.eye.ctxs.map Prod.fst).filter fun k => !ks.contains k)).foldl (dropContext y.act) { s with eye := { s.eye with pend := none } }
  capClose (ks.foldl (closeContext y) s1) y

/-- At a STOP: open intervals are sent, and open events end, in ascending k (R251, R253). The capture ring goes to OFF once the STOP has completed
(Table 11-7). -/
def eyeStop (s : State) (act : Regs) : State :=
  let one := fun (s : State) (k : Nat) => endTrig (sendSeries s act k) act k (getEye s k).last true
  let s1 := (ascend (s.eye.ctxs.map Prod.fst)).foldl one s
  if s1.dp = dpIDLE then captureOff s1 else s1

/-- The cycle that waits is closed before anything of the next one is served. DEDUCED: log entry 72. -/
def settleClose (s : State) : State :=
  match s.eye.pend with
  | none => s
  | some y => eyePump (capCycle (closeCycle s y))

/-- CAPTURE_FORCE (R255): u is the first FSI of the cycle that the Lens is serving. DEDUCED: log entry 73. -/
def captureForce (s : State) : State :=
  if capState s = cpOFF then s else (capTrigger s s.act s.le.fsi s.le.cyc 0 true).1

/-- CAPTURE_RELEASE (R256): from the next cycle boundary. -/
def captureRelease (s : State) : State :=
  if capState s = cpFROZEN then setCap s { s.eye.cap with released := true } else s

end Sys2Proof.Machine
end

