-- ==== Sys2Proof/Machine/Trellis.lean ====
section
/-! DEFINITION. The Trellis: the tree, units and their parts, reduction, deadlines and root output (chapter 12). -/
namespace Sys2Proof.Machine

/-- The Trellis' hidden state, replaced. -/
def setTr (s : State) (x : TrellisSt) : State := { s with tr := x }

/-- The subtree size of a node in a tree of `nodes` nodes (R262). -/
def subtree (nodes : Nat) : Nat → Nat → Nat
  | 0, _ => 0
  | d + 1, n => if n < nodes then 1 + subtree nodes d (2 * n + 1) + subtree nodes d (2 * n + 2) else 0

/-- NODE_ID and NODES under a set of active fields. -/
def nodeId (act : Regs) : Nat := Regs.rd act F.TR_CFG.NODE_ID 0
def nodeCount (act : Regs) : Nat := Regs.rd act F.TR_CFG.NODES 0

/-- The subtree size of this node. -/
def mySubtree (act : Regs) : Nat := subtree (nodeCount act) 9 (nodeId act)

/-- The left and right child exist (R262). -/
def hasLeft (act : Regs) : Bool := decide (2 * nodeId act + 1 < nodeCount act)
def hasRight (act : Regs) : Bool := decide (2 * nodeId act + 2 < nodeCount act)

/-- The epoch that ends at the target of the armed one stays known, for the units of it that this node still holds or meets (R30). -/
def notePast (old s : State) : State :=
  match old.glob.armed with
  | some a => setTr s { s.tr with past := { E := old.E, upto := some a.target, act := old.act } :: s.tr.past }
  | none => s

/-- TR_STATUS at an epoch. -/
def trellisEpoch (s : State) : State :=
  (((s.wr F.TR_STATUS.SUBTREE 0 (mySubtree s.act)).wr F.TR_STATUS.RIGHT 0 (b2n (hasRight s.act))).wr F.TR_STATUS.LEFT 0 (b2n (hasLeft s.act))).wr
    F.TR_STATUS.ROOT 0 (b2n (decide (nodeId s.act = 0)))

/-- P, the instants of a unit (chapter 12). -/
def unitP (act : Regs) : Nat := if actT act = 256 then 256 else 512

/-- The first coarse sample of an epoch, which no other epoch of the run has. -/
def epochBase (r : EpochRef) : Nat := r.E * actM r.act

/-- The epochs whose units this node can meet: the armed one, the one in force and those of the run before it; none while the data plane is
not in a run (R273). A unit belongs to its epoch by its sample index, not by the time at which it is met (R30). -/
def epochsOf (s : State) : List EpochRef :=
  let armed := match s.glob.armed with
    | some a => if a.stop then [] else [{ E := (armedCsi s).getD 0 / actM a.capt, act := a.capt : EpochRef }]
    | none => []
  let upto := if s.dp = dpSTOPPING then some (s.glob.stopAt / s.M) else s.glob.armed.map Armed.target
  if s.dp ≤ dpIDLE then [] else armed ++ (if s.dp = dpARMED then [] else { E := s.E, upto := upto, act := s.act } :: s.tr.past)

/-- An FSI lies in an epoch. -/
def epochHolds (r : EpochRef) (fsi : Nat) : Bool := decide (r.E ≤ fsi) && r.upto.all fun u => decide (fsi < u)

/-- The epoch of the Lens window. -/
def windowEpoch (s : State) : EpochRef := { E := s.le.from_.getD 0, act := s.le.act }

/-- A context is a Trellis context of an epoch, and a unit of the epoch lies on its grid (R265). DEDUCED: log entry 74. -/
def isUnit (s : State) (r : EpochRef) (k f fsi instants : Nat) : Bool :=
  epochHolds r fsi && lensEn s r.act k && decide (lensRoute s r.act k = 1) && lensHolds s r.act k f && decide (instants = unitP r.act) &&
    decide (fsi % unitP r.act = r.E % unitP r.act)

/-- A unit has the key of an epoch, context, fine channel and FSI. -/
def unitIs (r : EpochRef) (k f fsi : Nat) (u : Unit_) : Bool := decide (epochBase u.ep = epochBase r ∧ u.k = k ∧ u.f = f ∧ u.fsi = fsi)

/-- The held unit of a key. -/
def findUnit (s : State) (r : EpochRef) (k f fsi : Nat) : Option Unit_ := s.tr.units.find? (unitIs r k f fsi)

/-- The held unit of a context, fine channel and FSI, of whichever epoch, oldest first. -/
def heldUnit (s : State) (k f fsi : Nat) : Option Unit_ := s.tr.units.find? fun u => decide (u.k = k ∧ u.f = f ∧ u.fsi = fsi)

/-- A held unit, replaced or entered. -/
def putUnit (s : State) (u : Unit_) : State :=
  setTr s { s.tr with units := (s.tr.units.filter fun v => !unitIs u.ep u.k u.f u.fsi v) ++ [u] }

/-- Bytes of the parts in the hold region (R271). -/
def heldBytes (s : State) : Nat :=
  (s.tr.units.map fun u => ((u.own.toList ++ u.left.toList ++ u.right.toList).map fun p => 12 * p.sums.length).sum).sum

/-- The hold region has room for one more part (R272). -/
def holdRoom (s : State) (act : Regs) : Bool :=
  !hung s 8 && decide (heldBytes s + 12 * unitP act ≤ regionSize s (Regs.rd act F.TR_REGIONS.HOLD_REGION 0))

/-- A part that finds no room is absent (R272). -/
def holdFull (s : State) : State := setErr (bump s F.TR_HOLD_FULL.COUNT 0 1) Err.TR.unit Err.TR.HOLD_FULL 0

/-- The deadline of a unit of an epoch (R268). -/
def unitDeadline (s : State) (r : EpochRef) (f fsi : Nat) : Int :=
  let act := r.act
  let T := actT act
  let ec := fsi - (fsi - r.E) % T + T
  let a := anchorAt s ((ec * actM act : Nat) : Int)
  timeOf s ((ec * actM act : Nat) : Int) + (((f + 1) * T * a.den * secUnits / (actC act * a.num) : Nat) : Int) +
    ((Regs.rd act F.TR_DEADLINE.DEADLINE 0 * 1000 * nsUnits : Nat) : Int)

/-- One addition of `trellis.unit`: the sums with the number of saturated components (R266). -/
def addPart (acc : List Cx × Nat × Nat × Nat × Nat) (p : Option Part) : List Cx × Nat × Nat × Nat × Nat :=
  match p with
  | none => acc
  | some q =>
    let pre := (acc.1.zip q.sums).map fun x => cxAdd x.1 x.2
    let out := pre.map (cxMap fun v => sat v 48)
    (out, acc.2.1 + ((pre.zip out).map fun x => cxDiff x.1 x.2).sum, acc.2.2.1 + q.nodes, acc.2.2.2.1 + q.inputs, acc.2.2.2.2 + q.valid)

/-- The Trellis header (Table 12-1). DEDUCED: log entry 74. -/
def trellisHeader (s : State) (act : Regs) (u : Unit_) (kind flags fmt dst nodes shift inputs valid seq : Nat) : List Byte :=
  beBytes 2 0x5452 ++ beBytes 1 1 ++ beBytes 1 kind ++ beBytes 1 flags ++ beBytes 1 fmt ++ beBytes 1 (nodeId act) ++ beBytes 1 dst ++
    beBytes 2 (Regs.rd act F.TR_TREE.TREE_ID 0) ++ beBytes 2 u.k ++ beBytes 2 u.f ++ beBytes 2 (unitP act) ++ beBytes 8 u.fsi ++ beBytes 2 nodes ++
    beBytes 1 shift ++ [0] ++ beBytes 4 inputs ++ beBytes 8 valid ++ beBytes 4 (s.rd F.GLOBAL_EPOCH_NUM.EPOCH_NUM 0) ++ beBytes 4 seq

/-- A unit sent to the parent, when the express queue has room (R264, R273). -/
def sendUp (s : State) (act : Regs) (u : Unit_) (flags : Nat) (r : List Cx × Nat × Nat × Nat × Nat) : State :=
  let p := Regs.rd act F.TR_LINK.UP_PORT 0
  let body := r.1.flatMap fun x => leBytes 6 (unsigned 48 x.1) ++ leBytes 6 (unsigned 48 x.2)
  let payload := trellisHeader s act u 1 flags 0xFF ((nodeId act - 1) / 2) r.2.2.1 0 r.2.2.2.1 r.2.2.2.2 s.tr.seqUp ++ body
  let f : TxFrame := { sender := .partial_, ctx := u.k, express := true, bytes := buildFrame s (Regs.rd act F.TR_LINK.UP_HDR 0) payload }
  let queued := (((getPort s p).ready.filter fun g => decide (g.sender = .partial_)).map fun g => g.bytes.length).sum
  if linkUp s p && decide (4 * 2 ^ 20 < queued + f.bytes.length) then setErr (bump s F.TR_TX_DROP.COUNT 0 1) Err.TR.unit Err.TR.TX_DROP 0
  else offerFrame (setTr s { s.tr with seqUp := (s.tr.seqUp + 1) % 2 ^ 32 }) p f

/-- A unit sent by the root (R270). The port gives the frame its SEQ as it takes it, so that a frame dropped whole uses none (R264). -/
def sendRoot (s : State) (act : Regs) (u : Unit_) (flags : Nat) (r : List Cx × Nat × Nat × Nat × Nat) : State :=
  let p := Regs.rd act F.TR_LINK.ROOT_PORT 0
  let late := waitingFrame s .root u.k
  let s1 := if late then
      raise (setErr (bump (dropWaiting s .root u.k) F.TR_ROOT_DROP.COUNT 0 1) Err.TR.unit Err.TR.ROOT_DROP 0) 8 [3, u.k]
    else s
  let y := formatOut s act u.k r.1
  let payload := trellisHeader s act u 2 (flags + 2 * b2n late) (lensFormat s act u.k) 0xFF r.2.2.1 (lensShift s act u.k) r.2.2.2.1 r.2.2.2.2
    0 ++ y.1.flatMap (outBytes (lensFormat s act u.k))
  let s2 := countOut s1 y.2
  offerFrame s2 p { sender := .root, ctx := u.k, bytes := buildFrame s2 (Regs.rd act F.TR_LINK.ROOT_HDR 0) payload }

/-- A child is absent at the deadline (R267): the event once per child per integration. DEDUCED: log entry 74. -/
def childMiss (s : State) (child : Nat) : State :=
  let s1 := setErr (bump s F.TR_CHILD_MISS.COUNT 0 1) Err.TR.unit Err.TR.CHILD_MISS child
  if s1.tr.missed.contains child then s1 else raise (setTr s1 { s1.tr with missed := child :: s1.tr.missed }) 23 [child]

/-- A unit is reduced and forwarded under its own epoch (R266). -/
def forwardUnit (s : State) (u : Unit_) : State :=
  let act := u.ep.act
  let s1 := if hasLeft act && u.left.isNone then childMiss s (2 * nodeId act + 1) else s
  let s2 := if hasRight act && u.right.isNone then childMiss s1 (2 * nodeId act + 2) else s1
  let zero : List Cx := List.replicate (unitP act) (0, 0)
  let r := addPart (addPart (addPart (zero, 0, 0, 0, 0) u.left) u.own) u.right
  let s3 := if r.2.1 = 0 then s2 else setErr (bump s2 F.TR_SAT.COUNT 0 r.2.1) Err.TR.unit Err.TR.SAT 0
  let s4 := setTr s3 { s3.tr with units := s3.tr.units.filter fun v => !unitIs u.ep u.k u.f u.fsi v }
  let flags := b2n (decide (r.2.2.1 < mySubtree act))
  let s5 := bump s4 F.TR_UNITS.COUNT 0 1
  if nodeId act = 0 then sendRoot s5 act u flags r else sendUp s5 act u flags r

/-- Every existing child's part is present. -/
def childrenPresent (act : Regs) (u : Unit_) : Bool := (!hasLeft act || u.left.isSome) && (!hasRight act || u.right.isSome)

/-- A unit is forwarded when its own part is ready and its children are present or its deadline has come (R267). -/
def tryForward (s : State) (r : EpochRef) (k f fsi : Nat) : State :=
  match findUnit s r k f fsi with
  | none => s
  | some u => if u.ready && (childrenPresent u.ep.act u || decide (unitDeadline s u.ep f fsi ≤ s.tb)) then forwardUnit s u else s

/-- The own part of a unit is ready, or lost with the Lens' channel block (R266, R230). -/
def ownPart (s : State) (k f fsi : Nat) (part : Option Part) : State :=
  let r := windowEpoch s
  let u := (findUnit s r k f fsi).getD { ep := r, k := k, f := f, fsi := fsi }
  let s1 := match part with
    | some _ => if holdRoom s r.act then putUnit s { u with ready := true, own := part } else holdFull (putUnit s { u with ready := true })
    | none => putUnit s { u with ready := true }
  tryForward s1 r k f fsi

/-- The own parts of a context's channel block: T / P units (R264). -/
def ownParts (s : State) (k f fsi : Nat) (b : Option BeamOut) : State :=
  let p := unitP s.le.act
  (List.range (actT s.le.act / p)).foldl (fun s j =>
    ownPart s k f (fsi + j * p) (b.map fun o =>
      { sums := (o.sums.drop (j * p)).take p, nodes := 1, inputs := o.inputs, valid := ((o.counts.drop (j * p)).take p).sum })) s

/-- A unit's channel block lies before the one in the window, or its context has been served in it: with no held unit, it has been
forwarded (R265). -/
def unitPassed (s : State) (r : EpochRef) (k f fsi : Nat) : Bool :=
  let w := windowEpoch s
  let T := actT s.le.act
  if s.le.from_.isNone then false
  else if epochBase r ≠ epochBase w then decide (epochBase r < epochBase w)
  else decide (fsi < s.le.fsi) || (decide (fsi < s.le.fsi + T) && (decide (f < s.le.f) || (decide (f = s.le.f) &&
    (decide (k < s.le.nextK) || s.le.lost.contains k || !s.le.isOpen))))

/-- The parts of a partial frame (Table 12-1). -/
def framePart (pl : List Byte) (n : Nat) : Part :=
  let comp := fun off => signed 48 (leAt pl off 6)
  { sums := (List.range n).map fun t => (comp (48 + 12 * t), comp (54 + 12 * t)), nodes := beAt pl 24 2, inputs := beAt pl 28 4, valid := beAt pl 32 8 }

/-- SEQ of a child is recorded, and a gap in it (R265). -/
def noteChildSeq (s : State) (child seq : Nat) : State :=
  let s1 := setTr s { s.tr with childSeq := Tab.put s.tr.childSeq child seq }
  match Tab.find s.tr.childSeq child with
  | some old => if seq = (old + 1) % 2 ^ 32 then s1 else setErr (bump s1 F.TR_SEQ_GAP.COUNT 0 1) Err.TR.unit Err.TR.SEQ_GAP child
  | none => s1

/-- The epoch of the unit that a child's frame names: of the unit held, else of one not yet forwarded, else of one that was; none when this
node has no such unit (R265). -/
def epochFor (s : State) (k f fsi instants : Nat) : Option EpochRef :=
  let held := (s.tr.units.find? fun u => decide (u.k = k ∧ u.f = f ∧ u.fsi = fsi) && decide (instants = unitP u.ep.act)).map Unit_.ep
  let mine := (epochsOf s).filter fun r => isUnit s r k f fsi instants
  held <|> mine.find? (fun r => !unitPassed s r k f fsi) <|> mine.head?

/-- A child's frame of one of this node's units (R265, R267, R272). DEDUCED: log entry 74. -/
def childPart (s : State) (child k f fsi instants : Nat) (pl : List Byte) : State :=
  match epochFor s k f fsi instants with
  | none => setErr (bump s F.TR_MISMATCH.COUNT 0 1) Err.TR.unit Err.TR.MISMATCH child
  | some r =>
    if (findUnit s r k f fsi).isNone && unitPassed s r k f fsi then setErr (bump s F.TR_LATE.COUNT 0 1) Err.TR.unit Err.TR.LATE child
    else if !holdRoom s r.act then holdFull s
    else
      let u := (findUnit s r k f fsi).getD { ep := r, k := k, f := f, fsi := fsi }
      let part := some (framePart pl instants)
      tryForward (putUnit s (if child = 2 * nodeId r.act + 1 then { u with left := part } else { u with right := part })) r k f fsi

/-- `trellis.accept`: the checks of R263 on the UDP payload of a frame, with the fields of its unit's epoch, or else those in force. -/
def trellisAccept (s : State) (frame : List Byte) : State :=
  let pl := frame.drop (typeAt frame + 30)
  let act := ((epochFor s (beAt pl 10 2) (beAt pl 12 2) (beAt pl 16 8) (beAt pl 14 2)).map EpochRef.act).getD s.act
  let id := nodeId act
  let src := beAt pl 6 1
  let child := (decide (src = 2 * id + 1) && hasLeft act) || (decide (src = 2 * id + 2) && hasRight act)
  if beAt pl 8 2 ≠ Regs.rd act F.TR_TREE.TREE_ID 0 ∨ beAt pl 3 1 ≠ 1 ∨ beAt pl 7 1 ≠ id ∨ child = false then bump s F.TR_UNKNOWN.COUNT 0 1
  else childPart (noteChildSeq s src (beAt pl 44 4)) src (beAt pl 10 2) (beAt pl 12 2) (beAt pl 16 8) (beAt pl 14 2) pl

/-- TRELLIS_DEADLINE (R267): of a unit whose own part is ready. -/
def execTrellisDeadline (k : Fin 16384) (f fsi : Nat) (s : State) : Host.Outcome State Fault Refusal :=
  .next (run (fun s => match heldUnit s k f fsi with | some u => u.ready | none => false)
    (fun s =>
      match heldUnit s k f fsi with
      | some u => tryForward (advanceTo s (unitDeadline s u.ep f fsi).toNat) u.ep k f fsi
      | none => s) s)

end Sys2Proof.Machine
end

