-- ==== Sys2Proof/Machine/EthRows.lean ====
section
/-! DEFINITION. Commands of the Ethernet ports (chapter 15). -/
namespace Sys2Proof.Machine

/-- A frame leaves a port, and the Eyepiece counts its own (R261). -/
def frameLeft (s : State) (p : Nat) (f : TxFrame) (sramBad : Bool) : State :=
  let s1 := if f.sender = .eye then bump s F.EYE_FRAMES.COUNT 0 1 else s
  frameOut s1 p f sramBad

/-- ETH_TX_FRAME_END (R322): the express frame in progress ends first, since it preempted the other. -/
def execEthTxFrameEnd (p : Fin 4) (sramBad : Bool) (s : State) : Host.Outcome State Fault Refusal :=
  .next (run (fun s => (linkUp s p || decide (domState s (24 + p) = pdDRAIN)) && !portIdle s p)
    (fun s =>
      let x := getPort s p
      let s1 := match x.exp, x.cur with
        | some f, _ => frameLeft (setPort s p { x with exp := none }) p f sramBad
        | none, some f => frameLeft (setPort s p { x with cur := none }) p f sramBad
        | none, none => s
      eyePump (startNext s1 p)) s)

/-- ETH_TX_UNDERRUN (R325): the frame ends with an inverted FCS and is sent again as the next frame of its source. -/
def execEthTxUnderrun (p : Fin 4) (s : State) : Host.Outcome State Fault Refusal :=
  .next (run (fun s => linkUp s p && (getPort s p).exp.isNone &&
      (match (getPort s p).cur with
       | some f => decide (s.rd F.ETH_TX_THRESH.CUR p * 256 < f.bytes.length + 4)
       | none => false))
    (fun s =>
      let x := getPort s p
      match x.cur with
      | some f =>
        let s1 := setErr (bump (s.emit (.frameCut p)) F.ETH_TX_UNDERRUN.COUNT p 1) (Err.ETH.unit p) Err.ETH.TX_UNDERRUN 0
        let s2 := s1.wr F.ETH_TX_THRESH.CUR p (min 38 (s1.rd F.ETH_TX_THRESH.CUR p + 1))
        startNext (setPort s2 p { x with cur := none, ready := { f with begun := true } :: x.ready }) p
      | none => s) s)

/-- EXPRESS_RATE_WINDOW (R323): the next millisecond of the timebase begins on every port. -/
def execExpressRateWindow (s : State) : Host.Outcome State Fault Refusal :=
  .next (run (fun _ => true)
    (fun s => (List.range 4).foldl (fun s p => startNext (setPort s p { getPort s p with expressSent := 0 }) p)
      (advanceTo s (nextMultiple s (1000000 * nsUnits)))) s)

/-- ETH_VERIFY_DONE (R324). -/
def execEthVerifyDone (p : Fin 4) (ok : Bool) (s : State) : Host.Outcome State Fault Refusal :=
  .next (run (fun s => decide (s.rd F.ETH_STATUS.VERIFY p = 1))
    (fun s =>
      if ok then startNext ((s.wr F.ETH_STATUS.VERIFY p 2).wr F.ETH_STATUS.PREEMPT_ACTIVE p 1) p
      else setErr (s.wr F.ETH_STATUS.VERIFY p 3) (Err.ETH.unit p) Err.ETH.VERIFY_FAIL 0) s)

/-- The parts of the link that ETH_STATUS reports; HI_SER is sticky in ETH_ERR as it becomes 1. -/
def linkParts (s : State) (p : Nat) (localFault remoteFault hiSer : Bool) : State :=
  let s1 := ((s.wr F.ETH_STATUS.LOCAL_FAULT p (b2n localFault)).wr F.ETH_STATUS.REMOTE_FAULT p (b2n remoteFault)).wr
    F.ETH_STATUS.HI_SER p (b2n hiSer)
  if hiSer && decide (s.rd F.ETH_STATUS.HI_SER p = 0) then setErr s1 (Err.ETH.unit p) Err.ETH.HI_SER 0 else s1

/-- ETH_LINK_DOWN (R318): by a local fault, a remote fault or a high symbol error rate. While the link is down, ETH_STATUS goes on
reporting its parts. -/
def execEthLinkDown (p : Fin 4) (localFault remoteFault hiSer : Bool) (s : State) : Host.Outcome State Fault Refusal :=
  .next (run (fun s => if linkUp s p then localFault || remoteFault || hiSer else domOn s (24 + p))
    (fun s =>
      let s1 := linkParts s p localFault remoteFault hiSer
      if linkUp s p then eyePump (linkLost s1 p) else s1) s)

/-- ETH_LINK_UP (R318): a port whose domain is not ON has no link. -/
def execEthLinkUp (p : Fin 4) (s : State) : Host.Outcome State Fault Refusal :=
  .next (run (fun s => !linkUp s p && domOn s (24 + p))
    (fun s =>
      let s1 := ((s.wr F.ETH_STATUS.LOCAL_FAULT p 0).wr F.ETH_STATUS.REMOTE_FAULT p 0).wr F.ETH_STATUS.HI_SER p 0
      startNext (preemptEval (raise (s1.wr F.ETH_STATUS.LINK_UP p 1) 21 [p]) p) p) s)

/-- The frame is for the Trellis (R263, R327). -/
def forTrellis (s : State) (f : List Byte) : Bool :=
  isUdp f && decide (udpDst f = s.ac F.TR_TREE.UDP_PORT 0) && decide (s.ac F.TR_CFG.EN 0 = 1)

/-- The address filter of a port passes a frame (R327). -/
def addressPass (s : State) (p : Nat) (f : List Byte) : Bool :=
  let dst := beAt f 0 6
  decide (s.rd F.ETH_CFG.PROMISC p = 1) || decide (dst = s.rd F.ETH_MAC_ADDR.ADDR p) || decide (dst = 2 ^ 48 - 1) ||
    (bit dst 40 && decide (s.rd F.ETH_CFG.ACCEPT_MCAST p = 1))

/-- Bytes in a port's receive buffer. -/
def rxFill (s : State) (p : Nat) : Nat := ((getPort s p).rx.map fun f => f.bytes.length + 4).sum

/-- `eth.receive`: a whole frame, before its FCS, with a good FCS or a bad one (R327, R328). DEDUCED: log entry 62. -/
def ethReceive (s : State) (p : Nat) (f : List Byte) (fcsOk : Bool) : State :=
  let len := f.length + 4
  if !fcsOk then bump s F.ETH_RX_FCS_ERR.COUNT p 1 else
  let s1 := bump (bump s F.ETH_RX_FRAMES.COUNT p 1) F.ETH_RX_BYTES.COUNT p len
  if 9600 < len then bump s1 F.ETH_RX_OVERSIZE.COUNT p 1
  else if len < 64 then bump s1 F.ETH_RX_UNDERSIZE.COUNT p 1
  else if 262144 < rxFill s1 p + len then setErr (bump s1 F.ETH_RX_OVERFLOW.COUNT p 1) (Err.ETH.unit p) Err.ETH.RX_OVERFLOW 0
  else if beAt f (typeAt f) 2 = 0x8808 then bump s1 F.ETH_RX_CTRL.COUNT p 1
  else if forTrellis s1 f then
    if fold16 (wordSum ((f.drop (typeAt f + 2)).take 20)) = 65535 then trellisAccept (bump s1 F.ETH_RX_TRELLIS.COUNT p 1) f
    else bump s1 F.ETH_RX_IP_ERR.COUNT p 1
  else if !addressPass s1 p f || decide (s1.rd F.ETH_CFG.HOST_EN p = 0) then bump s1 F.ETH_RX_FILTERED.COUNT p 1
  else
    let x := getPort s1 p
    rxAdvance (setPort s1 p { x with rx := x.rx ++ [{ bytes := f, stamp := s1.tb, holdover := !traceable s1.sdState }] }) p

/-- The codewords that the receiver of port p corrected, or found uncorrectable (Table 15-9). DESIGN CHOICE: log entry 57. -/
def ethFec (s : State) (p : Nat) (check : RxCheck) : State :=
  bump (bump s F.ETH_FEC_CORR_CW.COUNT p check.corrected) F.ETH_FEC_UNCORR_CW.COUNT p check.uncorrectable

/-- ETH_FRAME_RECEIVE (R327). -/
def execEthFrameReceive (p : Fin 4) (bytes : List Byte) (check : RxCheck) (s : State) : Host.Outcome State Fault Refusal :=
  .next (run (fun s => linkUp s p) (fun s => ethReceive (ethFec s p check) p bytes check.fcsOk) s)

end Sys2Proof.Machine
end

