-- ==== Sys2Proof/Machine/LensRows.lean ====
section
/-! DEFINITION. Commands of the Lens and the Eyepiece: data that arrives, contexts served and lost, windows, and the close of a
cycle (R230 to R241, R258). -/
namespace Sys2Proof.Machine

/-- The Lens' hidden state, replaced. -/
def setLe (s : State) (x : LensSt) : State := { s with le := x }

/-- One context loses the channel block (R230). DESIGN CHOICE: log entry 69. -/
def loseOne (s : State) (k : Nat) : State :=
  let s1 := setErr (bump s F.LENS_OVERRUN.COUNT 0 1) Err.LENS.unit Err.LENS.OVERRUN (k * 256)
  let s2 := setLe s1 { s1.le with discont := k :: s1.le.discont.erase k }
  if lensRoute s2 s2.le.act k = 1 then ownParts s2 k s2.le.f s2.le.fsi none else s2

/-- A context, with its pair, loses the channel block; BEAM_DROP is raised once per channel block (R230, R233). -/
def lensLose (s : State) (k : Nat) : State :=
  let s1 := (servedWith s s.le.act k).foldl loseOne (setLe s { s.le with lost := k :: s.le.lost })
  if s1.le.dropped then s1 else raise (setLe s1 { s1.le with dropped := true }) 8 [1, k]

/-- Data that a context needs has not arrived. -/
def awaits (s : State) (k : Nat) : Bool := needsFetch s s.le.act k && !s.le.fetched.contains (k, false)

/-- A context whose data can still arrive in this window: enabled, in range, not served, needing data that has not come. -/
def fetchDue (s : State) (k : Nat) : Bool :=
  !hung s 6 && s.le.isOpen && lensHolds s s.le.act k s.le.f && decide (s.le.nextK ≤ k) && awaits s k && !(s.le.fetched.contains (k, true))

/-- Data of a context has arrived for the window's channel block (R232): a taper set enters the cache, and poisoned data loses the
channel block. -/
def takeFetch (s : State) (k : Nat) (poisoned : Bool) : State :=
  let s1 := setLe s { s.le with fetched := (k, poisoned) :: s.le.fetched }
  let x := if lensPair s1 s1.le.act k = 2 then k - 1 else k
  if poisoned then (if s1.le.lost.contains x then s1 else lensLose s1 x)
  else if lensWsrc s1 s1.le.act k || decide (64 ≤ s1.le.cache.length) then s1
  else setLe s1 { s1.le with cache := lensTaper s1 s1.le.act k :: s1.le.cache }

/-- The taper set or the row of weights that a context of an epoch fetches for fine channel f is poisoned. DESIGN CHOICE: log entry 69. -/
def fetchBad (s : State) (act : Regs) (k f : Nat) : Bool :=
  if lensWsrc s act k then
    poisonedAt s (regionBase s (Regs.rd act F.LENS_REGIONS.WTAB_REGION 0) + 16384 * actF act * lensDir s act k 36 2 + 16384 * f) 16384
  else poisonedAt s (regionBase s (Regs.rd act F.LENS_REGIONS.TAPER_REGION 0) + 8192 * lensTaper s act k) 8192

/-- The epoch and the fine channel of the window after this one (R232): after the last channel block of a cycle, those of the next cycle,
which an epoch accepted for it governs. -/
def nextBlock (s : State) : Regs × Nat :=
  if s.le.f + 1 < actF s.le.act then (s.le.act, s.le.f + 1)
  else match s.glob.armed with
    | some a => (if s.acs.cyc = s.le.cyc ∧ atTarget s = true ∧ a.stop = false then a.capt else s.act, 0)
    | none => (s.act, 0)

/-- LENS_FETCH_RETURN (R232): data for this window, whose wait counts, or `ahead` for the next channel block.
DESIGN CHOICE: log entry 71. -/
def execLensFetchReturn (k : Fin 16384) (poisoned ahead : Bool) (wait : Nat) (s : State) : Host.Outcome State Fault Refusal :=
  .next (run (fun s => if ahead then s.le.isOpen && !(s.le.ahead.any fun e => decide (e.1 = k.val)) else fetchDue s k)
    (fun s =>
      let at_ := if ahead then nextBlock s else (s.le.act, s.le.f)
      let poisoned := poisoned || fetchBad s at_.1 k.val at_.2
      if ahead then setLe s { s.le with ahead := (k.val, poisoned) :: s.le.ahead }
      else takeFetch (bump (setLe s { s.le with wait := s.le.wait + wait }) F.LENS_FETCH_WAIT.COUNT 0 wait) k poisoned) s)

/-- A context's samples as its output values, with the saturations counted. -/
def formed (s : State) (b : BeamOut) : State × List Cx :=
  let y := formatOut s s.le.act b.k b.sums
  (countOut s y.2, y.1)

/-- A record of a context's channel block, as the HBM rings and the capture ring hold it. -/
def recordOf (s : State) (b : BeamOut) (ys : List Cx) (discont : Bool) : List Byte :=
  recordBytes s s.le.act b.k s.le.f s.le.fsi s.le.epochNum discont b ys

/-- A record of a context enters the capture ring; it carries DISCONT after a channel block that the context lost (Table 10-5, R255). -/
def captureBlock (s : State) (b : BeamOut) (ys : List Cx) : State :=
  let s1 := capRecord s s.le.act s.le.cyc b.k (recordOf s b ys (s.le.discont.contains b.k))
  if capWriting s then setLe s1 { s1.le with discont := s1.le.discont.erase b.k } else s1

/-- The samples of one Eyepiece context, alone or with its Y beam, enter the input queue, or find no room and are lost (R240, R243). -/
def eyeTake (s : State) (full : Bool) (b : BeamOut) (ys : List Cx) (pair_ : Option (BeamOut × List Cx)) : State :=
  let act := s.le.act
  if full then
    let s1 := setErr (bump s F.EYE_IN_OVERRUN.COUNT 0 1) Err.EYE.unit Err.EYE.IN_OVERRUN (b.k * 256)
    raise (setLe s1 { s1.le with discont := b.k :: s1.le.discont.erase b.k }) 8 [2, b.k]
  else
    let s1 := ensureEye s act s.le.fsi b.k
    let xs := (List.range (actT act)).map fun t =>
      let y := pair_.map fun p => p.2.getD t (0, 0)
      let short := decide (b.counts.getD t 0 < b.inputs) || (match pair_ with | some p => decide (p.1.counts.getD t 0 < p.1.inputs) | none => false)
      (terms (ys.getD t (0, 0)) y, short)
    let s2 := collapse s1 act b.k s1.le.f s1.le.fsi xs
    if bit (eyeEntry s2 act b.k 5 1) 0 then captureBlock s2 b ys else s2

/-- One context that is not paired, or whose pair is served as two, delivered on its route (Table 10-3). DESIGN CHOICE: log entry 69. -/
def deliverOne (s : State) (full : Bool) (b : BeamOut) : State :=
  if lensRoute s s.le.act b.k = 1 then ownParts s b.k s.le.f s.le.fsi (some b)
  else
    let y := formed s b
    if lensRoute s s.le.act b.k = 2 then ringRecord y.1 s.le.act b.k (recordOf s b y.2 (s.le.discont.contains b.k))
    else if isEyeCtx s s.le.act b.k then eyeTake y.1 full b y.2 none else y.1

/-- A context and its pair delivered: a pair that is not detected enters the input queue as two contexts, which find room each on its own
(R238, R243). -/
def deliver (s : State) (full fullY : Bool) (bs : List BeamOut) : State :=
  match bs with
  | [x, y] =>
    if isStokes s s.le.act x.k then
      let fx := formed s x
      let fy := formed fx.1 y
      eyeTake fy.1 full x fx.2 (some (y, fy.2))
    else deliverOne (deliverOne s full x) fullY y
  | l => l.foldl (fun s b => deliverOne s full b) s

/-- A context is served: its samples are formed and delivered (R230). -/
def serve (s : State) (o : Orangery) (k : Nat) (full fullY : Bool) : State :=
  let ks := servedWith s s.le.act k
  let r := ks.foldl (fun (r : State × List BeamOut) k => ((beamOf r.1 o k).1, r.2 ++ [(beamOf r.1 o k).2])) (s, [])
  let s1 := bump (setLe r.1 { r.1.le with nextK := k + 1 }) F.LENS_SAMPLES.COUNT 0 (ks.length * actT s.le.act)
  eyePump (deliver s1 full fullY r.2)

/-- The next context may be served: its turn has come and its data is on die. -/
def serveReady (s : State) (k : Nat) : Bool := decide (lensNext s = some k) && (servedWith s s.le.act k).all fun j => !awaits s j

/-- LENS_CONTEXT_DONE (R230): `sramBad`: an uncorrectable word of a Lens table or of the taper cache loses the channel block
(R285), as does each use of a table word that was found so and is not reloaded. DESIGN CHOICE: log entry 71. -/
def execLensContextDone (k : Fin 16384) (sramBad : Bool) (full : Bool × Bool) (s : State) : Host.Outcome State Fault Refusal :=
  .next (run (fun s => serveReady s k && (curHalf s).isSome)
    (fun s =>
      match curHalf s with
      | none => s
      | some o =>
        let s1 := settleClose s
        if sramBad then lensLose (sramFault s1 5) k
        else if (servedWith s1 s1.le.act k).any fun j => lensWordBad s1 s1.le.act j s1.le.f then
          lensLose s1 k
        else serve s1 o k full.1 full.2) s)

/-- The Lens clocks that the window's channel block needs (R231). -/
def windowNeed (s : State) : Nat :=
  let ks := windowContexts s
  if ks.isEmpty then 0 else 256 + s.le.wait + (ks.map fun k => ((servedWith s s.le.act k).map (lensCost s s.le.act)).sum).sum

/-- The window ends: contexts not finished are lost, and after the last channel block the Eyepiece has a cycle to close
(R230, R241). -/
def closeWindow (s : State) : State :=
  if !s.le.isOpen then s else
    let need := windowNeed s
    let s0 := if s.rd F.LENS_LOAD_HWM.CLOCKS 0 < need then s.wr F.LENS_LOAD_HWM.CLOCKS 0 (min need (2 ^ 32 - 1)) else s
    let left := (windowContexts s0).filter fun k => decide (s0.le.nextK ≤ k) && !s0.le.lost.contains k
    let s1 := left.foldl lensLose s0
    let s2 := setLe s1 { s1.le with isOpen := false }
    if s2.le.f + 1 = actF s2.le.act then
      let s3 := settleClose s2
      let y : EyeCycle := { cyc := s3.le.cyc, first := s3.le.fsi, T := actT s3.le.act, epochNum := s3.le.epochNum, act := s3.le.act }
      { s3 with eye := { s3.eye with pend := some y } }
    else s2

/-- The window of a channel block begins (R230): the taper cache is emptied at an epoch, and data fetched ahead is taken. -/
def openWindow (s : State) (o : Orangery) : State :=
  let old := s.le
  let num := s.rd F.GLOBAL_EPOCH_NUM.EPOCH_NUM 0
  let fsi := s.E + (o.cyc - s.acs.epochCyc) * s.T
  let cache := if old.epochNum = num then old.cache else []
  let dirs := if old.cyc = o.cyc ∧ old.fsi = fsi then old.dirCounted else []
  let w : LensSt := { isOpen := true, cyc := o.cyc, f := o.f, fsi := fsi, epochNum := num, n := s.rd F.LENS_DIR_N.N_CYC 0, act := s.act, from_ := some s.E }
  let s1 := setLe s { w with cache := cache, dirCounted := dirs, discont := old.discont }
  let s2 := (old.ahead.filter fun e => lensHolds s1 s1.le.act e.1 o.f && needsFetch s1 s1.le.act e.1).foldl (fun s e => takeFetch s e.1 e.2) s1
  if o.f = 0 ∧ s2.eye.pend.isNone then eyePump (capCycle s2) else s2

/-- The run has ended with its last window open: the Lens has served its last channel block. -/
def lastWindow (s : State) : Bool :=
  s.le.isOpen && decide (s.le.f + 1 = actF s.le.act) && (decide (s.dp = dpSTOPPING) || decide (s.dp = dpIDLE)) && (lensNext s).isNone

/-- The last cycle of a run: the steps of Table 11-8, and then the STOP (R258). -/
def endRunWindows (s : State) : State :=
  let act := s.le.act
  let s1 := closeWindow s
  match s1.eye.pend with
  | none => s1
  | some y => eyePump (eyeStop (closeCycle s1 y) act)

/-- EYE_CYCLE_CLOSE (R241). -/
def execEyeCycleClose (s : State) : Host.Outcome State Fault Refusal :=
  .next (run (fun s => s.eye.pend.isSome || lastWindow s)
    (fun s => if s.eye.pend.isSome then settleClose s else endRunWindows s) s)

end Sys2Proof.Machine
end

