-- ==== Sys2Proof/Machine/Boundary.lean ====
section
/-! DEFINITION. What travels with the data: the begin of a run, of a channel block, and the cycle boundary (Tables 1-5 and 3-3). -/
namespace Sys2Proof.Machine

/-- CHANNEL_BLOCK_BEGIN (R157, R230): the window of the block before ends and that of this block begins. -/
def execChannelBlockBegin (s : State) : Host.Outcome State Fault Refusal :=
  .next (run (fun s => (nextHalf s).isSome && quiet s && decide (dpRUNNING ≤ s.dp))
    (fun s =>
      match nextHalf s with
      | none => s
      | some h =>
        match Tab.find s.pv.halves h with
        | none => s
        | some o => openWindow (beginBlock (closeWindow s) h o) o) s)

/-- The marker of the cycle in progress has reached the end of the pipeline: its last channel block has ended (R30). -/
def boundaryReady (s : State) : Bool :=
  decide (s.dp = dpRUNNING) && quiet s &&
    (match curHalf s with
     | some o => decide (o.f + 1 = s.F) && decide (o.cyc = s.acs.cyc)
     | none => false)

/-- The flags kept for the new cycle reach the bank that goes on integrating; those of an uncommitted gap cycle reach none. -/
def takeFlags (s : State) (began : Option Nat) : State :=
  match integBank s, began with
  | some x, none => takePending s x s.acs.cyc
  | none, _ => { s with acs := { s.acs with pendFlags := Tab.del s.acs.pendFlags s.acs.cyc } }
  | _, _ => s

/-- The losses kept for the new cycle are announced, now that the integration that holds it, or its gap, is known (R121). -/
def takeLosses (s : State) : State :=
  let s1 := { s with acs := { s.acs with lossPend := s.acs.lossPend.filter fun x => decide (x.1 ≠ s.acs.cyc) } }
  (s.acs.lossPend.filter fun x => decide (x.1 = s.acs.cyc)).foldl (fun s x => announceLoss s x.1 x.2) s1

/-- Steps 3 to 6 of Table 1-5, with the bank that step 2 leaves to begin. -/
def nextCycle (s : State) (began : Option Nat) : State :=
  let cyc := s.acs.cyc + 1
  let restart := atTarget s && bankChanges s 7
  let s3 := if atTarget s then trellisEpoch (notePast s (applyEpoch s cyc)) else s
  let s4 := retireStep s3
  let s5 := match began with
    | some x => beginBank s4 x cyc (s4.E + (cyc - s4.acs.epochCyc) * s4.T)
    | none => s4
  let s6 := lensCycle (takeCycleFields s5) restart
  takeLosses (takeFlags { s6 with acs := { s6.acs with cyc := cyc }, pv := { s6.pv with nextF := 0 } } began)

/-- The actions of Table 1-5 in order; after a STOP no cycle follows, and a pending retirement is carried out all the same (R31, R190). -/
def cycleBoundary (s : State) : State :=
  let s1 := retireAll (settleSlot s)
  let stop := stopHere s1
  let r := step2 s1
  if stop then stopRun (retireStep r.1) else nextCycle r.1 r.2

/-- CYCLE_BOUNDARY (R31). DEDUCED: log entry 58. -/
def execCycleBoundary (s : State) : Host.Outcome State Fault Refusal := .next (run boundaryReady cycleBoundary s)

/-- What a run leaves behind is settled before the next one begins. -/
def endLastRun (s : State) : State := if s.le.isOpen || s.eye.pend.isSome then endRunWindows (settleClose s) else s

/-- ARMED to RUNNING (R63): the first cycle and, in bank A, the first integration begin. -/
def beginRun (s : State) : State :=
  let s0 := endLastRun s
  let s1 := trellisEpoch (applyEpoch { s0 with le := {}, eye := { s0.eye with ctxs := [] }, tr := { s0.tr with past := [] } } 0)
  let acs : AccSt := { pendFlags := s1.acs.pendFlags, lossPend := s1.acs.lossPend, lossDone := s1.acs.lossDone, preloadDone := s1.acs.preloadDone }
  let pv : PavSt := { selfFailed := s1.pv.selfFailed }
  let s2 := settleOpen { s1 with acs := acs, pv := pv }
  let s3 := (State.each (s2.wr F.PAV_BLOCK_SLOT.G 0 0) (List.range 128) fun s p => s.wr F.LODGE_AUDIT.G p 0).wr F.ACC_STATUS.GAP 0 0
  let s4 := setDp (lensCycle (takeCycleFields { s3 with yg := { s3.yg with mirrorDone := [] } }) true) dpRUNNING
  takeLosses (beginBank s4 0 0 s4.E)

/-- RUN_START (R63): the Gatehouse stream has reached the target. -/
def execRunStart (s : State) : Host.Outcome State Fault Refusal :=
  .next (run (fun s => decide (s.dp = dpARMED) && armedStart s && s.gh.started) beginRun s)

end Sys2Proof.Machine
end

