-- ==== Sys2Proof/Machine/Tables.lean ====
section
/-! DEFINITION. LOAD_TABLE, READ_TABLE, LOAD_REGION and READ_REGION as they start: what refuses them, what makes them wait, and the DMA
channel that they take (R54, R198, R202, R220, R347 to R351). -/
namespace Sys2Proof.Machine

/-- A bank of a table of the Lens or the Eyepiece that a window still open, or the cycle still to be closed, uses (R235, R258). -/
def bankResident (s : State) (id bank : Nat) : Bool :=
  let windows := s.le.isOpen && decide (bankIn s.le.act id = bank)
  (isLensTable id && windows) || ((decide (id = 10) || decide (id = 11)) &&
    (windows || (match s.eye.pend with | some y => decide (bankIn y.act id = bank) | none => false)))

/-- A bank of a table is in use, so that a load completes with BUSY (R54, R202): the bank in force while the data plane runs, the bank
that the armed epoch puts in force, a Portico bank that a CLOSED or DRAINING dump uses, and a bank that the Lens or the Eyepiece has still to
finish with (R235, R258). DEDUCED: log entry 35. -/
def bankBusy (s : State) (id bank : Nat) : Bool :=
  (!s.dpStopped && decide (s.bankOf id = bank)) ||
    (match s.glob.armed with
     | some a => !a.stop && decide (bankIn a.capt id = bank)
     | none => false) ||
    ((decide (id = 12) || decide (id = 13)) &&
      ([0, 1].any fun x => decide (bkCLOSED ≤ bankState s x) && decide (bankIn (getBank s x).epochRegs id = bank))) ||
    bankResident s id bank

/-- The common part is well formed for an opcode (Table 16-3). -/
def commonOk (op : Nat) (d : List Byte) : Bool := decide (leAt d 0 1 = op) && decide (leAt d 1 1 ≤ 1) && zeroAt d 2 2

/-- A table command is well formed (Table 16-4). -/
def tableDescOk (op : Nat) (d : List Byte) : Bool :=
  let c := tableCmd d
  commonOk op d && decide (c.id ≤ 15) && decide (c.bank ≤ 1) && zeroAt d 22 2 && zeroAt d 32 32 && decide (1 ≤ c.count) &&
    decide (descLen d = c.count * tableBytes c.id) && decide (descAddr d % 64 = 0)

/-- A region command is well formed, and its region is defined (Table 16-4, R350). -/
def regionDescOk (s : State) (op : Nat) (d : List Byte) : Bool :=
  commonOk op d && zeroAt d 21 3 && zeroAt d 32 32 && decide (leAt d 24 8 % 64 = 0) && decide (descLen d % 64 = 0) &&
    (match regionOf s (leAt d 20 1) with
     | some r => decide (leAt d 24 8 + descLen d ≤ r.2)
     | none => false)

/-- The contexts enabled under a set of active fields, as the listed bytes of LENS_DIR give them. -/
def enabledContexts (s : State) (act : Regs) : List Nat :=
  s.tables.filterMap fun e =>
    if e.1.1 = 7 ∧ e.1.2.1 = bankIn act 7 ∧ e.1.2.2.1 = firstGroup act ∧ e.1.2.2.2 % 64 = 30 ∧ bit e.2.toNat 0 = true then some (e.1.2.2.2 / 64) else none

/-- A byte range of a region overlaps a taper or weight set that an enabled context names (R220). -/
def setsTouched (s : State) (act : Regs) (region off len : Nat) : Bool :=
  (enabledContexts s act).any fun k =>
    let hit := fun base size => decide (off < base + size) && decide (base < off + len)
    (decide (Regs.rd act F.LENS_REGIONS.TAPER_REGION 0 = region) && decide (lensTaper s act k ≠ 0xFFFF) && hit (8192 * lensTaper s act k) 8192) ||
      (decide (Regs.rd act F.LENS_REGIONS.WTAB_REGION 0 = region) && lensWsrc s act k &&
        hit (16384 * actF act * lensDir s act k 36 2) (16384 * actF act))

/-- A region load completes with BUSY: it writes a preload image in use (R198), or a set in use (R220). -/
def regionBusy (s : State) (region off len : Nat) : Bool :=
  (match integBank s with
   | some x => decide (s.rd F.ACC_STATUS.PRELOAD_ACTIVE 0 = 1) &&
       (decide ((getBank s x).preload = some region) || decide ((getBank s x).preTally = some region))
   | none => false) ||
    (!s.dpStopped && setsTouched s s.act region off len) ||
    (match s.glob.armed with
     | some a => !a.stop && setsTouched s a.capt region off len
     | none => false)

/-- Two byte ranges meet. -/
def rangesMeet (a n b m : Nat) : Bool := decide (a < b + m) && decide (b < a + n)

/-- A LOAD command writes what an earlier, uncompleted command reads or writes: it waits (R351). -/
def waitsFor (s : State) (d : List Byte) : Bool :=
  let op := opOf d
  (s.ko.cmds.filter fun x => x.chan.isSome).any fun x =>
    let e := x.desc
    (decide (op = 1) && (decide (opOf e = 1) || decide (opOf e = 2)) && decide ((tableCmd e).id = (tableCmd d).id) && decide ((tableCmd e).bank = (tableCmd d).bank)) ||
      (decide (op = 3) && (decide (opOf e = 3) || decide (opOf e = 4)) && decide (regionIdx e = regionIdx d) &&
        rangesMeet (regionOff e) (descLen e) (regionOff d) (descLen d))

/-- A LOAD or READ command starts on a channel (R351); one that moves no byte ends at once. -/
def startCmd (s : State) (c : Nat) (d : List Byte) : State :=
  if descLen d = 0 then complete s d stOK 0 0 else
    let idx := (getRing s 0).next
    let j : Job := { ring := 0, idx := idx, desc := d, addr := descAddr d, beats := descBeats d, info := descLen d,
                     data := if opOf d = 1 then List.replicate (descLen d) 0 else [] }
    let s1 := moveEntry s 0
    startJob { s1 with ko := { s1.ko with cmds := s1.ko.cmds ++ [{ idx := idx, desc := d, chan := some c }] } } c j

/-- The status with which LOAD_TABLE is refused before any data moves (R349, steps 1 to 3). DEDUCED: log entry 33. -/
def loadTableStatus (s : State) (d : List Byte) : Nat :=
  let c := tableCmd d
  if !tableDescOk 1 d then stBAD_DESCRIPTOR
  else if tableEntries c.id < c.first + c.count then stBAD_TABLE
  else if bankBusy s c.id c.bank then stBUSY
  else if tableOff s c.id then stDOMAIN_OFF else stOK

/-- The status with which READ_TABLE is refused (R349). DEDUCED: log entry 33. -/
def readTableStatus (s : State) (d : List Byte) : Nat :=
  let c := tableCmd d
  if !tableDescOk 2 d then stBAD_DESCRIPTOR
  else if tableEntries c.id < c.first + c.count then stBAD_TABLE
  else if tableOff s c.id then stDOMAIN_OFF else stOK

/-- The status with which LOAD_REGION is refused (R350). -/
def loadRegionStatus (s : State) (d : List Byte) : Nat :=
  if !regionDescOk s 3 d then stBAD_DESCRIPTOR else if regionBusy s (regionIdx d) (regionOff d) (descLen d) then stBUSY else stOK

/-- The status with which READ_REGION is refused (R350). -/
def readRegionStatus (s : State) (d : List Byte) : Nat := if !regionDescOk s 4 d then stBAD_DESCRIPTOR else stOK

/-- A command is refused with a status, or starts on a channel. -/
def startOr (status : State → List Byte → Nat) (s : State) (c : Nat) (d : List Byte) : State :=
  if status s d = stOK then startCmd s c d else complete s d (status s d) 0 0

end Sys2Proof.Machine
end

