-- ==== Sys2Proof/Machine/Epoch.lean ====
section
/-! DEFINITION. The epoch command: capture, conversion of its target, the checks of R352 in their order, arming and cancelling
(chapters 2 and 3, R352). -/
namespace Sys2Proof.Machine

/-- Every field of the register map. -/
def RegMap.all : List Fld :=
  RegMap.global ++ RegMap.kiosk ++ RegMap.dma ++ RegMap.cloister ++ RegMap.glasshouse ++ RegMap.yargil ++ RegMap.gatehouse ++ RegMap.prism ++
    RegMap.pavilion ++ RegMap.accum ++ RegMap.portico ++ RegMap.lens ++ RegMap.eyepiece ++ RegMap.trellis ++ RegMap.eth ++ RegMap.tsu ++
    RegMap.sundial ++ RegMap.lodge ++ RegMap.belvedere ++ RegMap.power ++ RegMap.fuse

/-- The shadow copies of the E fields, as captured (R51). -/
def captured (s : State) : Regs := s.regs.filter fun e => RegMap.epochIds.contains e.1.1

/-- The flags and target of a COMMIT_EPOCH (Table 16-4). DEDUCED: log entry 36. -/
def efRoundUp (d : List Byte) : Bool := bit (leAt d 20 1) 0
def efStart (d : List Byte) : Bool := bit (leAt d 20 1) 1
def efStop (d : List Byte) : Bool := bit (leAt d 20 1) 2
def efCancel (d : List Byte) : Bool := bit (leAt d 20 1) 3
def efTime (d : List Byte) : Bool := decide (leAt d 21 1 = 1)

/-- A COMMIT_EPOCH is well formed (R347, Table 16-4). -/
def epochDescOk (d : List Byte) : Bool :=
  commonOk 5 d && zeroAt d 8 12 && decide (leAt d 20 1 < 16) && decide (b2n (efStart d) + b2n (efStop d) + b2n (efCancel d) ≤ 1) &&
    decide (leAt d 21 1 ≤ 1) && zeroAt d 22 2 && decide (leAt d 32 4 < 1000000000) && zeroAt d 38 26

/-- The M in which the target is counted: that of a START, else that in force (R57, R58). -/
def targetM (s : State) (d : List Byte) : Nat := if efStart d then mOf (s.rd F.PR_CFG.M 0) else s.M

/-- The coarse sample of a time target (R57). -/
def targetCsi (s : State) (d : List Byte) : Int :=
  indexOf s ((leAt d 24 8 * secUnits + leAt d 32 4 * nsUnits + leAt d 36 2 : Nat) : Int)

/-- The target before rounding, or none for a time before coarse sample 0 (R57). -/
def rawTarget (s : State) (d : List Byte) : Option Nat :=
  if efTime d then (if targetCsi s d < 0 then none else some (((targetCsi s d).toNat + targetM s d - 1) / targetM s d)) else some (leAt d 24 8)

/-- The distance of the boundaries that a target may name: cycles of the epoch in force, or for a START the fine samples at which
R111 allows one. DEDUCED: log entry 36. -/
def targetStep (s : State) (d : List Byte) : Nat := if efStart d then max 1 (s.sCell / targetM s d) else s.T

/-- Where those boundaries begin. -/
def targetOrigin (s : State) (d : List Byte) : Nat := if efStart d then 0 else s.E

/-- The target FSI after conversion and rounding (R57). DEDUCED: log entry 36. -/
def roundTarget (s : State) (d : List Byte) (t : Nat) : Nat :=
  if efRoundUp d then
    let o := targetOrigin s d
    if t ≤ o then o else o + (t - o + targetStep s d - 1) / targetStep s d * targetStep s d
  else t

/-- The target is a boundary that the command may name (R56, R111). -/
def targetAligned (s : State) (d : List Byte) (t : Nat) : Bool :=
  decide (targetOrigin s d ≤ t) && decide ((t - targetOrigin s d) % targetStep s d = 0) &&
    (efStart d || efStop d || decide (t * s.M % mOf (s.rd F.PR_CFG.M 0) = 0))

/-- The target is late: not beyond the horizon, while H is defined (R58). -/
def targetLate (s : State) (m t : Nat) : Bool :=
  match s.glob.hCsi with
  | some h => decide (t ≤ h / m)
  | none => false

/-- A tentative state in which the captured epoch is armed, for the checks of the configuration it puts in force. -/
def withArmed (s : State) (a : Armed) : State := { s with glob := { s.glob with armed := some a } }

/-- The words of the program from an entry on. -/
def stepWords (s : State) (e n : Nat) : List Nat := (List.range n).map fun i => tblAt s true 4 (4 * (e + i)) 4

/-- The operations of a valid program as (OP, RADIX2), without ROTATE, for M = 2^m (R136). -/
def programShape (m : Nat) (rotate : Bool) : List (Nat × Nat) :=
  [(1, 0), (2, 0)] ++ List.replicate (m / 2) (3, 0) ++ List.replicate (m % 2) (3, 1) ++ (if rotate then [(4, 0)] else []) ++ [(5, 0), (6, 0)]

/-- The program at an entry has a shape, with MAC_REPEAT of P taps, and stays within the table. -/
def hasShape (s : State) (e p : Nat) (shape : List (Nat × Nat)) : Bool :=
  let ws := stepWords s e shape.length
  decide (e + shape.length ≤ 64) && decide (ws.map (fun w => (bits w 28 4, bits w 8 1)) = shape) && decide (bits (ws.getD 1 0) 0 5 = p)

/-- The program in force after the epoch is valid for its M and P (R136). -/
def programOk (s : State) : Bool :=
  let m := 4 + s.cfg true F.PR_CFG.M 0
  let e := s.cfg true F.PR_CFG.PROG_BASE 0
  let p := 4 * (s.cfg true F.PR_CFG.P 0 + 1)
  hasShape s e p (programShape m false) || hasShape s e p (programShape m true)

/-- No two used entries of the map carry the same SLOT and ORDER (R153). -/
def mapOk (s : State) : Bool :=
  decide (s.cfg true F.PAV_MAP_CTL.DEFAULT_MAP 0 = 1) || allPairs (fun a b => decide (a ≠ b)) ((List.range (nBlocks s)).map (mapEntry s true))

/-- No enabled mirrored stream names one port twice (R213). -/
def mirrorOk (act : Regs) : Bool :=
  (List.range 4).all fun i => decide (Regs.rd act F.PO_STREAM_CTL.EN i = 0) || decide (Regs.rd act F.PO_STREAM_CTL.ROUTE i ≠ 2) ||
    decide (Regs.rd act F.PO_STREAM_ETH.MIRROR_PORT i ≠ Regs.rd act F.PO_STREAM_ETH.PORT i)

/-- An enabled or paired context keeps the pairing rule (R233). -/
def pairOk (s : State) (act : Regs) (k : Nat) : Bool :=
  let same := fun a b => decide (lensLo s act a = lensLo s act b) && decide (lensDir s act a 26 2 = lensDir s act b 26 2) &&
    decide (lensFormat s act a = lensFormat s act b) && lensEn s act a && lensEn s act b && decide (lensRoute s act a = 0) && decide (lensRoute s act b = 0)
  if lensPair s act k = 1 then decide (k % 2 = 0) && decide (lensPair s act (k + 1) = 2) && same k (k + 1)
  else if lensPair s act k = 2 then decide (k % 2 = 1) && decide (lensPair s act (k - 1) = 1) && same (k - 1) k
  else true

/-- A named group has loaded the bank to be in force of every Lens table (LENS_LOADED). -/
def groupLoaded (s : State) (act : Regs) (g : Nat) : Bool :=
  [6, 7, 8, 9].all fun id => bit (s.rd F.LENS_LOADED.LOADED 0) (8 * g + 2 * (id - 6) + bankIn act id)

/-- The BAD_TABLE cases of R218. DEDUCED: log entry 37. -/
def lensOk (s : State) (act : Regs) : Bool :=
  let ks := enabledContexts s act
  (ks.all fun k => (decide (lensRoute s act k ≠ 0) || decide (lensFormat s act k ≠ 2)) && pairOk s act k) &&
    (ks.isEmpty || !(groupsIn act).isEmpty) && ((groupsIn act).all (groupLoaded s act))

/-- The Eyepiece contexts of the configuration, as the listed contexts give them. -/
def eyeListed (s : State) (act : Regs) : List Nat := (enabledContexts s act).filter (isEyeCtx s act)

/-- A set of EYE_FILTER holds no reserved value (R248). -/
def filterOk (s : State) (act : Regs) (set : Nat) : Bool :=
  (List.range 1040).all fun i =>
    let v := s.tbNat 11 (bankIn act 11) 0 (4 * (1040 * set + i)) 4
    if 1030 ≤ i then decide (v = 0) else decide (-131072 ≤ signed 32 v ∧ signed 32 v ≤ 131071)

/-- The BAD_TABLE cases of R242. -/
def eyeOk (s : State) (act : Regs) : Bool :=
  let ks := eyeListed s act
  (ks.all fun k => decide (eyeDmax s act k ≤ 65535) && (!isStokes s act k || decide (lensPair s act k = 1))) &&
    ((ks.map (prof s act F.EYE_PROF_CTL.FSET)).eraseDups.all (filterOk s act))

/-- The ETH_HEADER entries that the senders in force name (R321). -/
def senderEntries (s : State) (act : Regs) : List Nat :=
  ((List.range 4).flatMap fun i =>
    let h := Regs.rd act F.PO_STREAM_ETH.HDR_IDX i
    if Regs.rd act F.PO_STREAM_CTL.EN i = 0 ∨ Regs.rd act F.PO_STREAM_CTL.ROUTE i = 0 then []
    else if Regs.rd act F.PO_STREAM_CTL.ROUTE i = 1 then [h] else [h, h + 1]) ++
  ((eyeListed s act).filter fun k => decide (prof s act F.EYE_PROF_CTL.OUT_EN k = 1)).map (prof s act F.EYE_PROF_CTL.HDR_IDX) ++
  (if Regs.rd act F.EYE_CAP_CFG.EN 0 = 1 ∧ Regs.rd act F.EYE_CAP_CFG.ROUTE 0 = 1 then [Regs.rd act F.EYE_CAP_CFG.CAP_HDR 0] else []) ++
  ((List.range 16).filter fun r => decide (Regs.rd act F.EYE_RING_EXP.EN r = 1)).map (Regs.rd act F.EYE_RING_EXP.HDR_IDX) ++
  (if Regs.rd act F.TR_CFG.EN 0 = 0 then []
   else if nodeId act = 0 then [Regs.rd act F.TR_LINK.ROOT_HDR 0] else [Regs.rd act F.TR_LINK.UP_HDR 0])

/-- Every sender names a valid entry (R321). -/
def headersOk (s : State) (act : Regs) : Bool :=
  (senderEntries s act).all fun h => decide (h ≤ 255) && bit (s.tbNat 14 (bankIn act 14) 0 (32 * h + 28) 1) 0

/-- The logical slots named in the map that the epoch puts in force. -/
def slotsNamed (s : State) : List Nat :=
  let used := (List.range (nBlocks s)).map fun b => (mapEntry s true b).1
  (List.range 128).filter used.contains

/-- The logical slots whose host is RETIRED or FAILED, which a START moves (R173). -/
def slotsToMove (s : State) : List Nat :=
  (slotsNamed s).filter fun p => decide (s.rd F.PAV_STATUS.ROLE (hostOf s p) = roRETIRED) || decide (s.rd F.PAV_STATUS.ROLE (hostOf s p) = roFAILED)

/-- The domains that the epoch needs and that are not ON (R173, R218). -/
def domainsOff (s : State) (a : Armed) : Bool :=
  let act := a.capt
  let ks := enabledContexts s act
  (a.start && (slotsNamed s).any fun p => !(slotsToMove s).contains p && !domOn s (hostOf s p / 8)) ||
    ((groupsIn act).any fun g => !domOn s (18 + g)) ||
    (ks.any fun k => (decide (lensRoute s act k = 0) && !domOn s 22) || (decide (lensRoute s act k = 1) && !domOn s 23))

/-- A region-table entry is valid and holds a number of bytes (R42). -/
def regionFits (s : State) (e need : Nat) : Bool :=
  match regionOf s e with
  | some r => decide (need ≤ r.2)
  | none => false

/-- The anchor entry of a configuration for a coarse sample. -/
def anchorOf (s : State) (act : Regs) (csi : Nat) : Anchor := (anchorBy Anchor.i0 (csi : Int) (anchorsIn s (bankIn act 15))).getD Anchor.none

/-- Bytes of the landing ring (R43), with B = C × fs and W as it stands at the boundary; rounded up. DEDUCED: log entry 37. -/
def landingNeed (s : State) (act : Regs) (csi : Nat) : Nat :=
  let a := anchorOf s act csi
  let us := s.rd F.GH_WINDOW.W 0 * 100 + 1000
  cdiv (s.N * actC act * a.num * s.hBytes * 4132 * us) (a.den * 4096 * 1000000)

/-- The regions of the accumulators, the tallies, the corner turn and the landing ring hold the configuration (R42, R177, R422,
R423). DEDUCED: log entry 37. -/
def regionsFit (s : State) (act : Regs) (csi : Nat) : Bool :=
  let bank := s.Nb * actF act * s.wBytes
  let tally := s.Nb * actC act * 4
  let ct := s.rd F.PR_REGIONS.CT_REGION 0
  let vb := s.rd F.PR_REGIONS.VB_REGION 0
  regionFits s (s.rd F.ACC_REGIONS.BANK_A 0) bank && regionFits s (s.rd F.ACC_REGIONS.BANK_B 0) bank &&
    regionFits s (s.rd F.ACC_REGIONS.TALLY_A 0) tally && regionFits s (s.rd F.ACC_REGIONS.TALLY_B 0) tally &&
    regionFits s ct (2 * s.N * s.hBytes * actT act * actF act) && regionFits s vb (2 * actC act * actT act * s.N / 8) && decide (ct ≠ vb) &&
    regionFits s (s.rd F.GH_REGIONS.LANDING_REGION 0) (landingNeed s act csi)

/-- The on-die stores hold the configuration: history (R133), Orangery (R156) and touch maps (R179). -/
def storesFit (s : State) (act : Regs) : Bool :=
  decide (s.N * actF act * (4 * (Regs.rd act F.PR_CFG.P 0 + 1) - 1) * s.hBytes ≤ 134217728) &&
    decide (s.N * s.hBytes * actT act ≤ 33554432) && decide (nBlocks s * actF act ≤ 8388608)

/-- The sets and rings of the contexts fit (R218). -/
def lensFits (s : State) (act : Regs) : Bool :=
  (enabledContexts s act).all fun k =>
    (decide (lensTaper s act k = 0xFFFF) || decide (8192 * (lensTaper s act k + 1) ≤ regionSize s (Regs.rd act F.LENS_REGIONS.TAPER_REGION 0))) &&
    (!lensWsrc s act k ||
      decide (16384 * actF act * (lensDir s act k 36 2 + 1) ≤ regionSize s (Regs.rd act F.LENS_REGIONS.WTAB_REGION 0))) &&
    (decide (lensRoute s act k ≠ 2) || decide (recordLen (lensFormat s act k) (actT act) + 64 ≤ lensRingSize s act))

/-- The Eyepiece's stores and the capture ring hold the configuration (R242, R255). A configuration that records nothing needs no
room. DEDUCED: log entry 37. -/
def eyeFits (s : State) (act : Regs) : Bool :=
  let ks := eyeListed s act
  let cs := ks.filter fun k => bit (eyeEntry s act k 5 1) 0
  let len := fun k => recordLen (lensFormat s act k) (actT act)
  let z := (cs.map fun k => lensFk s act k * len k).sum
  let pre := Regs.rd act F.EYE_CAP_CFG.PRE 0 + Regs.rd act F.EYE_CAP_CFG.POST 0 + 1
  decide ((ks.map fun k => eyeQ s act k * (actT act + eyeDmax s act k)).sum ≤ 8388608) &&
    (ks.all fun k => decide (prof s act F.EYE_PROF_REPORT.REPORT_N k * eyeQ s act k * 4 ≤ 8192)) &&
    (decide (Regs.rd act F.EYE_CAP_CFG.EN 0 = 0) || decide (z = 0) || decide (pre ≤ (capSize s act - maxOf (cs.map len)) / z))

/-- The hold region holds the configuration, and no Trellis context is enabled without the Trellis (R272): 36 x R_p x (DEADLINE +
1 ms) with R_p the sum of F_k fs / M. -/
def trellisFits (s : State) (act : Regs) (csi : Nat) : Bool :=
  let ks := (enabledContexts s act).filter fun k => decide (lensRoute s act k = 1)
  let a := anchorOf s act csi
  let fk := (ks.map (lensFk s act)).sum
  decide (36 * fk * a.num * (Regs.rd act F.TR_DEADLINE.DEADLINE 0 + 1000) ≤
      regionSize s (Regs.rd act F.TR_REGIONS.HOLD_REGION 0) * (a.den * actM act * 1000000)) &&
    (ks.isEmpty || decide (Regs.rd act F.TR_CFG.EN 0 = 1))

/-- A START finds a free spare for every host that it must move (R173). -/
def sparesFit (s : State) (a : Armed) : Bool := !a.start || decide ((slotsToMove s).length ≤ spareCount s)

/-- The configuration that an epoch puts in force is checked in the order of R352, steps 5 to 7. DEDUCED: log entry 37. -/
def configStatus (s0 : State) (a : Armed) : Nat :=
  let s := withArmed s0 a
  let csi := (armedCsi s).getD 0
  if !(programOk s && mapOk s && mirrorOk a.capt && lensOk s a.capt && eyeOk s a.capt && headersOk s a.capt) then stBAD_TABLE
  else if domainsOff s a then stDOMAIN_OFF
  else if !(regionsFit s a.capt csi && storesFit s a.capt && lensFits s a.capt && eyeFits s a.capt && trellisFits s a.capt csi && sparesFit s a) then
    stCAPACITY
  else stOK

/-- Step 2 of R352 for a command that is not a CANCEL (R55). -/
def runStatus (s : State) (d : List Byte) : Nat :=
  if efStart d then (if s.dp = dpIDLE ∧ s.glob.armed.isNone then stOK else stBUSY)
  else if s.dp ≠ dpRUNNING then stNOT_RUNNING
  else if s.glob.armed.isSome then stBUSY else stOK

/-- The epoch that a command would arm. -/
def armedBy (s : State) (d : List Byte) (t : Nat) : Armed := { target := t, start := efStart d, stop := efStop d, capt := captured s }

/-- The status of a COMMIT_EPOCH without CANCEL, and its target when that is OK (R352). -/
def commitStatus (s : State) (d : List Byte) : Nat × Nat :=
  if !epochDescOk d then (stBAD_DESCRIPTOR, 0)
  else if runStatus s d ≠ stOK then (runStatus s d, 0)
  else match rawTarget s d with
    | none => (stEPOCH_LATE, 0)
    | some t0 =>
      let t := roundTarget s d t0
      if !targetAligned s d t then (stEPOCH_MISALIGNED, 0)
      else if targetLate s (targetM s d) t then (stEPOCH_LATE, 0)
      else if configStatus s (armedBy s d t) = stOK then (stOK, t) else (configStatus s (armedBy s d t), 0)

/-- A rejected epoch sets its sticky bit (Table 3-16). -/
def noteRejected (s : State) (status : Nat) : State :=
  if status = stEPOCH_LATE ∨ status = stEPOCH_MISALIGNED ∨ status = stCAPACITY then setErr s Err.GLOBAL.unit Err.GLOBAL.EPOCH_REJECTED 0 else s

/-- The source entries' duplicate filters are cleared (R91). -/
def clearFilters (s : State) : State :=
  let ids := [F.YG_SRC_STATE.MIRROR_SEEN.id, F.YG_SRC_STATE.PRIMARY_SEEN.id, F.YG_SRC_STATE.ESTABLISHED.id, F.YG_SRC_HIGH.H.id]
  { s with yg := { s.yg with filters := [] }, regs := s.regs.filter fun e => !ids.contains e.1.1 }

/-- A slot whose host is RETIRED or FAILED moves to the lowest free spare (R173). -/
def startMove (s : State) (p : Nat) : State :=
  match freeSpares s with
  | [] => s
  | new :: _ => settleHosts (moveHost s p new)

/-- A START is accepted (Table 3-3): IDLE to ARMED, the stream state of the run that begins at its first coarse sample, the hosts. The
W last written governs the windows that open before the first cycle boundary (DESIGN CHOICE: log entry 102). -/
def startAccepted (s : State) (a : Armed) : State :=
  let s1 := setArmed s (some a)
  let csi := (armedCsi s1).getD 0
  let s2 := settleHosts ((slotsToMove s1).foldl startMove s1)
  let gh : GatehouseSt := { ended := s2.gh.ended, firstSlice := csi / s2.sCell }
  let px : PrismSt := { base := csi, s0 := csi, hist := csi }
  let s3 := takeCycleFields (clearFilters { s2 with gh := gh, px := px, acs := { s2.acs with pendFlags := [], lossPend := [], lossDone := [] } })
  setDp s3 dpARMED

/-- The coarse channels that an armed epoch adds to those in force (R108). -/
def channelsAdded (s : State) (a : Armed) : List Nat := (List.range (actC a.capt)).filter fun c => decide (s.C ≤ c)

/-- An epoch is armed while the data plane runs: the channels that it adds begin at its first coarse sample. -/
def epochAccepted (s : State) (a : Armed) : State :=
  let s1 := setArmed s (some a)
  if a.stop then s1 else
    let csi := (armedCsi s1).getD 0
    let cs := channelsAdded s a
    let fronts := cs.foldl (fun t c => Tab.put t c (csi / s.sCell)) s.gh.fronts
    let freed := cs.foldl (fun t c => Tab.del t c) s.gh.freed
    let bases := cs.foldl (fun t c => Tab.put t c csi) s.px.chanBase
    let next := s.px.next.filter fun e => !cs.contains e.1.2
    { s1 with gh := { s1.gh with fronts := fronts, freed := freed }, px := { s1.px with chanBase := bases, next := next } }

/-- A COMMIT_EPOCH is accepted or rejected (R59, R63): the state, the status and the target. -/
def commitResult (s : State) (d : List Byte) : State × Nat × Nat :=
  let r := commitStatus s d
  if r.1 ≠ stOK then (noteRejected s r.1, r.1, 0)
  else
    let a := armedBy s d r.2
    (if a.start then startAccepted s a else epochAccepted s a, stOK, r.2)

/-- COMMIT_EPOCH without CANCEL (R352). DEDUCED: log entry 32. -/
def commitEpoch (s : State) (d : List Byte) : State := complete (commitResult s d).1 d (commitResult s d).2.1 0 (commitResult s d).2.2

/-- The status of a CANCEL (R62). -/
def cancelStatus (s : State) (d : List Byte) : Nat :=
  if !epochDescOk d then stBAD_DESCRIPTOR
  else match s.glob.armed with
    | none => stNOT_RUNNING
    | some a => if targetLate s (if a.start then actM a.capt else s.M) a.target then stEPOCH_LATE else stOK

/-- The armed epoch is disarmed: what arming it prepared is undone, and a START returns the data plane to IDLE (Table 3-3). -/
def disarm (s : State) : State :=
  match s.glob.armed with
  | none => s
  | some a =>
    let s1 := raise (setArmed s none) 2 []
    if a.start then setDp s1 dpIDLE
    else if a.stop then s1
    else
      let cs := channelsAdded s a
      { s1 with gh := { s1.gh with fronts := s1.gh.fronts.filter fun e => !cs.contains e.1 },
                px := { s1.px with chanBase := s1.px.chanBase.filter fun e => !cs.contains e.1 } }

/-- CANCEL (R62). DEDUCED: log entry 32. -/
def cancelEpoch (s : State) (d : List Byte) : State :=
  let r := cancelStatus s d
  let target := (s.glob.armed.map Armed.target).getD 0
  if r = stOK then complete (disarm s) d stOK 0 target else complete (noteRejected s r) d r 0 0

end Sys2Proof.Machine
end

