-- ==== Sys2Proof/Machine/Commands.lean ====
section
/-! DEFINITION. The commands of the command ring, one definition each (R347 to R352). -/
namespace Sys2Proof.Machine

/-- The bytes of a descriptor. -/
def descOf (l : List Byte) : List Byte := l.take 64

/-- A descriptor is this opcode's to take, or one that no opcode takes (R347). -/
def takesOp (op : Nat) (d : List Byte) : Bool := decide (leAt d 0 1 = op) || decide (6 < leAt d 0 1)

/-- A command of the ring that moves no data is read, once every earlier command has completed (R351). DESIGN CHOICE: log entry 31. -/
def runCommand (op : Nat) (desc : List Byte) (pick : List Byte → Bool) (f : State → List Byte → State) (s : State) :
    Host.Outcome State Fault Refusal :=
  .next (run (fun s => cmdReady s && s.ko.cmds.isEmpty && takesOp op (descOf desc) && pick (descOf desc)) (fun s => f s (descOf desc)) s)

/-- A LOAD or READ command is read, and starts on the lowest free channel from 15 to 31 (R351), with the beats answered by then.
DESIGN CHOICE: log entry 31. DESIGN CHOICE: log entry 40. -/
def runTransfer (op : Nat) (desc : List Byte) (answers : List BeatAnswer) (status : State → List Byte → Nat) (s : State) :
    Host.Outcome State Fault Refusal :=
  .next (run (fun s => cmdReady s && takesOp op (descOf desc) && (freeChannel s).isSome && !waitsFor s (descOf desc))
    (fun s => beatsAnswered ((freeChannel s).getD 15) answers (startOr status s ((freeChannel s).getD 15) (descOf desc))) s)

/-- A descriptor with no operation fields is well formed (Table 16-4). -/
def plainDescOk (op : Nat) (d : List Byte) : Bool := commonOk op d && zeroAt d 8 56

/-- NOP (R347). -/
def doNop (s : State) (d : List Byte) : State := complete s d (if plainDescOk 0 d then stOK else stBAD_DESCRIPTOR) 0 0

def execNop (desc : List Byte) (s : State) : Host.Outcome State Fault Refusal := runCommand 0 desc (fun _ => true) doNop s

/-- LOAD_TABLE (R349). -/
def execLoadTable (desc : List Byte) (answers : List BeatAnswer) (s : State) : Host.Outcome State Fault Refusal :=
  runTransfer 1 desc answers loadTableStatus s

/-- READ_TABLE (R349). -/
def execReadTable (desc : List Byte) (answers : List BeatAnswer) (s : State) : Host.Outcome State Fault Refusal :=
  runTransfer 2 desc answers readTableStatus s

/-- LOAD_REGION (R350). -/
def execLoadRegion (desc : List Byte) (answers : List BeatAnswer) (s : State) : Host.Outcome State Fault Refusal :=
  runTransfer 3 desc answers loadRegionStatus s

/-- READ_REGION (R350). -/
def execReadRegion (desc : List Byte) (answers : List BeatAnswer) (s : State) : Host.Outcome State Fault Refusal :=
  runTransfer 4 desc answers readRegionStatus s

/-- The one of START, STOP and CANCEL that a descriptor sets alone; 0 for none of them, or for a malformed choice. DEDUCED: log entry 32. -/
def epochKind (d : List Byte) : Nat := if efStart d && !efStop d && !efCancel d then 1 else if efStop d && !efStart d && !efCancel d then 2
  else if efCancel d && !efStart d && !efStop d then 3 else 0

/-- COMMIT_EPOCH without START, STOP or CANCEL (R352); a descriptor that sets several of them completes here with BAD_DESCRIPTOR. -/
def execCommitEpoch (desc : List Byte) (s : State) : Host.Outcome State Fault Refusal :=
  runCommand 5 desc (fun d => decide (epochKind d = 0)) commitEpoch s

/-- COMMIT_EPOCH with START (R55). -/
def execCommitEpochStart (desc : List Byte) (s : State) : Host.Outcome State Fault Refusal :=
  runCommand 5 desc (fun d => decide (epochKind d = 1)) commitEpoch s

/-- COMMIT_EPOCH with STOP (R63). -/
def execCommitEpochStop (desc : List Byte) (s : State) : Host.Outcome State Fault Refusal :=
  runCommand 5 desc (fun d => decide (epochKind d = 2)) commitEpoch s

/-- COMMIT_EPOCH with CANCEL (R62). -/
def execCommitEpochCancel (desc : List Byte) (s : State) : Host.Outcome State Fault Refusal :=
  runCommand 5 desc (fun d => decide (epochKind d = 3)) cancelEpoch s

/-- DUMP_NOW is accepted, or finds the data plane not RUNNING (R192): the state and the status. -/
def dumpResult (s : State) : State × Nat := if s.dp = dpRUNNING then (s.wr F.ACC_STATUS.DUMP_PENDING 0 1, stOK) else (s, stNOT_RUNNING)

/-- DUMP_NOW (R192). -/
def dumpNow (s : State) (d : List Byte) : State :=
  if plainDescOk 6 d then complete (dumpResult s).1 d (dumpResult s).2 0 0 else complete s d stBAD_DESCRIPTOR 0 0

def execDumpNow (desc : List Byte) (s : State) : Host.Outcome State Fault Refusal := runCommand 6 desc (fun _ => true) dumpNow s

end Sys2Proof.Machine
end

