-- ==== Sys2Proof/Machine/SundialRows.lean ====
section
/-! DEFINITION. Commands of Sundial: what arrives on its references and pins, and its timers (chapter 14). -/
namespace Sys2Proof.Machine

/-- The phase-jump detector sees a jump beyond PJ_THR on an active reference (R293, condition 3); it does not apply to VIRT. -/
def phaseJump (s : State) (r : Nat) : State :=
  refTimer (reselect (disqualify (s.wr F.SD_REF_STATUS.PJ r 1) r 3)) r true

/-- PHASE_JUMP_DETECT (R293). -/
def execPhaseJumpDetect (r : Fin 4) (ps : Nat) (s : State) : Host.Outcome State Fault Refusal :=
  .next (run (fun s => decide (r.val < 3) && refActive s r && decide (s.rd F.SD_THRESH.PJ_THR 0 * 1000 < ps)) (fun s => phaseJump s r) s)

/-- The clock edges, or the PPS edges, of a reference stop or return. -/
def setEdges (s : State) (r : Nat) (clock on : Bool) : State :=
  let x := getRef s r
  setRef s r (if clock then { x with clk := on } else { x with pps := on })

/-- The edges that a command names are arriving. -/
def edgesOn (s : State) (r : Nat) (clock : Bool) : Bool := if clock then (getRef s r).clk else (getRef s r).pps

/-- The elapsed time at which the PPS activity of a reference is lost: 1.1 s after its last edge (Table 14-1). -/
def ppsLossAt (s : State) (r : Nat) : Nat := (getRef s r).ppsAt + 1100000000 * nsUnits

/-- REF_ACTIVITY_LOSS (R293, condition 1). PPS edges belong to references 0 and 1 only. -/
def execRefActivityLoss (r : Fin 4) (clock : Bool) (s : State) : Host.Outcome State Fault Refusal :=
  .next (run (fun s => decide (r.val < 2 ∨ (r.val = 2 ∧ clock = true)) && edgesOn s r clock)
    (fun s => refEval (setEdges (if clock then s else advanceEl s (ppsLossAt s r)) r clock false) r) s)

/-- REF_ACTIVITY_RETURN (R293). The recovered clock returns only while its lane is UP (R97); VIRT returns by a write of
SD_VIRT_FREQ (R304). -/
def execRefActivityReturn (r : Fin 4) (clock : Bool) (s : State) : Host.Outcome State Fault Refusal :=
  .next (run (fun s => !edgesOn s r clock && (decide (r.val < 2) || (decide (r.val = 2) && clock &&
      decide (s.rd F.YG_CFG.RCLK_EN 0 = 1) && decide (s.rd F.YG_LANE_STATUS.STATE (s.rd F.YG_CFG.RCLK_LANE 0) = laneUP))))
    (fun s =>
      let s1 := setEdges s r clock true
      refEval (if clock then s1 else setRef s1 r { getRef s1 r with ppsAt := s1.el }) r) s)

/-- The frequency measurement of a reference: SD_REF_FREQ, condition 2 of R293, and the selection, which compares frequencies
(R295). DEDUCED: log entry 44. -/
def freqMeasured (s : State) (r : Nat) (f : Int) : State :=
  let s1 := s.wr F.SD_REF_FREQ.FREQ r (unsigned 32 f)
  reselect (noteFreq (refCheck (setRef s1 r { getRef s1 r with freqOk := inFreqWin s1 f, measAt := some s1.el }) r))

/-- The elapsed time at which the next frequency measurement of a reference ends: 100 ms after the last (R293). -/
def nextMeasure (s : State) (r : Nat) : Nat := match (getRef s r).measAt with | some t => t + 100000000 * nsUnits | none => s.el

/-- REF_FREQ_MEASURE (R293). The frequency of VIRT is SD_VIRT_FREQ. -/
def execRefFreqMeasure (r : Fin 4) (freq : Int) (s : State) : Host.Outcome State Fault Refusal :=
  .next (run (fun s => (getRef s r).clk)
    (fun s => freqMeasured (advanceEl s (nextMeasure s r)) r (if r.val = 3 then signed 32 (s.rd F.SD_VIRT_FREQ.FREQ 0) else freq)) s)

/-- The timer of reference r has reached QUAL_TIME (R293, condition 4). -/
def qualDue (s : State) (r : Nat) : Bool :=
  !qualified s r && (match (getRef s r).since with
    | none => false
    | some a => decide (a + s.inForce F.SD_CFG.QUAL_TIME 0 * secUnits ≤ s.el))

/-- REF_QUALIFY (R293, condition 4): the timer reaches QUAL_TIME. Every other reference whose timer has reached it by that
instant qualifies before the selection is evaluated (R294). DEDUCED: log entry 98. -/
def execRefQualify (r : Fin 4) (s : State) : Host.Outcome State Fault Refusal :=
  .next (run (fun s => !qualified s r && (getRef s r).since.isSome)
    (fun s =>
      let s1 := advanceEl s ((getRef s r).since.getD 0 + s.inForce F.SD_CFG.QUAL_TIME 0 * secUnits)
      let due := (List.range 4).filter fun j => decide (j = r.val) || qualDue s1 j
      reselect (due.foldl (fun s j => (setQualified s j true).wr F.SD_REF_STATUS.PJ j 0) s1)) s)

/-- SD_REF_CFG[r] is written: qualification restarts without a disqualification, VIRT becomes inactive, and the selection is
evaluated (R293, R304). DEDUCED: log entry 48. -/
def refCfgWritten (s : State) (r : Nat) : State :=
  let s1 := if r = 3 then setRef s 3 { getRef s 3 with clk := false } else s
  reselect (refTimer (setQualified s1 r false) r true)

/-- SD_REF_DELAY[r] is written: it is converted to timebase units, and the PLL takes up a change of the selected time-bearing
reference's delay by a slew (R292, R298). -/
def refDelayWritten (s : State) (r : Nat) : State :=
  let x := getRef s r
  let d := psToTb (signed 32 (s.rd F.SD_REF_DELAY.DELAY_PS r))
  let s1 := setRef s r { x with delay := d, offset := x.offset.map fun o => o + x.delay - d }
  if s.rd F.SD_STATUS.SEL_VALID 0 = 1 ∧ s.rd F.SD_STATUS.SELECTED 0 = r ∧ timeBearing s r ∧ s.sd.aligned ∧ r ≠ 3 then
    setRemain s1 (remainNow s1 + (d - x.delay)) else s1

/-- WTR_EXPIRE (R296): the timer that expires first. -/
def execWtrExpire (s : State) : Host.Outcome State Fault Refusal :=
  .next (run (fun s => (nextWtr s).isSome)
    (fun s =>
      let w := (nextWtr s).getD (0, 0)
      let s0 := advanceEl s (w.2 + s.rd F.SD_TIMERS.WTR 0 * secUnits)
      let s1 := { s0 with sd := { s0.sd with wtrSpent := w.1 :: s0.sd.wtrSpent } }
      keepWtr
        (if (choose s1).ref = some w.1 ∧ qualified s1 w.1 then
          (if remainNow s1 ≠ 0 then { s1 with sd := { s1.sd with revert := some w.1 } } else takeChoice s1 w.1)
        else s1)) s)

/-- SLEW_COMPLETE (R298): SLEWING clears, and a revert that waited for the slew is made (R296). -/
def execSlewComplete (s : State) : Host.Outcome State Fault Refusal :=
  .next (run (fun s => decide (s.sd.remain ≠ 0))
    (fun s =>
      let s1 := setRemain (advanceEl s (slewDue s)) 0
      match s1.sd.revert with
      | none => s1
      | some c =>
        let s2 := { s1 with sd := { s1.sd with revert := none } }
        if (choose s2).ref = some c ∧ qualified s2 c then keepWtr (takeChoice s2 c) else s2) s)

/-- LOCK_ACHIEVED (R297): the lock condition in ACQUIRE, or in SWITCHING with the slew complete. -/
def execLockAchieved (s : State) : Host.Outcome State Fault Refusal :=
  .next (run (fun s => s.sd.lockSince.isSome && (decide (s.sdState = sdACQUIRE) || (decide (s.sdState = sdSWITCHING) && decide (s.sd.remain = 0))))
    (fun s => reselect (setSd (advanceEl s (s.sd.lockSince.getD 0 + secUnits)) sdLOCKED)) s)

/-- The phase error is updated, saturating at 32 bits, and the lock timing with it (R297, R315): it includes what remains of a slew, by
which the timebase lies away from the reference. -/
def phaseErrUpdated (s : State) (err : Int) : State :=
  let e := sat (err - tbToPs (remainNow s)) 32
  let s1 := s.wr F.SD_PHASE_ERR.ERR 0 (unsigned 32 e)
  let inThr := decide (e.natAbs ≤ s.rd F.SD_THRESH.LOCK_THR 0 * 1000)
  { s1 with sd := { s1.sd with lockSince := if inThr then (if s.sd.lockSince.isSome then s.sd.lockSince else some s.el) else none } }

/-- PHASE_ERR_UPDATE (R315), at the next whole millisecond of the timebase. With no reference selected the phase error is
undefined: a free value. DESIGN CHOICE: log entry 47. -/
def execPhaseErrUpdate (err : Int) (s : State) : Host.Outcome State Fault Refusal :=
  .next (run (fun _ => true)
    (fun s =>
      let s1 := advanceTo s (nextMultiple s (1000000 * nsUnits))
      if s1.rd F.SD_STATUS.SEL_VALID 0 = 1 then phaseErrUpdated s1 err
      else { (s1.takeFree).2.wr F.SD_PHASE_ERR.ERR 0 (s1.takeFree).1 with sd := { s1.sd with lockSince := none } }) s)

/-- SD_VIRT_FREQ is written: the heartbeat of VIRT and its frequency (R304). -/
def virtFreqWritten (s : State) : State :=
  let x := getRef s 3
  freqMeasured (setRef s 3 { x with clk := true, wroteAt := s.el }) 3 (signed 32 (s.rd F.SD_VIRT_FREQ.FREQ 0))

/-- VIRT_TIMEOUT (R304). -/
def execVirtTimeout (s : State) : Host.Outcome State Fault Refusal :=
  .next (run (fun s => (getRef s 3).clk)
    (fun s =>
      let s1 := advanceEl s ((getRef s 3).wroteAt + s.rd F.SD_VIRT_CFG.TIMEOUT 0 * secUnits)
      refEval (setRef s1 3 { getRef s1 3 with clk := false }) 3) s)

/-- An entry of the capture queue: edges stamped in one Sundial clock stand in ascending order of their pins (R310). -/
def putCapture (l : List Capture) (c : Capture) : List Capture :=
  let after := fun x : Capture => decide (x.tb / nsUnits = c.tb / nsUnits) && decide (c.pin < x.pin)
  (l.filter fun x => !after x) ++ c :: l.filter after

/-- An accepted edge enters the capture queue, or is lost (R310, R311). -/
def captureEdge (s : State) (p : Nat) (rising : Bool) : State :=
  if s.sd.capq.length < 64 then
    let c : Capture := { tb := s.tb, pin := p, rising := rising, holdover := !traceable s.sdState }
    let s1 := { s with sd := { s.sd with capq := putCapture s.sd.capq c } }
    if s.sd.capq.isEmpty then raise s1 27 [] else s1
  else setErr (bump s F.SD_CAP_DROP.COUNT 0 1) Err.SD.unit Err.SD.CAP_DROP p

/-- TIME_IN_EDGE (R309, R310): the polarity that EDGE selects, and a pulse not shorter than FILTER. -/
def execTimeInEdge (p : Fin 4) (rising : Bool) (width : Nat) (s : State) : Host.Outcome State Fault Refusal :=
  .next (run (fun s => bit (s.rd F.SD_TIN_CFG.EDGE p) (if rising then 0 else 1) && decide (s.rd F.SD_TIN_CFG.FILTER p ≤ width))
    (fun s => captureEdge s p rising) s)

/-- When the pulses on a TIME_OUT pin end: overlapping pulses merge (R307). -/
def pulseEnd (s : State) (p : Nat) : Nat := maxOf ((s.sd.pulses.filter fun e => decide (e.1 = p)).map Prod.snd)

/-- TIME_OUT[p] is high. -/
def timeOutHigh (s : State) (p : Nat) : Bool := s.sd.pulses.any fun e => decide (e.1 = p)

/-- TIME_OUT_PULSE_END (R307). -/
def execTimeOutPulseEnd (p : Fin 4) (s : State) : Host.Outcome State Fault Refusal :=
  .next (run (fun s => timeOutHigh s p)
    (fun s =>
      let s1 := advanceEl s (pulseEnd s p)
      { s1 with sd := { s1.sd with pulses := s1.sd.pulses.filter fun e => decide (e.1 ≠ p.val) } }) s)

/-- The level of CLKOUT_A (o = 0) or CLKOUT_B (R312): a square wave of FREQ in force that rises where NS = 0; low with EN = 0 or with FREQ
outside 1 Hz to 250 MHz. -/
def clkOut (s : State) (o : Nat) : Bool :=
  let f := s.inForce F.SD_CLKOUT.FREQ o
  decide (s.rd F.SD_CLKOUT.EN o = 1) && decide (1 ≤ f ∧ f ≤ 250000000) && decide (s.tb % secUnits * (2 * f) / secUnits % 2 = 0)

/-- A read of SD_TIME_NS: SEC and FRAC are latched with it (R301). -/
def timeNsRead (s : State) : Nat × State :=
  (s.ns, (s.wr F.SD_TIME_FRAC.FRAC 0 s.frac).wr F.SD_TIME_SEC.SEC 0 s.sec)

/-- A read of SD_CAPQ_NS: the oldest entry is removed and its other fields are latched; an empty queue gives VALID = 0
(R310). -/
def capqRead (s : State) : Nat × State :=
  match s.sd.capq with
  | [] => (0, s)
  | c :: t =>
    let s1 := { s with sd := { s.sd with capq := t } }
    let s2 := (s1.wr F.SD_CAPQ_INFO.HOLDOVER 0 (b2n c.holdover)).wr F.SD_CAPQ_INFO.EDGE 0 (b2n (!c.rising))
    let s3 := (s2.wr F.SD_CAPQ_INFO.PIN 0 c.pin).wr F.SD_CAPQ_INFO.FRAC 0 (c.tb % nsUnits)
    (2 ^ 31 + c.tb / nsUnits % 1000000000, s3.wr F.SD_CAPQ_SEC.SEC 0 (c.tb / secUnits))

end Sys2Proof.Machine
end

