-- ==== Sys2Proof/Machine/TimedEvents.lean ====
section
/-! DEFINITION. The timebase's second, PPS edges, time of day, phase steps and timed events (chapter 14). -/
namespace Sys2Proof.Machine

/-- Slot e is armed (R307). -/
def evArmed (s : State) (e : Nat) : Bool := decide (s.rd F.SD_EV_CTL.ARM e = 1)

/-- The time of slot e. -/
def evTime (s : State) (e : Nat) : Nat := s.rd F.SD_EV_SEC.SEC e * secUnits + s.rd F.SD_EV_NS.NS e * nsUnits

/-- The time of slot e, set. -/
def setEvTime (s : State) (e t : Nat) : State := (s.wr F.SD_EV_SEC.SEC e (t / secUnits)).wr F.SD_EV_NS.NS e (t / nsUnits % 1000000000)

/-- The COMMIT_EPOCH that an action stands for: ROUND_UP, with its target time (Table 14-4). -/
def actionDesc (action t : Nat) : List Byte :=
  let flags := if action = 3 then 3 else if action = 4 then 5 else 1
  record 64 [(0, 1, 5), (20, 1, flags), (21, 1, 1), (24, 8, t / secUnits), (32, 4, t / nsUnits % 1000000000), (36, 2, t % nsUnits)]

/-- The action of a slot that fires, and the status that its command returns (R308). DEDUCED: log entry 38. -/
def evAction (s : State) (e : Nat) : State × Nat :=
  let a := s.rd F.SD_EV_CTL.ACTION e
  if a = 0 then (s, stOK)
  else if a = 1 then dumpResult s
  else
    let r := commitResult s (actionDesc a (s.tb + s.rd F.SD_EV_LEAD.LEAD e * 1000 * nsUnits))
    (r.1, r.2.1)

/-- The pins of a slot go high for WIDTH µs (R307). -/
def evPulse (s : State) (e : Nat) : State :=
  let pins := (List.range 4).filter (bit (s.rd F.SD_EV_CTL.PINS e))
  { s with sd := { s.sd with pulses := s.sd.pulses ++ pins.map fun p => (p, s.el + s.rd F.SD_EV_CTL.WIDTH e * 1000 * nsUnits) } }

/-- A slot disarms, or advances by PERIOD into the future (R307). -/
def evNext (s : State) (e : Nat) : State :=
  let p := s.rd F.SD_EV_PERIOD.PERIOD e * nsUnits
  if p = 0 then s.wr F.SD_EV_CTL.ARM e 0 else setEvTime s e (evTime s e + ((s.tb - evTime s e) / p + 1) * p)

/-- Slot e fires at the present instant (R307, R308). -/
def evFire (s : State) (e : Nat) (late : Bool) : State :=
  let s1 := bump (bump (evPulse s e) F.SD_EV_FIRED.COUNT 0 1) F.SD_EV_STATUS.FIRES e 1
  let s2 := if late then setErr (s1.wr F.SD_EV_STATUS.LATE e 1) Err.SD.unit Err.SD.EVENT_LATE e else s1
  let r := evAction s2 e
  raise (evNext r.1 e) 28 [e, s.sec, s.ns, b2n late, r.2]

/-- Armed slots whose time a jump has reached or passed over fire at once, in ascending order; LATE those that it passed over (R307,
R308). DEDUCED: log entry 38. -/
def firePassed (s : State) : State :=
  (List.range 64).foldl (fun s e => if evArmed s e && decide (evTime s e ≤ s.tb) then evFire s e (decide (evTime s e < s.tb)) else s) s

/-- The timebase jumps by a signed distance; the elapsed time does not. DESIGN CHOICE: log entry 5. -/
def jumpTb (s : State) (d : Int) : State :=
  let t := (((s.tb : Int) + d) % ((2 ^ 64 * secUnits : Nat) : Int)).toNat
  firePassed { s with tb := t, sd := { s.sd with moved := s.sd.moved + d } }

/-- The slot is armed by a write of SD_EV_CTL: one whose time has passed fires at once (R308). -/
def evArmWritten (s : State) (e : Nat) : State :=
  if evArmed s e && decide (evTime s e ≤ s.tb) then evFire s e (decide (evTime s e < s.tb)) else s

/-- The armed slots of one time fire at it, in ascending order (R308). -/
def fireAt (s : State) (t : Nat) : State :=
  ((List.range 64).filter fun e => evArmed s e && decide (evTime s e = t)).foldl (fun s e => evFire s e false) (advanceTo s t)

/-- TIMED_EVENT_FIRE (R307): the slot fires at its time, and with it every slot due in the same Sundial clock. -/
def execTimedEventFire (e : Fin 64) (s : State) : Host.Outcome State Fault Refusal :=
  .next (run (fun s => evArmed s e) (fun s => fireAt s (evTime s e)) s)

/-- SD_STEP_CTL.GO is written (R292, R303): the offset accumulates, and the step is a jump, or a slew. -/
def stepGo (s : State) : State :=
  let ps := signed 64 (s.rd F.SD_STEP.STEP 0)
  let d := psToTb ps
  let s1 := s.wr F.SD_OFFSET.OFFSET 0 (unsigned 64 (signed 64 (s.rd F.SD_OFFSET.OFFSET 0) + ps))
  let s2 := { s1 with sd := { s1.sd with offTb := s1.sd.offTb + d } }
  if s.rd F.SD_STEP_CTL.MODE 0 = 0 then setRemain s2 (remainNow s2 + d)
  else if s.dpStopped then jumpTb s2 d
  else setErr (setRemain s2 (remainNow s2 + d)) Err.SD.unit Err.SD.JUMP_AS_SLEW 0

/-- SD_TOD_SET is written (R302). -/
def todWritten (s : State) : State :=
  if s.dpStopped then { s with sd := { s.sd with tod := some (s.rd F.SD_TOD_SET.SEC 0) } } else setErr s Err.SD.unit Err.SD.TOD_REFUSED 0

/-- The PLL aligns the phase of ACQUIRE, or of a switch whose offset was not known, at the first PPS edge of its time-bearing
selection (R298). DESIGN CHOICE: log entry 46. -/
def acquireAlign (s : State) (r : Nat) : State :=
  if s.rd F.SD_STATUS.SELECTED 0 = r ∧ s.rd F.SD_STATUS.SEL_VALID 0 = 1 ∧ s.sd.aligned = false then
    let e := (refErr s r).getD 0
    let s1 := { s with sd := { s.sd with aligned := true } }
    if s.sdState = sdACQUIRE ∧ s.dpStopped then jumpTb (setRemain s1 0) (-e) else setRemain s1 (-e)
  else s

/-- The instant, at or after the present one, that lies at a signed distance from a second of the timebase. -/
def nextAt (s : State) (pos : Int) : Nat := s.tb + ((pos - (s.tb : Int)) % (secUnits : Int)).toNat

/-- A PPS edge of reference r at a distance from the timebase's second: its offset is measured, less its delay and the phase moved
(R292). DEDUCED: log entry 45. -/
def ppsEdge (s : State) (r : Nat) (pos : Int) : State :=
  let s1 := refEval (setEdges s r false true) r
  let x := getRef s1 r
  acquireAlign (setRef s1 r { x with offset := some (pos - x.delay - movedNow s1), ppsAt := s1.el }) r

/-- PPS_EDGE (R292). VIRT has no PPS of its own, and a pulse shorter than 100 ns is ignored. -/
def execPpsEdge (r : Fin 4) (pulse : PpsPulse) (s : State) : Host.Outcome State Fault Refusal :=
  .next (run (fun s => decide (r.val < 2) && timeBearing s r && decide (100 ≤ pulse.width))
    (fun s => ppsEdge (advanceTo s (nextAt s pulse.pos)) r pulse.pos) s)

/-- The live fields of boundary SECOND (R49). -/
def secondFields : List (Fld × Nat) :=
  [(F.SD_CFG.FREQ_WIN, 0), (F.SD_CFG.QUAL_TIME, 0), (F.SD_CFG.ACQ_BW, 0), (F.SD_CFG.LOOP_BW, 0), (F.SD_TIMERS.HIST, 0),
   (F.SD_CLKOUT.FREQ, 0), (F.SD_CLKOUT.FREQ, 1)]

/-- They take effect. -/
def takeSecondFields (s : State) : State :=
  { s with force := secondFields.foldl (fun r f => Regs.wr r f.1 f.2 (s.rd f.1 f.2)) s.force }

/-- A FREQ_WIN that takes effect judges the last measurement of a reference anew (R293, condition 2). DEDUCED: log entry 44. -/
def judgeWindow (s : State) (r : Nat) : State :=
  let x := getRef s r
  if x.measAt.isSome ∧ x.freqOk ≠ inFreqWin s (refFreq s r) then refCheck (setRef s r { x with freqOk := inFreqWin s (refFreq s r) }) r else s

/-- The pending time of day sets SEC (R302). DESIGN CHOICE: log entry 5. DEDUCED: log entry 38. -/
def takeTod (s : State) : State :=
  match s.sd.tod with
  | none => s
  | some v => firePassed { s with tb := v % 2 ^ 64 * secUnits, sd := { s.sd with tod := none } }

/-- What happens at a whole second of the timebase: SECOND fields, after which the selection is evaluated once (R294), the time of day
(R302) and the slip monitor (R124). DEDUCED: log entry 98. -/
def timebaseSecond (s : State) : State := takeTod (slipUpdate (reselect ((List.range 4).foldl judgeWindow (takeSecondFields s))))

/-- TIMEBASE_SECOND (R124, R302). -/
def execTimebaseSecond (s : State) : Host.Outcome State Fault Refusal :=
  .next (run (fun _ => true) (fun s => timebaseSecond (advanceTo s (nextMultiple s secUnits))) s)

end Sys2Proof.Machine
end

