-- ==== Sys2Proof/Machine/HealthRows.lean ====
section
/-! DEFINITION. The Lodge's own commands: the health record and the scrub of the on-die memories (R285, R287). -/
namespace Sys2Proof.Machine

/-- An interval count of the health record, saturated at its width. -/
def healthCount (s : State) (i bytes : Nat) : Nat := min (Tab.getD s.lo.counts i 0) (256 ^ bytes - 1)

/-- Lanes not UP among those whose role is not DISABLED. -/
def lanesDown (s : State) : Nat := countWhere 64 fun k => decide (effRole s k ≠ 0) && decide (laneState s k ≠ laneUP)

/-- Pavilions RETIRED or FAILED. -/
def retiredCount (s : State) : Nat :=
  countWhere 136 fun k => decide (s.rd F.PAV_STATUS.ROLE k = roRETIRED) || decide (s.rd F.PAV_STATUS.ROLE k = roFAILED)

/-- The fields of Table 13-5 at the offsets of R354. -/
def healthFields (s : State) : List (Nat × Nat × Nat) :=
  [(16, 4, s.lo.seq), (20, 1, s.dp), (21, 1, s.sdState), (22, 1, s.rd F.LODGE_STATUS.COVERAGE 0), (23, 1, spareCount s),
   (24, 2, s.rd F.LODGE_ERR.BITS 0), (26, 1, retiredCount s), (27, 1, unsigned 8 (s.lo.tjMax.getD 0)), (28, 2, healthCount s 0 2),
   (30, 2, healthCount s 1 2), (32, 4, healthCount s 2 4), (36, 2, healthCount s 3 2), (38, 1, healthCount s 4 1), (39, 1, healthCount s 6 1),
   (40, 2, healthCount s 5 2), (42, 2, healthCount s 8 2), (44, 4, healthCount s 7 4), (48, 1, min (lanesDown s) 255), (49, 1, healthCount s 9 1)]

/-- The health record of the present instant. -/
def healthRecord (s : State) : EvRec := { kind := 3, code := 33, tb := s.tb, body := healthFields s }

/-- A health record is issued: it goes to the event queue when HEALTH_EVT = 1, the management plane holds it, and a new interval
begins. EVSEQ of the held copy is that of no ring entry and reads 0. DESIGN CHOICE: log entry 50. -/
def issueHealth (s : State) : State :=
  let e := healthRecord s
  let s1 := bump s F.LODGE_HEALTH.COUNT 0 1
  let s2 := if s.rd F.LODGE_CFG.HEALTH_EVT 0 = 1 then pushEvent s1 e else s1
  let s3 := { s2 with lo := { s2.lo with seq := (s.lo.seq + 1) % 2 ^ 32, counts := [], tjMax := none, latest := eventBytes e 0 } }
  setAlert s3 6

/-- HEALTH_RECORD (R287): at the next instant at which NS is a multiple of 100,000,000. -/
def execHealthRecord (s : State) : Host.Outcome State Fault Refusal :=
  .next (run (fun _ => true) (fun s => issueHealth (advanceTo s (nextMultiple s (100000000 * nsUnits)))) s)

/-- The counter of a corrected word: the unit counter that a chapter names for it, or LODGE_SRAM_CORR (R162, R285). -/
def sramCorrected (s : State) (mem index : Nat) : State :=
  lodgeNote (if mem ≠ 3 then bump s F.LODGE_SRAM_CORR.COUNT 0 1
    else if index < 136 then bump s F.PAV_TILE_CORR.COUNT index 1 else bump s F.PAV_ORANGERY_CORR.COUNT 0 1) 5 1

/-- An uncorrectable word of the Gatehouse input FIFO: the oldest ended cell of the lane is discarded. -/
def fifoBad (s : State) (k : Nat) : State :=
  let x := getLane s k
  setLane s k { x with ended := x.ended.drop 1 }

/-- The block of an uncorrectable tile image is dropped; at its tally channel the next accepted count becomes the held count (R162, R170). -/
def tileDrop (s : State) (img : Img) : State :=
  let host := hostOf s img.logical
  let s1 := if img.withTally then setPv s { s.pv with held := Tab.del s.pv.held (host, img.order) } else s
  dropBlock (setErr (sramFault s1 3) Err.PAV.unit Err.PAV.UNCORR img.pav) img.cyc img.f img.beta host

/-- An uncorrectable tile image in the commit queue (R162): its block is rejected and run again while its channel block is still in
the Orangery, and dropped otherwise. -/
def tileBad (s : State) (n : Nat) : State :=
  match s.pv.queue[n]? with
  | none => s
  | some img =>
    let s1 := setPv s { s.pv with queue := s.pv.queue.eraseIdx n }
    let s2 := setBank s1 img.bank { getBank s1 img.bank with outstanding := (getBank s1 img.bank).outstanding - 1 }
    let r : PavRun := { duty := .live, pav := img.pav, logical := img.logical, beta := img.beta, order := img.order }
    match curHalf s with
    | some o =>
      if o.cyc = img.cyc ∧ o.f = img.f then
        scheduleRerun (reject s2 { run := r, img := img, cause := some 2, mism := false } 2 (s.rd F.PAV_BLOCK_SLOT.G 0)) r
          (s.pv.settled && decide (s.pv.order = s.q))
      else tileDrop s2 img
    | none => tileDrop s2 img

/-- An uncorrectable held count of a host at an order. -/
def heldCountBad (s : State) (k o : Nat) : State :=
  let s1 := setErr (sramFault s 3) Err.PAV.unit Err.PAV.UNCORR k
  match Tab.find s.pv.held (k, o) with
  | some h => setPv s1 { s1.pv with held := Tab.put s1.pv.held (k, o) { h with bad := true } }
  | none => s1

/-- An uncorrectable Orangery word of an input block in a half: the blocks that read it afterwards are dropped (R162). It belongs to no
Pavilion, and PAV_ERR_FIRST holds 0 beside its code. DESIGN CHOICE: log entry 104. -/
def orangeryBad (s : State) (h b : Nat) : State :=
  let s1 := setErr (sramFault s 3) Err.PAV.unit Err.PAV.UNCORR 0
  match Tab.find s.pv.halves h with
  | some o => setPv s1 { s1.pv with halves := Tab.put s1.pv.halves h { o with bad := b :: o.bad } }
  | none => s1

/-- An uncorrectable collapse element of an Eyepiece context marks the element (Table 13-3). -/
def elementBad (s : State) (k j : Nat) : State :=
  let c := getEye s k
  let els := c.els.zipIdx.map fun e => if e.2 = j then (e.1.1, { e.1.2 with inc := true, sat := true }) else e.1
  setEye s k { c with els := els }

/-- An uncorrectable event record is lost and counted (R28). -/
def eventBad (s : State) (n : Nat) : State :=
  if n < s.ko.evq.length then { s with ko := { s.ko with evq := s.ko.evq.eraseIdx n, evLost := s.ko.evLost + 1 } } else s

/-- The tables of a row of Table 13-3: the Prism's of row 2, the Lens' of row 5. -/
def tableOfRow (mem id : Nat) : Bool := (decide (mem = 2) && decide (1 ≤ id ∧ id ≤ 4)) || (decide (mem = 5) && isLensTable id)

/-- A table word is found uncorrectable: it remains so until its entry is loaded again, and the loss recurs at each use (R285). `index` is
2^20 × (16 + 8 × table ID + 4 × bank + Lens group) + entry; smaller values name the history memory and the taper cache, whose words take
effect at the spectrum or context that uses them. DESIGN CHOICE: log entry 51. -/
def tableWordBad (s : State) (mem index : Nat) : State :=
  let v := index / 2 ^ 20 - 16
  let w : Nat × Nat × Nat × Nat := (v / 8, v / 4 % 2, v % 4, index % 2 ^ 20)
  if 16 * 2 ^ 20 ≤ index ∧ tableOfRow mem w.1 = true ∧ w.2.2.2 < tableEntries w.1 then
    { s with tableBad := w :: s.tableBad.filter fun y => decide (y ≠ w) }
  else s

/-- An uncorrectable word of an on-die memory, by its row of Table 13-3. `index` names the word: the lane; the table entry; for row 3 the
place in the commit queue, 4,096 + 128 × host + order for a held count, 2^20 + 128 × half + input block for an Orangery word; the context
times 16,384 plus the element; the place in the event queue, or 1,024 plus the DMA channel. The words of the other rows take
effect where they are used. DESIGN CHOICE: log entry 51. -/
def sramUncorrectable (s : State) (mem index : Nat) : State :=
  if mem = 1 then sramFault (fifoBad s index) 1
  else if mem = 2 ∨ mem = 5 then sramFault (tableWordBad s mem index) mem
  else if mem = 3 then
    if index < 4096 then (if index < s.pv.queue.length then tileBad s index else setErr (sramFault s 3) Err.PAV.unit Err.PAV.UNCORR 0)
    else if index < 2 ^ 20 then heldCountBad s ((index - 4096) / 128) ((index - 4096) % 128)
    else orangeryBad s ((index - 2 ^ 20) / 128) ((index - 2 ^ 20) % 128)
  else if mem = 6 then sramFault (elementBad s (index / 16384) (index % 16384)) 6
  else if mem = 8 then sramFault (if index < 1024 then eventBad s index else jobBusError s (index - 1024)) 8
  else sramFault s mem

/-- SRAM_SCRUB (R285, Table 13-3): a word read by the scrub is corrected in place, or found uncorrectable. -/
def execSramScrub (mem index : Nat) (uncorr : Bool) (s : State) : Host.Outcome State Fault Refusal :=
  .next (run (fun _ => decide (1 ≤ mem ∧ mem ≤ 8)) (fun s => if uncorr then sramUncorrectable s mem index else sramCorrected s mem index) s)

end Sys2Proof.Machine
end

