-- ==== Sys2Proof/Machine/Glasshouse.lean ====
section
/-! DEFINITION. The Glasshouse: initialisation, error correction, failed stacks, the scrub, refresh, and the sensors that steer it
(R368 to R374, R407, R420). -/
namespace Sys2Proof.Machine

/-- The Glasshouse's hidden state, replaced. -/
def setGl (s : State) (x : GlassSt) : State := { s with gl := x }

/-- A stack is declared failed (R374): STACK_FAILED, GLH_ERR.STACK, and the STACK fault of Table 13-4. -/
def declareFailed (s : State) (st : Nat) : State :=
  let s1 := s.wr F.GLH_STATUS.STACK_FAILED 0 (setBit (s.rd F.GLH_STATUS.STACK_FAILED 0) st)
  lodgeErr (setErr s1 Err.GLH.unit Err.GLH.STACK st) Err.LODGE.STACK st 0 []

/-- Corrected symbols are counted (R370). -/
def correctSymbols (s : State) (n : Nat) : State := if n = 0 then s else lodgeNote (bump s F.GLH_CORR_SYM.COUNT 0 n) 7 n

/-- The pseudo-channels of a stack in which a read was uncorrectable within the last millisecond. -/
def recentPch (s : State) (st : Nat) : List Nat :=
  ((s.gl.recent.filter fun e => decide (e.1 = st) && decide (s.el ≤ e.2.2 + msUnits)).map fun e => e.2.1).dedup

/-- A read found an uncorrectable codeword at an address: the stack fails when 4 of its pseudo-channels have had one within 1 ms
(R374). DEDUCED: log entry 80. -/
def noteUncorr (s : State) (a : Nat) : State :=
  let old := s.gl.recent.filter fun e => decide (s.el ≤ e.2.2 + msUnits)
  let s1 := setGl s { s.gl with recent := (stackOf a, pchOf a, s.el) :: old }
  if 4 ≤ (recentPch s1 (stackOf a)).length ∧ stackDead s1 a = false then declareFailed s1 (stackOf a) else s1

/-- A codeword cannot be corrected: two or more erroneous symbols, or left uncorrectable by a merge (R370). -/
def codewordBad (s : State) (w errs : Nat) : Bool := decide (2 ≤ errs) || s.gl.bad.contains w

/-- GLH_CTL.EN is written 1 (R369): initialisation runs. -/
def glhStart (s : State) : State := s.wr F.GLH_STATUS.INIT_BUSY 0 1

/-- Initialisation ends (R369): every byte of the HBM is zero with valid check symbols, and the scrub begins. -/
def glhReady (s : State) (bad : Nat) : State :=
  let s1 := (s.wr F.GLH_STATUS.INIT_BUSY 0 0).wr F.GLH_STATUS.READY 0 1
  let s2 := { s1 with hbm := [], gl := { s1.gl with bad := [], recent := [], scrubPos := [], scrubAt := [], scrubs := [], scrubStart := s1.el } }
  ((List.range 8).filter (bit bad)).foldl declareFailed (s2.wr F.GLH_STATUS.STACK_BAD 0 bad)

/-- GLH_INIT_COMPLETE (R369). -/
def execGlhInitComplete (bad : Nat) (s : State) : Host.Outcome State Fault Refusal :=
  .next (run (fun s => decide (s.rd F.GLH_STATUS.INIT_BUSY 0 = 1)) (fun s => glhReady s (bad % 256)) s)

/-- GLH_CTL.CLEAR_FAIL is written (R374): declarations stand only for stacks whose STACK_BAD bit is set. -/
def clearFail (s : State) : State :=
  setGl (s.wr F.GLH_STATUS.STACK_FAILED 0 ((s.rd F.GLH_STATUS.STACK_FAILED 0) &&& (s.rd F.GLH_STATUS.STACK_BAD 0))) { s.gl with recent := [] }

/-- Beats in a pseudo-channel of 512 MiB (R364): its part of a pass, with its share of the reserved 256 MiB (R371). -/
abbrev pchBeats : Nat := 2 ^ 23

/-- The physical address of beat i of pseudo-channel g, the inverse of R364. -/
def beatAddr (g i : Nat) : Nat := i / 64 * 2 ^ 20 + (g ^^^ (i / 64 % 256)) * 4096 + i % 64 * 64

/-- The pass over a pseudo-channel is not finished. A failed stack is not accessed (R374), and holds up no pass. -/
def scrubLeft (s : State) (g : Nat) : Bool :=
  decide (Tab.getD s.gl.scrubPos g 0 < pchBeats) && !bit (s.rd F.GLH_STATUS.STACK_FAILED 0) (g % 8)

/-- The pseudo-channels of a target port. -/
def portPchs (t : Nat) : List Nat := (List.range 4).map fun i => 4 * t + i

/-- The last scrub access of a pseudo-channel lies at least 64 µs back (R372). -/
def scrubRested (s : State) (g : Nat) : Bool :=
  match Tab.find s.gl.scrubAt g with | some at_ => decide (at_ + 64 * (msUnits / 1000) ≤ s.el) | none => true

/-- The pseudo-channel of a target port whose scrub access comes next, ahead of rungs 3 to 5 (`floor`) or behind all other traffic (R372):
the one least far in its pass. DEDUCED: log entry 80. -/
def scrubNext (s : State) (t : Nat) (floor : Bool) : Option Nat :=
  let ready := (portPchs t).filter fun g =>
    decide (s.rd F.GLH_STATUS.READY 0 = 1) && scrubLeft s g && !(s.gl.scrubs.any fun a => decide (pchOf a = g)) && (!floor || scrubRested s g)
  ready.find? fun g => ready.all fun h => decide (Tab.getD s.gl.scrubPos g 0 ≤ Tab.getD s.gl.scrubPos h 0)

/-- The path is granted to the next scrub access of a pseudo-channel. -/
def scrubGrant (s : State) (g : Nat) : State :=
  let i := Tab.getD s.gl.scrubPos g 0
  (setGl s { s.gl with scrubPos := Tab.put s.gl.scrubPos g (i + 1), scrubAt := Tab.put s.gl.scrubAt g s.el,
                       scrubs := s.gl.scrubs ++ [beatAddr g i] }).emit (.scrub (beatAddr g i))

/-- One codeword met by the scrub (R371): one that it finds uncorrectable is left for its owner's next read to poison.
DEDUCED: log entry 80. -/
def scrubCodeword (a : Nat) (s : State) (x : Nat × Nat) : State :=
  let w := a / 32 + x.1
  if codewordBad s w x.2 then
    let s1 := setGl s { s.gl with bad := w :: s.gl.bad.filter fun y => decide (y ≠ w) }
    noteUncorr (setErr (bump s1 F.GLH_SCRUB_UNCORR.COUNT 0 1) Err.GLH.unit Err.GLH.SCRUB_UNCORR (stackOf a)) a
  else if x.2 = 1 then correctSymbols (bump s F.GLH_SCRUB_CORR.COUNT 0 1) 1
  else s

/-- HBM_SCRUB_ACCESS (R371): the beat of the oldest scrub grant is read. A failed stack is not accessed (R374). -/
def execHbmScrubAccess (errs : List Nat) (s : State) : Host.Outcome State Fault Refusal :=
  .next (run (fun s => decide (s.rd F.GLH_STATUS.READY 0 = 1) && !s.gl.scrubs.isEmpty)
    (fun s =>
      let a := s.gl.scrubs.headD 0
      let s1 := setGl s { s.gl with scrubs := s.gl.scrubs.tail }
      if stackDead s a then s1 else [(0, errs.getD 0 0), (1, errs.getD 1 0)].foldl (scrubCodeword a) s1) s)

/-- SCRUB_PERIOD_END (R371, R372): a new pass begins, or an unfinished one counts and continues. -/
def execScrubPeriodEnd (s : State) : Host.Outcome State Fault Refusal :=
  .next (run (fun s => decide (s.rd F.GLH_STATUS.READY 0 = 1))
    (fun s =>
      let s1 := advanceEl s (s.gl.scrubStart + s.rd F.GLH_SCRUB.PERIOD 0 * secUnits)
      let s2 := setGl s1 { s1.gl with scrubStart := s1.el }
      if (List.range 256).any (scrubLeft s2) || !s2.gl.scrubs.isEmpty then bump s2 F.GLH_SCRUB_LATE.COUNT 0 1
      else setGl s2 { s2.gl with scrubPos := [] }) s)

/-- Every refresh that a stack owes is made, for refresh is never skipped (R373); none is postponed or forced any more. -/
def refresh (s : State) (st : Nat) : State :=
  let s1 := setGl s { s.gl with postponed := Tab.del s.gl.postponed st, forced := s.gl.forced.filter fun x => decide (x ≠ st) }
  (List.replicate (Tab.getD s.gl.postponed st 0) (Output.refresh st)).foldl State.emit s1

/-- A refresh interval of a stack expires under traffic: panic postpones it by at most 4 intervals, and then it is forced (R373).
DEDUCED: log entry 80. -/
def refreshDue (s : State) (st : Nat) (busy : Bool) : State :=
  let owed := Tab.getD s.gl.postponed st 0 + 1
  let s1 := setGl s { s.gl with postponed := Tab.put s.gl.postponed st owed }
  if busy = false ∨ s.cl.panic.isEmpty = true ∨ s.gl.forced.contains st = true then refresh s1 st
  else if owed ≤ 4 then s1
  else bump (setGl s1 { s1.gl with forced := st :: s1.gl.forced }) F.GLH_REFRESH_FORCED.COUNT 0 1

/-- HBM_REFRESH (R373). -/
def execHbmRefresh (st : Fin 8) (busy : Bool) (s : State) : Host.Outcome State Fault Refusal :=
  .next (run (fun s => decide (s.rd F.GLH_STATUS.READY 0 = 1)) (fun s => refreshDue s st busy) s)

/-- The refresh interval of a stack halves at 85 °C and returns to normal below 82 °C (R373). -/
def setHot (s : State) (st : Nat) (t : Int) : State :=
  let h := s.rd F.GLH_STATUS.HOT 0
  if 85 ≤ t then s.wr F.GLH_STATUS.HOT 0 (setBit h st) else if t < 82 then s.wr F.GLH_STATUS.HOT 0 (clrBit h st) else s

/-- BELV_TEMP_WARN in °C. -/
def tempWarn (s : State) : Int := signed 8 (s.rd F.BELV_TEMP_WARN.TEMP 0)

/-- The TEMP alert: a sensor that lay below the warning temperature reaches it (Table 18-4). Sensors 0 to 7 are the die's, 8 to 15 the
stacks'. -/
def tempAlert (s : State) (temps : List Int) : State :=
  let hot := (List.range 16).filter fun i => decide (tempWarn s ≤ temps.getD i (-128))
  let s1 := { s with bv := { s.bv with hotSensors := hot } }
  if hot.all fun i => s.bv.hotSensors.contains i then s1 else setAlert s1 3

/-- The readings of the sensors reach their registers, the refresh interval, the health record's TJ_MAX and the alert. -/
def takeTemps (s : State) (die stack : List Int) : State :=
  let d := (List.range 8).map fun i => die.getD i 0
  let k := (List.range 8).map fun i => stack.getD i 0
  let s1 := State.each s (List.range 8) fun s i =>
    setHot ((s.wr F.BELV_DIE_TEMP.TEMP i (unsigned 8 (d.getD i 0))).wr F.GLH_STACK_TEMP.TEMP i (unsigned 8 (k.getD i 0))) i (k.getD i 0)
  let top := d.foldl max (-128)
  let s2 := { s1 with pins := { s1.pins with dieTemp := d }, lo := { s1.lo with tjMax := some (max top (s1.lo.tjMax.getD top)) } }
  tempAlert s2 (d ++ k)

/-- The thermal-trip latch is released while COLD_RESET_N is asserted with every die sensor below 95 °C (R420). -/
def tripCooled (s : State) : Bool := s.pins.thermTrip && !(s.glob.coldHeld && s.pins.dieTemp.all fun t => decide (t < 95))

/-- TEMPERATURE_SAMPLE (R373, R402). While a cold reset is held, only the trip circuit sees the sensors. -/
def execTemperatureSample (die stack : List Int) (s : State) : Host.Outcome State Fault Refusal :=
  .next (runAlways (fun _ => true)
    (fun s =>
      if s.held then
        let s1 := { s with pins := { s.pins with dieTemp := (List.range 8).map fun i => die.getD i 0 } }
        { s1 with pins := { s1.pins with thermTrip := tripCooled s1 } }
      else takeTemps s die stack) s)

/-- THERM_TRIP (R420): the trip circuit is independent of every register and of every reset. -/
def execThermTrip (sensor : Fin 8) (temp : Int) (s : State) : Host.Outcome State Fault Refusal :=
  .next (runAlways (fun _ => decide (105 ≤ temp))
    (fun s =>
      let d := (List.range 8).map fun i => s.pins.dieTemp.getD i 0
      { s with pins := { thermTrip := true, dieTemp := d.set sensor temp } }) s)

/-- Twice the limits of the operating range of a supply in mV (Table 19-2). -/
def supplyRange (v : Nat) : Nat × Nat :=
  [(1455, 1545), (1552, 1648), (2134, 2266), (776, 824), (3420, 3780), (1470, 1530), (2352, 2448), (3420, 3780)].getD v (0, 0)

/-- One reading of a supply (R407): two in a row outside the range set LODGE_ERR.SUPPLY, with one event per excursion, which two in a
row inside the range end. DEDUCED: log entry 88. -/
def takeSupply (mv : List Nat) (s : State) (v : Nat) : State :=
  let x := mv.getD v 0
  let r := supplyRange v
  let s1 := s.wr F.BELV_VMON.MV v x
  let l := s1.lo
  if 2 * x < r.1 ∨ r.2 < 2 * x then
    let n := Tab.getD l.supplyOut v 0 + 1
    let s2 := { s1 with lo := { l with supplyOut := Tab.put l.supplyOut v n, supplyIn := Tab.del l.supplyIn v } }
    if n < 2 then s2
    else if s2.lo.supplyRaised.contains v then lodgeBit s2 Err.LODGE.SUPPLY 0
    else lodgeErr { s2 with lo := { s2.lo with supplyRaised := v :: s2.lo.supplyRaised } } Err.LODGE.SUPPLY 0 0 [v]
  else
    let n := Tab.getD l.supplyIn v 0 + 1
    let s2 := { s1 with lo := { l with supplyIn := Tab.put l.supplyIn v n, supplyOut := Tab.del l.supplyOut v } }
    if n < 2 then s2 else { s2 with lo := { s2.lo with supplyRaised := s2.lo.supplyRaised.filter fun w => decide (w ≠ v) } }

/-- SUPPLY_MEASURE (R407). -/
def execSupplyMeasure (mv : List Nat) (s : State) : Host.Outcome State Fault Refusal :=
  .next (run (fun _ => true) (fun s => (List.range 8).foldl (takeSupply mv) s) s)

end Sys2Proof.Machine
end

