-- ==== Sys2Proof/Machine/Decoder.lean ====
section
/-! DEFINITION. What a BAR0 offset names: the register map as the Kiosk and the register fabric decode it (R15, R22, R382). -/
namespace Sys2Proof.Machine

/-- The fields of the block that an offset lies in (Table 0-10). -/
def regBlock (off : Nat) : List Fld :=
  if off < 0x00100000 then RegMap.global
  else if off < 0x00200000 then RegMap.kiosk
  else if off < 0x00300000 then RegMap.dma
  else if off < 0x00400000 then RegMap.cloister
  else if off < 0x00800000 then RegMap.glasshouse
  else if off < 0x00A00000 then RegMap.yargil
  else if off < 0x00C00000 then RegMap.gatehouse
  else if off < 0x01000000 then RegMap.prism
  else if off < 0x01800000 then RegMap.pavilion
  else if off < 0x01C00000 then RegMap.accum ++ RegMap.portico
  else if off < 0x02000000 then RegMap.lens
  else if off < 0x02400000 then RegMap.eyepiece
  else if off < 0x02800000 then RegMap.trellis
  else if off < 0x02C00000 then RegMap.eth ++ RegMap.tsu
  else if off < 0x03000000 then RegMap.sundial
  else if off < 0x03400000 then RegMap.lodge
  else if off < 0x03800000 then RegMap.belvedere
  else if off < 0x03C00000 then RegMap.power
  else if off < 0x04000000 then RegMap.fuse
  else []

/-- The error register of the unit whose block an offset lies in. DEDUCED: log entry 21. -/
def regUnit (off : Nat) : ErrUnit :=
  if off < 0x00100000 then Err.GLOBAL.unit
  else if off < 0x00200000 then Err.KIOSK.unit
  else if off < 0x00300000 then Err.DMA.unit
  else if off < 0x00400000 then Err.CL.unit
  else if off < 0x00800000 then Err.GLH.unit
  else if off < 0x00A00000 then Err.YG.unit
  else if off < 0x00C00000 then Err.GH.unit
  else if off < 0x01000000 then Err.PR.unit
  else if off < 0x01800000 then Err.PAV.unit
  else if off < 0x01801000 then Err.ACC.unit
  else if off < 0x01C00000 then Err.PO.unit
  else if off < 0x02000000 then Err.LENS.unit
  else if off < 0x02400000 then Err.EYE.unit
  else if off < 0x02800000 then Err.TR.unit
  else if off < 0x02C00000 then Err.ETH.unit (off / 0x10000 % 4)
  else if off < 0x03000000 then Err.SD.unit
  else if off < 0x03400000 then Err.LODGE.unit
  else if off < 0x03800000 then Err.BELV.unit
  else if off < 0x03C00000 then Err.POWER.unit
  else Err.GLH.unit

/-- The copy of a field whose register lies at an offset. -/
def copyAt (f : Fld) (off : Nat) : Option Nat :=
  if off < f.addr then none
  else if f.stride = 0 then (if off = f.addr then some 0 else none)
  else if (off - f.addr) % f.stride = 0 ∧ (off - f.addr) / f.stride < f.count then some ((off - f.addr) / f.stride)
  else none

/-- The fields of the register at an offset, with their copies. -/
def fieldsAt (off : Nat) : List (Fld × Nat) := (regBlock off).filterMap fun f => (copyAt f off).map fun k => (f, k)

/-- The fields of the 64-bit quantity whose _HI register lies at an offset (R16). -/
def hiFieldsAt (off : Nat) : List (Fld × Nat) :=
  if off < 4 then [] else (fieldsAt (off - 4)).filter fun e => e.1.wide

/-- The offset is that of a word of the MSI-X table or of the pending-bit array (R339). -/
def msixOffset (off : Nat) : Bool :=
  (decide (0x108000 ≤ off) && decide (off < 0x108400)) || decide (off = 0x109000) || decide (off = 0x109004)

/-- The power domain that the registers of an offset lie in, for a domain whose registers go with it (R72, Table 3-5): those of a lane, of
the Prism, of a Pavilion, of the Eyepiece, of the Trellis and of a port. -/
def regDomain (off : Nat) : Option Nat :=
  if 0x00800000 ≤ off ∧ off < 0x00840000 then some (28 + (off - 0x00800000) / 0x4000)
  else if 0x00C00000 ≤ off ∧ off < 0x01000000 then some 17
  else if 0x01000000 ≤ off ∧ off < 0x01088000 then some ((off - 0x01000000) / 0x8000)
  else if 0x02000000 ≤ off ∧ off < 0x02400000 then some 22
  else if 0x02400000 ≤ off ∧ off < 0x02800000 then some 23
  else if 0x02800000 ≤ off ∧ off < 0x02840000 then some (24 + (off - 0x02800000) / 0x10000)
  else none

/-- A word of BAR0 names a register, and its domain is not OFF (R22, R72, R382). -/
def isDecoded (s : State) (off : Nat) : Bool :=
  (msixOffset off || !(fieldsAt off).isEmpty || !(hiFieldsAt off).isEmpty) &&
    (match regDomain off with | some d => decide (domState s d ≠ pdOFF) | none => true)

end Sys2Proof.Machine
end

