-- ==== Sys2Proof/Machine/Cloister.lean ====
section
/-! DEFINITION. The Cloister: the transaction sampler and its trace ring, decode hangs, arbitration and panic, answers of HBM reads,
and master resets (R376 to R383, R392 to R395, R424). The units move their data with their own commands; the commands of this
file carry what the bus matrix itself does. -/
namespace Sys2Proof.Machine

/-- The Cloister's hidden state, replaced. -/
def setCl (s : State) (x : CloisterSt) : State := { s with cl := x }

/-- Outcomes of a trace record (Table 18-1). -/
abbrev ocOK : Nat := 0
abbrev ocPOISON : Nat := 1
abbrev ocDECODE_HANG : Nat := 2
abbrev ocREG_DECODE : Nat := 3
abbrev ocDISCARDED : Nat := 4
abbrev ocERROR_RESPONSE : Nat := 5

/-- The trace ring's region. -/
def traceRegion (s : State) : Nat := s.rd F.BELV_TS_CFG.REGION 0

/-- The trace ring has no room for a record (R394), or no record can be written at all. -/
def traceFull (s : State) : Bool :=
  hung s 9 || decide (regionSize s (traceRegion s) = 0) ||
    decide ((s.rd F.BELV_TRACE_WR.WR 0 + 32) % regionSize s (traceRegion s) = s.rd F.BELV_TRACE_RD.RD 0)

/-- A record is dropped (R395). DEDUCED: log entry 79. -/
def traceDrop (s : State) : State :=
  let s1 := bump s F.BELV_TRACE_DROPPED.COUNT 0 1
  let s2 := if s.bv.dropped = 0 then setErr s1 Err.BELV.unit Err.BELV.TRACE_DROP 0 else s1
  { s2 with bv := { s2.bv with dropped := s2.bv.dropped + 1 } }

/-- A record is written at WR. -/
def tracePut (s : State) (rec_ : List Byte) : State :=
  let wr := s.rd F.BELV_TRACE_WR.WR 0
  let s1 := s.hbmWrite (regionBase s (traceRegion s) + wr) rec_
  bump (s1.wr F.BELV_TRACE_WR.WR 0 ((wr + 32) % regionSize s (traceRegion s))) F.BELV_TRACE_RECORDS.COUNT 0 1

/-- The gap record of a number of drops (Table 18-1). -/
def gapRecord (s : State) (n : Nat) : List Byte := record 32 [(0, 4, s.ns), (4, 4, s.sec), (8, 1, 2), (12, 4, min n (2 ^ 32 - 1))]

/-- After drops, a gap record goes before the next record, and the TRACE_DROP event is raised (R395). -/
def traceGap (s : State) : State :=
  if s.bv.dropped = 0 then s else
    let s1 := tracePut s (gapRecord s s.bv.dropped)
    raise { s1 with bv := { s1.bv with dropped := 0 } } 9 [s.bv.dropped]

/-- A sampled record is written or dropped. DEDUCED: log entry 79. -/
def traceRecord (s : State) (rec_ : List Byte) (bufFull : Bool) : State :=
  if bufFull || traceFull s then traceDrop s else
    let s1 := traceGap s
    if traceFull s1 then traceDrop s1 else tracePut s1 rec_

/-- The record of a transaction (Table 18-1). -/
def transRecord (q : Req) (outcome latency : Nat) : List Byte :=
  record 32 [(0, 4, q.tb / nsUnits % 1000000000), (4, 4, q.tb / secUnits), (8, 1, 1), (9, 1, q.master),
    (10, 1, b2n q.write + 2 * (q.beats - 1)), (11, 1, outcome), (12, 4, min latency (2 ^ 32 - 1)),
    (16, 8, q.addr % 2 ^ 37 + q.target * 2 ^ 62), (24, 4, q.ordinal.getD 0)]

/-- The outcome of a transaction is known: its record, when the sampler took it (R392, R393). -/
def outcome (s : State) (q : Req) (oc latency : Nat) (bufFull : Bool) : State :=
  if q.ordinal.isSome ∧ s.rd F.BELV_TS_CFG.EN 0 = 1 then traceRecord s (transRecord q oc latency) bufFull else s

/-- A burst of an eligible master takes the next number, and the sampler takes it when the number is a multiple of S (R392). -/
def number (s : State) (q : Req) : State × Req :=
  if s.rd F.BELV_TS_CFG.EN 0 = 0 ∨ q.master = 9 ∨ bit (s.rd F.BELV_TS_CFG.MASTERS 0) q.master = false then (s, q) else
    let n := s.bv.ordinal
    ({ s with bv := { s.bv with ordinal := n + 1 } }, if n % s.rd F.BELV_TS_PERIOD.S 0 = 0 then { q with ordinal := some n } else q)

/-- Some valid region holds a whole burst. -/
def inRegion (s : State) (a len : Nat) : Bool :=
  (List.range 32).any fun e => decide (regionBase s e ≤ a) && decide (a + len ≤ regionBase s e + regionSize s e)

/-- A master hangs on a request that lies in no valid region (R381, R424). -/
def hang (s : State) (q : Req) : State :=
  let m := q.master
  let s1 := setCl s { s.cl with hung := Tab.put s.cl.hung m q }
  let s2 := setErr s1 Err.CL.unit Err.CL.DECODE_HANG m
  let s3 := s2.wr F.CL_HANG_MASK.MASK 0 (setBit (s2.rd F.CL_HANG_MASK.MASK 0) m)
  lodgeErr ((s3.wr F.CL_HANG_ADDR.WRITE m (b2n q.write)).wr F.CL_HANG_ADDR.ADDR m q.addr) Err.LODGE.DECODE_HANG m 0 [m]

/-- The target kind of a target port: 0 Glasshouse, 1 table memories, 2 register fabric. -/
def targetOf (t : Nat) : Nat := if t < 64 then 0 else t - 63

/-- The rung of a master (Table 17-1). -/
def rungOfMaster (m : Nat) : Nat := if m = 8 then 2 else if m = 6 ∨ m = 7 then 3 else if m = 5 then 4 else if 1 ≤ m ∧ m ≤ 4 then 1 else 5

/-- A master connects to a target (Table 17-1). -/
def connects (m t : Nat) : Bool := if targetOf t = 0 then decide (m ≤ 9) else decide (m = 0) || decide (m = 10)

/-- A burst that R365 allows: 1 to 16 beats from a 64-byte boundary, within 1 KiB. -/
def burstOk (q : PortRequest) : Bool :=
  decide (1 ≤ q.beats ∧ q.beats ≤ 16) && decide (q.addr % 64 = 0) && decide (q.addr % 1024 + 64 * q.beats ≤ 1024) && decide (q.addr < 2 ^ 37)

/-- Reads of a master that are not yet answered. -/
def tagsOf (s : State) (m : Nat) : Nat :=
  (s.cl.issued.filter fun q => decide (q.master = m)).length + (s.cl.discard.filter fun q => decide (q.master = m)).length

/-- A request of a port as the Cloister tracks it. -/
def asReq (s : State) (t : Nat) (q : PortRequest) : Req :=
  { master := q.master, addr := q.addr, write := q.write, beats := q.beats, rid := q.rid, target := targetOf t, tb := s.tb }

/-- A scrub access is under way to a beat of a burst: no other access to that beat runs (R371). -/
def scrubHolds (s : State) (q : PortRequest) : Bool := s.gl.scrubs.any fun a => decide (q.addr ≤ a) && decide (a < q.addr + 64 * q.beats)

/-- A request that a target port considers: a legal burst (R365; an access of the register fabric is none) of a connected master that is not
hung, not being reset, and has a tag. -/
def presented (s : State) (t : Nat) (q : PortRequest) : Bool :=
  connects q.master t && (decide (t = 65) || burstOk q) &&
    (decide (64 ≤ t) || ((decide (pchOf q.addr / 4 = t) || !inRegion s q.addr (64 * q.beats)) && !scrubHolds s q)) && !hung s q.master && !s.cl.resetting.contains q.master && decide (tagsOf s q.master < 64)

/-- A request that must wait for an earlier one of its master, so that answers of one ID keep their order (R376). DEDUCED: log entry 77. -/
def heldBack (s : State) (q : PortRequest) : Bool :=
  !q.write && s.cl.issued.any fun r => decide (r.master = q.master) && decide (r.rid = q.rid) && decide (pchOf r.addr / 4 ≠ pchOf q.addr / 4)

/-- Requests that newly count as held back. -/
def noteHeld (s : State) (l : List PortRequest) : State :=
  let new := l.filter fun q => !s.cl.held.contains q
  if new.isEmpty then s else setCl (bump s F.CL_HOLDBACK.COUNT 0 new.length) { s.cl with held := s.cl.held ++ new }

/-- The demand level of real-time port q, the larger of how full its write FIFO and how empty its read FIFO is (R378). -/
def demandLevel (fills empties : List Nat) (q : Nat) : Nat := max (fills.getD q 0) (empties.getD q 0)

/-- A demand level `l` moves real-time port q into or out of panic (R378). -/
def panicLevel (s : State) (q l : Nat) : State :=
  if s.cl.panic.contains q then
    (if l ≤ s.rd F.GLH_PANIC_CFG.OFF q then setCl s { s.cl with panic := s.cl.panic.filter fun x => decide (x ≠ q) } else s)
  else if s.rd F.GLH_PANIC_CFG.ON q ≤ l then setCl (bump s F.GLH_PANIC_CNT.COUNT q 1) { s.cl with panic := s.cl.panic ++ [q] }
  else s

/-- The request of the next master of a rung in turn: ascending m after the one served last (R379, step 4). -/
def inTurn (s : State) (t rung : Nat) (l : List PortRequest) : Option PortRequest :=
  let own := fun m => l.find? fun q => decide (q.master = m)
  let ms := (List.range 11).filter fun m => decide (rungOfMaster m = rung)
  let last := Tab.find s.cl.turn (t, rung)
  let after := match last with | some x => ms.filter fun m => decide (x < m) | none => ms
  ((after ++ ms).filterMap own).head?

/-- What a free path goes to. -/
inductive Grant where
  | burst (q : PortRequest)
  | scrub (pch : Nat)
  | none

/-- The choice of R379, steps 2 to 5. -/
def choose_ (s : State) (t : Nat) (l : List PortRequest) : Grant :=
  let panic := (List.range 4).findSome? fun q =>
    if t < 64 ∧ s.cl.panic.contains q = true then l.find? (fun r => decide (r.master = q + 1)) else Option.none
  let first := panic <|> inTurn s t 1 l <|> inTurn s t 2 l
  match first with
  | some q => .burst q
  | Option.none =>
    match if t < 64 then scrubNext s t true else Option.none with
    | some g => .scrub g
    | Option.none =>
      match inTurn s t 3 l <|> inTurn s t 4 l <|> inTurn s t 5 l with
      | some q => .burst q
      | Option.none =>
        match if t < 64 then scrubNext s t false else Option.none with
        | some g => .scrub g
        | Option.none => .none

/-- Byte enables of a codeword of a burst: two codewords to a beat. -/
def enablesOf (q : PortRequest) (i : Nat) : Nat := q.enables.getD (i / 2) 0 / 2 ^ (32 * (i % 2)) % 2 ^ 32

/-- A write to one codeword (R370): written whole it is afresh; written in part it is read, corrected and merged, and stays
uncorrectable when that read is. DEDUCED: log entry 81. -/
def writeCodeword (q : PortRequest) (s : State) (i : Nat) : State :=
  let en := enablesOf q i
  let w := q.addr / 32 + i
  if en = 0 ∨ stackDead s q.addr = true then s
  else if en = 2 ^ 32 - 1 then setGl s { s.gl with bad := s.gl.bad.filter fun x => decide (x ≠ w) }
  else
    let e := q.errs.getD i 0
    if codewordBad s w e then
      let s1 := lodgeNote (bump s F.GLH_UNCORR.COUNT 0 1) 8 1
      noteUncorr (setErr (setGl s1 { s1.gl with bad := w :: s1.gl.bad.filter fun x => decide (x ≠ w) }) Err.GLH.unit Err.GLH.UNCORR (stackOf q.addr)) q.addr
    else correctSymbols s e

/-- The path is granted to a burst: a write is accepted whole, a read is issued, and an access of the other targets is answered.
DEDUCED: log entry 76. -/
def grantBurst (s : State) (t : Nat) (q : PortRequest) (bufFull : Bool) : State :=
  let s1 := s.emit (.grant t q.master q.addr)
  let s2 := setCl s1 { s1.cl with
    turn := Tab.put s1.cl.turn (t, rungOfMaster q.master) q.master, held := s1.cl.held.filter fun x => decide (x ≠ q),
    parked := Tab.put s1.cl.parked t (if t = 65 then 0 else q.master) }
  let n := number s2 (asReq s2 t q)
  if targetOf t = 0 then
    if q.write then outcome ((List.range (2 * q.beats)).foldl (writeCodeword q) n.1) n.2 ocOK q.waited bufFull
    else setCl n.1 { n.1.cl with issued := n.1.cl.issued ++ [n.2] }
  else if targetOf t = 1 then outcome n.1 n.2 (if q.dead then ocERROR_RESPONSE else ocOK) q.waited bufFull
  else outcome n.1 n.2 (if isDecoded n.1 (q.addr / 4 * 4) then ocOK else ocREG_DECODE) q.waited bufFull

/-- Requests that decode to no region hang their masters (R381); the sampler numbers them as they are met. DEDUCED: log entry 76. -/
def hangAll (t : Nat) (s : State) (q : PortRequest) : State :=
  if hung s q.master then s else
    let n := number s (asReq s t q)
    hang n.1 n.2

/-- A stack of a target port whose refresh is forced: it goes ahead of every other access (R373, R379). DEDUCED: log entry 80. -/
def forcedAt (s : State) (t : Nat) : Option Nat :=
  if t < 64 then ((portPchs t).map fun g => g % 8).find? fun st => s.gl.forced.contains st else none

/-- The next grant of a target port. DESIGN CHOICE: log entry 75. -/
def cloisterGrant (s : State) (t : Nat) (ready waiting : List PortRequest) (fills empties : List Nat) (bufFull : Bool) : State :=
  let s1 := (List.range 4).foldl (fun s q => panicLevel s q (demandLevel fills empties q)) s
  let l := (ready ++ waiting).filter (presented s1 t)
  let lost := if t < 64 then l.filter fun q => !inRegion s1 q.addr (64 * q.beats) else []
  let s2 := lost.foldl (hangAll t) s1
  let good := (ready.filter (presented s1 t)).filter fun q => !lost.contains q && !hung s2 q.master
  let s3 := if t < 64 then noteHeld s2 (good.filter (heldBack s2)) else s2
  let free := if t < 64 then good.filter fun q => !heldBack s3 q else good
  match forcedAt s3 t with
  | some st => refresh s3 st
  | none =>
    match choose_ s3 t free with
    | .burst q => grantBurst s3 t q bufFull
    | .scrub g => scrubGrant s3 g
    | .none => s3

/-- CLOISTER_GRANT (R379). -/
def execCloisterGrant (t : Fin 66) (ready waiting : List PortRequest) (fills empties : List Nat) (bufFull : Bool) (s : State) :
    Host.Outcome State Fault Refusal :=
  .next (run (fun _ => true) (fun s => cloisterGrant s t ready waiting fills empties bufFull) s)

/-- The codewords of a read that are poisoned, and the symbols corrected in the others. -/
def readBad (s : State) (q : Req) (errs : List Nat) : List Nat :=
  (List.range (2 * q.beats)).filter fun i => codewordBad s (q.addr / 32 + i) (errs.getD i 0)

/-- A read returns (R370): corrected symbols count, and a beat with an uncorrectable codeword counts once and is poisoned. A failed
stack answers every beat poisoned without an access (R374). -/
def readReturns (s : State) (q : Req) (errs : List Nat) : State × Bool :=
  if stackDead s q.addr then (s, true) else
    let bad := readBad s q errs
    let fixed := ((List.range (2 * q.beats)).filter fun i => !bad.contains i && decide (errs.getD i 0 = 1)).length
    let beats := (bad.map fun i => i / 2).dedup.length
    let s1 := correctSymbols s fixed
    if beats = 0 then (s1, false) else
      let s2 := setErr (lodgeNote (bump s1 F.GLH_UNCORR.COUNT 0 beats) 8 beats) Err.GLH.unit Err.GLH.UNCORR (stackOf q.addr)
      (noteUncorr s2 q.addr, true)

/-- The port of a master being reset opens when its last tag has returned (R383, step 5). -/
def settleReset (s : State) (m : Nat) : State :=
  if tagsOf s m = 0 then setCl s { s.cl with resetting := s.cl.resetting.filter fun x => decide (x ≠ m) } else s

/-- The oldest unanswered read of a master and ID (R376). -/
def oldestRead (l : List Req) (m rid : Nat) : Option Req := l.find? fun q => decide (q.master = m) && decide (q.rid = rid)

/-- The answer of the oldest read of a master and ID. DESIGN CHOICE: log entry 75. -/
def readAnswered (s : State) (m rid : Nat) (errs : List Nat) (latency : Nat) (bufFull : Bool) : State :=
  match oldestRead s.cl.discard m rid with
  | some q =>
    let r := readReturns (setCl s { s.cl with discard := s.cl.discard.erase q }) q errs
    settleReset (outcome r.1 q ocDISCARDED latency bufFull) m
  | none =>
    match oldestRead s.cl.issued m rid with
    | some q =>
      let r := readReturns (setCl s { s.cl with issued := s.cl.issued.erase q }) q errs
      outcome r.1 q (if r.2 then ocPOISON else ocOK) latency bufFull
    | none => s

/-- HBM_READ_RESPONSE (R370, R376, R393). -/
def execHbmReadResponse (m : Fin 11) (rid : Nat) (errs : List Nat) (latency : Nat) (bufFull : Bool) (s : State) :
    Host.Outcome State Fault Refusal :=
  .next (run (fun s => (oldestRead s.cl.discard m rid).isSome || (oldestRead s.cl.issued m rid).isSome)
    (fun s => readAnswered s m rid errs latency bufFull) s)

/-- A master is reset (R383): its reads in flight are discarded as they return, and a hung request is discarded and recorded, with a
free latency since no rule ties the Cloister clock to the timebase (R33, R393). DESIGN CHOICE: log entry 78. -/
def resetMaster (s : State) (m : Nat) : State :=
  let mine := s.cl.issued.filter fun q => decide (q.master = m)
  let s1 := setCl s { s.cl with
    issued := s.cl.issued.filter fun q => decide (q.master ≠ m), discard := s.cl.discard ++ mine, hung := Tab.del s.cl.hung m,
    held := s.cl.held.filter fun q => decide (q.master ≠ m), resetting := m :: s.cl.resetting.filter fun x => decide (x ≠ m) }
  let s2 := match Tab.find s.cl.hung m with
    | some q => outcome (s1.takeFree).2 q ocDECODE_HANG (s1.takeFree).1 false
    | none => s1
  settleReset s2 m

/-- At a reset of master 0 that does not end its descriptors, every beat not yet answered counts as answered with an error on the
device side (R360, R383). DEDUCED: log entry 42. -/
def failBeats (s : State) (c : Nat) : State :=
  match getJob s c with
  | none => s
  | some j => ((List.range j.beats).filter fun b => !j.answered.contains b).foldl (fun s b => beatAnswered s c b (some true) [] [] []) s

/-- CL_MASTER_RST is written (R383): masters 1 to 9 only while the data plane is RESET or IDLE. -/
def masterRstWritten (s : State) (mask : Nat) : State :=
  ((List.range 11).filter (bit mask)).foldl (fun s m =>
    if 1 ≤ m ∧ m ≤ 9 ∧ s.dpStopped = false then setErr s Err.CL.unit Err.CL.CFG_IGNORED 0
    else if m = 0 then (List.range 32).foldl failBeats (resetMaster s 0)
    else resetMaster s m) s

end Sys2Proof.Machine
end

