-- ==== Sys2Proof/Machine/Power.lean ====
section
/-! DEFINITION. The power domains: when one is in use, and the transitions of Table 3-6 (R70 to R76). -/
namespace Sys2Proof.Machine

/-- The ports that the senders in force name (R321, R335). -/
def senderPorts (s : State) (act : Regs) : List Nat :=
  ((List.range 4).flatMap fun i =>
    if Regs.rd act F.PO_STREAM_CTL.EN i = 0 ∨ Regs.rd act F.PO_STREAM_CTL.ROUTE i = 0 then []
    else if Regs.rd act F.PO_STREAM_CTL.ROUTE i = 1 then [Regs.rd act F.PO_STREAM_ETH.PORT i]
    else [Regs.rd act F.PO_STREAM_ETH.PORT i, Regs.rd act F.PO_STREAM_ETH.MIRROR_PORT i]) ++
  ((eyeListed s act).filter fun k => decide (prof s act F.EYE_PROF_CTL.OUT_EN k = 1)).map (prof s act F.EYE_PROF_CTL.PORT) ++
  (if Regs.rd act F.EYE_CAP_CFG.EN 0 = 1 ∧ Regs.rd act F.EYE_CAP_CFG.ROUTE 0 = 1 then [Regs.rd act F.EYE_CAP_CFG.CAP_PORT 0] else []) ++
  ((List.range 16).filter fun r => decide (Regs.rd act F.EYE_RING_EXP.EN r = 1)).map (Regs.rd act F.EYE_RING_EXP.PORT) ++
  (if Regs.rd act F.TR_CFG.EN 0 = 0 then []
   else if nodeId act = 0 then [Regs.rd act F.TR_LINK.ROOT_PORT 0] else [Regs.rd act F.TR_LINK.UP_PORT 0])

/-- The logical slots that the map in force names. -/
def mapSlots (s : State) : List Nat :=
  let used := (List.range (nBlocks s)).map fun b => (mapEntry s false b).1
  (List.range 128).filter used.contains

/-- The configuration in force gives domain d work (R71, R79, R229, R238, R335); the registers of a domain that is OFF read 0 (R72). -/
def hasWork (s : State) (d : Nat) : Bool :=
  if d < 17 then decide (d = 16) || ((mapSlots s).any fun p => decide (hostOf s p / 8 = d))
  else if d = 17 then true
  else if d < 22 then (groupsIn s.act).contains (d - 18)
  else if d = 22 then
    !(eyeListed s s.act).isEmpty || decide (s.ac F.EYE_CAP_CFG.EN 0 = 1) || ((List.range 16).any fun r => decide (s.ac F.EYE_RING_EXP.EN r = 1))
  else if d = 23 then decide (s.ac F.TR_CFG.EN 0 = 1)
  else if d < 28 then (senderPorts s s.act).contains (d - 24) || (decide (domState s d ≠ pdOFF) && decide (s.rd F.ETH_CFG.HOST_EN (d - 24) = 1))
  else (List.range 4).any fun i => decide (effRole s (4 * (d - 28) + i) ≠ 0)

/-- POWER_DOM[d].IN_USE: the data plane is not IDLE and the domain has work (R71). DEDUCED: log entry 87. -/
def inUse (s : State) (d : Nat) : Bool := decide (s.dp ≠ dpIDLE) && hasWork s d

/-- Domain d moves to a state of Table 3-17. -/
def setDom (s : State) (d st : Nat) : State := s.wr F.POWER_DOM.STATE d st

/-- The lanes of a quad leave OFF, or go to OFF, with their domain (Table 4-7). -/
def quadLanes (s : State) (q : Nat) : State := (List.range 4).foldl (fun s i => laneOff s (4 * q + i)) s

/-- The link of a port goes down with its domain, and the frame in progress still ends (R318, R335). -/
def linkDrain (s : State) (p : Nat) : State :=
  let x := getPort s p
  let s1 := linkLost (setPort s p { x with cur := none, exp := none }) p
  setPort s1 p { getPort s1 p with cur := x.cur, exp := x.exp }

/-- Domain d leaves ON for DRAIN (R72): a port loses its link (R318), the lanes of a quad go to OFF, and its Pavilions are no longer
available. DEDUCED: log entry 86. -/
def enterDrain (s : State) (d : Nat) : State :=
  let s1 := setDom s d pdDRAIN
  if d < 17 then settleRoles s1
  else if 24 ≤ d ∧ d < 28 then (if linkUp s1 (d - 24) then linkDrain s1 (d - 24) else s1)
  else if 28 ≤ d then quadLanes s1 (d - 28)
  else s1

/-- The fields of an id range at their reset values, but for the ids kept: shadow and active copies and values in force. -/
def clearIds (s : State) (lo hi : Nat) (keep : List Nat) : State :=
  { s with regs := Regs.clear s.regs lo hi keep, act := Regs.clear s.act lo hi keep, force := Regs.clear s.force lo hi keep }

/-- Both banks of the tables between two IDs unlisted, in one Lens group or in all. -/
def clearTables (s : State) (lo hi : Nat) (grp : Option Nat) : State :=
  let stays : Nat × Nat × Nat × Nat → Bool := fun e =>
    decide (e.1 < lo) || decide (hi < e.1) || (match grp with | some g => decide (e.2.2.1 ≠ g) | none => false)
  { s with tables := s.tables.filter fun e => stays e.1, tableBad := s.tableBad.filter stays }

/-- Some copies of the fields of some ids at their reset values. -/
def clearCopies (s : State) (ids : Nat → Bool) (copies : Nat → Bool) : State :=
  let stays : (Nat × Nat) × Nat → Bool := fun e => !(ids e.1.1 && copies e.1.2)
  { s with regs := s.regs.filter stays, act := s.act.filter stays, force := s.force.filter stays }

/-- The registers of one Ethernet port at their reset values. -/
def clearPort (s : State) (p : Nat) : State :=
  { clearCopies s (fun i => decide (RegMap.ethLo ≤ i) && decide (i < RegMap.ethHi)) (fun k => decide (k = p)) with eth := Tab.del s.eth p }

/-- The fields of the registers of a Pavilion (Tables 7-3 to 7-5), but for its role, whose RETIRED and FAILED values are kept (R173). -/
def slotIds : List Nat := (RegMap.pavilion.filter fun f => decide (f.addr < 0x01001000) && decide (f.id ≠ F.PAV_STATUS.ROLE.id)).map Fld.id

/-- The fields of the registers of a Yargil lane (R104). -/
def laneIds : List Nat := (RegMap.yargil.filter fun f => decide (f.addr < 0x00840000)).map Fld.id

/-- The table contents and register values of a domain are lost when it powers off (R73). DEDUCED: log entry 86. -/
def loseDomain (s : State) (d : Nat) : State :=
  if d < 17 then clearCopies s slotIds.contains (fun k => decide (k / 8 = d))
  else if d = 17 then clearTables (clearIds s RegMap.prismLo RegMap.prismHi []) 1 4 none
  else if 18 ≤ d ∧ d < 22 then clearTables s 6 9 (some (d - 18))
  else if d = 22 then { clearTables (clearIds s RegMap.eyepieceLo RegMap.eyepieceHi []) 10 11 none with eye := {} }
  else if d = 23 then { clearIds s RegMap.trellisLo RegMap.trellisHi [] with tr := {} }
  else if d < 28 then clearPort s (d - 24)
  else
    let s1 := clearCopies s laneIds.contains (fun k => decide (28 + k / 4 = d))
    { s1 with yg := { s1.yg with lanes := s1.yg.lanes.filter fun e => decide (28 + e.1 / 4 ≠ d) } }

/-- A domain is isolated and switched off. -/
def domainOff (s : State) (d : Nat) : State :=
  let s1 := loseDomain (setDom s d pdOFF) d
  if d < 17 then settleRoles s1 else s1

/-- LENS_LOADED without the bits of a Lens group that powers up (R221). -/
def groupUp (s : State) (g : Nat) : State :=
  let v := s.rd F.LENS_LOADED.LOADED 0
  s.wr F.LENS_LOADED.LOADED 0 (v - bits v (8 * g) 8 * 2 ^ (8 * g))

/-- An OFF domain has its supply switched in (R74). -/
def domainRamp (s : State) (d : Nat) : State :=
  let s1 := setDom s d pdRAMP
  if 18 ≤ d ∧ d < 22 then groupUp s1 (d - 18) else s1

/-- POWER_DOM[d].REQ is written 1 (Table 3-6). DEDUCED: log entry 86. -/
def powerUp (s : State) (d : Nat) : State := if domState s d = pdOFF then domainRamp (s.wr F.POWER_DOM.REQ d 1) d else s.wr F.POWER_DOM.REQ d 1

/-- POWER_DOM[d].REQ is written 0 (R71, Table 3-6). In RAMP, TEST and DRAIN only REQ follows. DEDUCED: log entry 86. -/
def powerDown (s : State) (d : Nat) : State :=
  if domState s d = pdON then
    (if inUse s d then setErr (s.wr F.POWER_DOM.REQ d 1) Err.POWER.unit Err.POWER.IN_USE_REFUSED d else enterDrain (s.wr F.POWER_DOM.REQ d 0) d)
  else if domState s d = pdFAILED then domainOff (s.wr F.POWER_DOM.REQ d 0) d
  else s.wr F.POWER_DOM.REQ d 0

/-- SUPPLY_SETTLED (R74): isolation is released and the self-test starts. -/
def execSupplySettled (d : Fin 44) (s : State) : Host.Outcome State Fault Refusal :=
  .next (run (fun s => decide (domState s d = pdRAMP)) (fun s => setDom s d pdTEST) s)

/-- The Pavilions of a group that failed its self-test are failed slots (R74). -/
def groupFailed (s : State) (g : Nat) : State :=
  (List.range 8).foldl (fun s i =>
    let k := 8 * g + i
    if s.rd F.PAV_STATUS.ROLE k = roRETIRED ∨ s.rd F.PAV_STATUS.ROLE k = roFAILED then s
    else setPv (s.wr F.PAV_STATUS.ROLE k roFAILED) { s.pv with selfFailed := k :: s.pv.selfFailed }) s

/-- The FAILED roles that a self-test had set are cleared when the group passes one (R173). -/
def groupPassed (s : State) (g : Nat) : State :=
  (List.range 8).foldl (fun s i =>
    let k := 8 * g + i
    if s.pv.selfFailed.contains k then setPv (s.wr F.PAV_STATUS.ROLE k roOFF) { s.pv with selfFailed := s.pv.selfFailed.filter fun j => decide (j ≠ k) }
    else s) s

/-- A self-test ends (Table 3-6). DEDUCED: log entry 87. -/
def selfTested (s : State) (d : Nat) (pass : Bool) : State :=
  if pass then
    let s1 := raise (setDom (s.wr F.POWER_DOM.ST_PASS d 1) d pdON) 19 [d]
    if d < 17 then settleRoles (groupPassed s1 d) else if 28 ≤ d then (List.range 4).foldl (fun s i => laneEnable s (4 * (d - 28) + i)) s1 else s1
  else
    let s0 := setErr (setDom (s.wr F.POWER_DOM.ST_PASS d 0) d pdFAILED) Err.POWER.unit Err.POWER.SELFTEST_FAIL d
    let s1 := { s0 with lo := { s0.lo with domFailed := s0.lo.domFailed.filter (fun e => decide (e ≠ d)) ++ [d] } }
    if d < 17 then settleRoles (groupFailed s1 d) else s1

/-- DOMAIN_SELFTEST_DONE (R74). -/
def execDomainSelftestDone (d : Fin 44) (pass : Bool) (s : State) : Host.Outcome State Fault Refusal :=
  .next (run (fun s => decide (domState s d = pdTEST)) (fun s => selfTested s d pass) s)

/-- A frame of a port is being sent, or a DMA channel moves data to or from domain d (R72). -/
def draining (s : State) (d : Nat) : Bool :=
  (s.ko.chans.any fun e => (decide (opOf e.2.desc = 1) || decide (opOf e.2.desc = 2)) && decide (15 ≤ e.1) && (tableDomains (tableCmd e.2.desc).id).contains d) ||
    decide (24 ≤ d ∧ d < 28) && (!portIdle s (d - 24) || (getJob s (7 + (d - 24))).isSome || (getJob s (11 + (d - 24))).isSome)

/-- DRAIN_COMPLETE (R72): the domain is switched off, with the DOMAIN_DOWN event. -/
def execDrainComplete (d : Fin 44) (s : State) : Host.Outcome State Fault Refusal :=
  .next (run (fun s => decide (domState s d = pdDRAIN) && !draining s d) (fun s => raise (domainOff s d) 20 [d]) s)

end Sys2Proof.Machine
end

