-- ==== Sys2Proof/Machine/Resets.lean ====
section
/-! DEFINITION. The five resets (R64 to R68), what each keeps (Table 3-4), and the start-up that follows a cold reset (R69). -/
namespace Sys2Proof.Machine

/-- A register of an offset keeps its value under a predicate over field ids. -/
def keepsAt (kept : Nat → Bool) (off : Nat) : Bool := (fieldsAt off).all fun e => kept e.1.id

/-- The fields whose ids a reset does not keep return to their reset values, and the holding registers of their pairs are cleared
(R16, R64). -/
def keepRegs (s : State) (kept : Nat → Bool) : State :=
  { s with
    regs := s.regs.filter (fun e => kept e.1.1), act := s.act.filter (fun e => kept e.1.1), force := s.force.filter (fun e => kept e.1.1)
    ko := { s.ko with holdRd := s.ko.holdRd.filter (fun e => keepsAt kept e.1), holdWr := s.ko.holdWr.filter (fun e => keepsAt kept e.1),
                      holdSmb := s.ko.holdSmb.filter (fun e => keepsAt kept e.1) } }

/-- Fields of data-plane units that a data-plane reset keeps (Table 3-4), that R383 keeps, or that report the state of a link or of a
stack which runs on. DEDUCED: log entry 82. -/
def keptIds : List Nat :=
  [F.GLOBAL_RESET_CTL.INCL_SUNDIAL, F.GLOBAL_RESET_CTL.DATA_KEEP, F.GLOBAL_RESET_CAUSE.MGMT, F.GLOBAL_RESET_CAUSE.DATA_SMB, F.GLOBAL_RESET_CAUSE.DATA_REG,
   F.GLOBAL_RESET_CAUSE.FLR, F.GLOBAL_RESET_CAUSE.WARM, F.GLOBAL_RESET_CAUSE.COLD, F.CL_HANG_MASK.MASK, F.CL_HANG_ADDR.WRITE, F.CL_HANG_ADDR.ADDR,
   F.GLH_CFG.RATE, F.GLH_CTL.EN, F.GLH_STATUS.HOT, F.GLH_STATUS.STACK_FAILED, F.GLH_STATUS.STACK_BAD, F.GLH_STATUS.INIT_BUSY, F.GLH_STATUS.READY,
   F.GLH_REGION.VALID, F.GLH_REGION.SIZE_MIB, F.GLH_REGION.BASE_MIB, F.GLH_STACK_TEMP.TEMP, F.PAV_STATUS.ROLE, F.LENS_LOADED.LOADED,
   F.ETH_STATUS.HI_SER, F.ETH_STATUS.REMOTE_FAULT, F.ETH_STATUS.LOCAL_FAULT, F.ETH_STATUS.LINK_UP].map Fld.id

/-- A field of class id keeps its value under a data-plane reset: the other planes, the POWER block and the fuses, the lane layer
(R79), Sundial unless it is included, and the fields above. DEDUCED: log entry 82. -/
def dataKept (incl : Bool) (id : Nat) : Bool :=
  (decide (RegMap.kioskLo ≤ id) && decide (id < RegMap.dmaHi)) || decide (RegMap.lodgeLo ≤ id) ||
    (!incl && decide (RegMap.sundialLo ≤ id) && decide (id < RegMap.sundialHi)) ||
    (decide (RegMap.yargilLo ≤ id) && decide (id < F.YG_ERR.BITS.id)) || keptIds.contains id

/-- A dump buffer in flight completes with STOPPED, and its channel is IDLE (R67, R357, Table 16-14). DEDUCED: log entry 43. -/
def stopDump (s : State) (c : Nat) : State :=
  match getJob s c with
  | none => s
  | some j =>
    dmaArb (ringBoundary (setCh (delJob (handBack (dumpWriteBack s c j stSTOPPED j.sent) 3 j.idx) c) c chIDLE) 3)

/-- A READ_REGION of the capture ring in flight completes with STOPPED, and its channel is IDLE (R67, Table 16-14). -/
def stopCapture (s : State) (c : Nat) : State :=
  match getJob s c with
  | none => s
  | some j =>
    if 15 ≤ c ∧ opOf j.desc = 4 ∧ regionIdx j.desc = s.ac F.EYE_REGIONS.CAPTURE_REGION 0 then
      settleCmds (dmaArb (setCh (delJob (decideCmd s j.idx (stSTOPPED, 0, j.sent)) c) c chIDLE))
    else s

/-- The frame of a port's receive buffer that is being delivered is lost, and its buffers are not handed back (R335).
DEDUCED: log entry 43. -/
def abortRx (s : State) (p : Nat) : State :=
  match getJob s (7 + p) with
  | none => s
  | some _ =>
    let r := getRing s (4 + p)
    let s1 := setCh (delJob (setRing s (4 + p) { r with next := r.devIdx }) (7 + p)) (7 + p) chIDLE
    dmaArb (ringBoundary s1 (4 + p))

/-- Sundial after its reset (R313): what the pins carry goes on arriving. -/
def sundialCleared (s : State) : SundialSt :=
  { refs := (s.sd.refs.filter fun e => decide (e.1 < 3)).map fun e => (e.1, { clk := e.2.clk, pps := e.2.pps }),
    slewAt := s.el, histFrom := s.el }

/-- A Sundial reset (R313) from a state and level of CLK_ALARM: the timebase is 0 and the state FREERUN, which raises CLK_ALARM, and,
where the state changes, the SD_STATE event (R297). DESIGN CHOICE: log entry 5. -/
def sundialReset (s : State) (old alarm : Nat) : State :=
  let s1 := { s with sd := sundialCleared s, tb := 0 }
  let s2 := if alarm = 0 then setAlert s1 1 else s1
  if old = 0 then s2 else raise s2 26 [0, old]

/-- The units of the data plane stop, and their hidden state is that after reset (R67, R91, R145, R174, R199, R235, R258). -/
def clearUnits (s : State) : State :=
  { s with
    glob := { s.glob with armed := none, fresh := [], hCsi := none, stopAt := 0 }
    yg := { s.yg with filters := [], mirrorDone := [] }, gh := {}, px := {}, acs := {}, pv := { selfFailed := s.pv.selfFailed },
    po := {}, le := {}, eye := {}, tr := {}, cl := { s.cl with panic := [] } }

/-- A data-plane reset (R67). -/
def dataReset (s : State) (incl : Bool) : State :=
  let alarm := s.rd F.SD_STATUS.ALARM 0
  let s1 := if s.glob.armed.isSome then raise s 2 [] else s
  let s2 := (List.range 4).foldl abortRx ((List.range 32).foldl stopCapture ([3, 4, 5, 6].foldl stopDump s1))
  let s3 := setDp ((List.range 4).foldl resetPort s2) dpRESET
  let s4 := keepRegs (((List.range 9).map (· + 1)).foldl resetMaster s3) (dataKept incl)
  let s5 := (List.range 4).foldl (fun s p => startNext (preemptEval s p) p) (settleOpen (resetHosts (clearUnits s4)))
  if incl then sundialReset s5 (s.rd F.SD_STATUS.STATE 0) alarm else s5

/-- The register of a cause of reset (Table 3-9). -/
def resetCause (s : State) (f : Fld) : State := s.wr f 0 1

/-- A field of the control plane loses its value; after a function-level reset the link stays trained. -/
def controlKept (flr : Bool) (id : Nat) : Bool :=
  decide (id < RegMap.kioskLo) || decide (RegMap.dmaHi ≤ id) ||
    (flr && ([F.KIOSK_STATUS.LINK_UP, F.KIOSK_STATUS.SPEED, F.KIOSK_STATUS.WIDTH].map Fld.id).contains id)

/-- A reset of the control plane (R68): every descriptor in flight ends without a completion, held events stay in their queue, and the
host streams of an incomplete dump start again once ring 3 is enabled. DEDUCED: log entry 43. DEDUCED: log entry 83. -/
def controlReset (s : State) (flr : Bool) : State :=
  let s1 := (List.range 4).foldl dropHostFrames s
  let s2 := keepRegs s1 (controlKept flr)
  let ko : KioskSt := { evq := s2.ko.evq, evLost := s2.ko.evLost, evSeq := s2.ko.evSeq, holdRd := s2.ko.holdRd, holdWr := s2.ko.holdWr,
                        holdSmb := s2.ko.holdSmb, pollAt := s2.el, pci := s2.ko.pci, aer := if flr then s2.ko.aer else 0 }
  let s3 := (List.range 4).foldl rxAdvance (resetMaster { s2 with ko := ko } 0)
  { s3 with po := { s3.po with again := true } }

/-- PERST_N is asserted (R66, R286). A cold reset that is held has every plane in reset already, and the cause is recorded beside it
(R65). -/
def warmReset (s : State) : State :=
  if s.held then resetCause { s with glob := { s.glob with perstHeld := true } } F.GLOBAL_RESET_CAUSE.WARM else
  let s1 := resetCause (controlReset { s with glob := { s.glob with perstHeld := true } } false) F.GLOBAL_RESET_CAUSE.WARM
  if s.rd F.GLOBAL_RESET_CTL.DATA_KEEP 0 = 1 then lodgeErr s1 Err.LODGE.PCIE_LINK 0 0 [] else dataReset s1 false

/-- WARM_RESET (R66). -/
def execWarmReset (s : State) : Host.Outcome State Fault Refusal := .next (runAlways (fun s => !s.glob.perstHeld) warmReset s)

/-- The host programs the configuration space of the function (R338), and what waited for Bus Master Enable or MSI-X goes out.
DESIGN CHOICE: log entry 105. -/
def configured (s : State) (cfg : PciCfg) : State :=
  resume { s.wr F.KIOSK_STATUS.BME 0 (b2n cfg.bme) with ko := { (s.wr F.KIOSK_STATUS.BME 0 (b2n cfg.bme)).ko with pci := cfg } }

/-- PERST_RELEASE (R69): the link trains, and the host configures the function. -/
def execPerstRelease (speed width : Nat) (cfg : PciCfg) (s : State) : Host.Outcome State Fault Refusal :=
  .next (run (fun s => s.glob.perstHeld && linkOk speed width)
    (fun s => configured (linkTrained { s with glob := { s.glob with perstHeld := false } } speed width) cfg) s)

/-- FUNCTION_LEVEL_RESET (R68). The operand is the configuration as the host programs it again afterwards. -/
def execFunctionLevelReset (cfg : PciCfg) (s : State) : Host.Outcome State Fault Refusal :=
  .next (run (fun s => decide (s.rd F.KIOSK_STATUS.LINK_UP 0 = 1))
    (fun s => configured (resetCause (controlReset s true) F.GLOBAL_RESET_CAUSE.FLR) cfg) s)

/-- A field of the management plane loses its value, but for the SMBus address (R399, R403). -/
def mgmtKept (id : Nat) : Bool :=
  decide (id < RegMap.lodgeLo) || decide (RegMap.powerLo ≤ id) || decide (id = F.BELV_SMB_CFG.ADDR.id)

/-- A management reset (Table 3-4): the Lodge and Belvedere start anew; the retirement history, the coverage conditions and the suspect
intervals (R284), which the data plane holds, stay. DEDUCED: log entry 84. -/
def mgmtReset (s : State) : State :=
  let s1 := keepRegs s mgmtKept
  let s2 := { s1 with
    lo := { lateTwinAt := s1.lo.lateTwinAt }, bv := {}, ko := { s1.ko with bar2 := [] },
    glob := { s1.glob with mgmtBusy := true } }
  resetCause (settleOpen s2) F.GLOBAL_RESET_CAUSE.MGMT

/-- MGMT_RESET_COMPLETE (R400). -/
def execMgmtResetComplete (s : State) : Host.Outcome State Fault Refusal :=
  .next (run (fun s => s.glob.mgmtBusy) (fun s => { s with glob := { s.glob with mgmtBusy := false } }) s)

/-- A cold reset (R64): everything is as after power-on but for the levels of the reset pins, the trip latch, the test logic, and the
ANCHOR table, whose contents a Sundial reset keeps (R313). DEDUCED: log entry 99.
DESIGN CHOICE: log entry 4. DESIGN CHOICE: log entry 8. DESIGN CHOICE: log entry 85. -/
def coldReset (s : State) (g : GlobSt) : State :=
  let s1 : State := { pending := s.pending, free := s.free, tap := s.tap, pins := s.pins, glob := g,
                      tables := s.tables.filter (fun e => decide (e.1.1 = 15)), tableBad := s.tableBad.filter fun e => decide (e.1 = 15) }
  { s1 with pins := { s.pins with thermTrip := tripCooled s1 } }

/-- COLD_RESET (R64): power-on, or COLD_RESET_N low for 10 µs. -/
def execColdReset (s : State) : Host.Outcome State Fault Refusal :=
  .next (runAlways (fun _ => true)
    (fun s => coldReset s { coldHeld := true, ponHeld := s.glob.ponHeld, perstHeld := s.glob.perstHeld }) s)

/-- The part leaves a cold reset: every power domain powers up (R69, Table 3-17). DESIGN CHOICE: log entry 4. -/
def startUp (s : State) : State := if s.held then s else (List.range 44).foldl domainRamp s

/-- COLD_RESET_RELEASE (R69). -/
def execColdResetRelease (s : State) : Host.Outcome State Fault Refusal :=
  .next (runAlways (fun s => s.glob.coldHeld) (fun s => startUp { s with glob := { s.glob with coldHeld := false } }) s)

/-- POWER_ON_DETECT (R408): the operand says whether VDD_IO was removed, which releases the trip latch (R420). -/
def execPowerOnDetect (io : Bool) (s : State) : Host.Outcome State Fault Refusal :=
  .next (runAlways (fun _ => true)
    (fun s =>
      let s1 := coldReset s { coldHeld := s.glob.coldHeld, ponHeld := true, perstHeld := s.glob.perstHeld }
      if io then { s1 with pins := { s1.pins with thermTrip := false } } else s1) s)

/-- POWER_ON_RESET_END (R408): 1 ms after the supplies are back with COLD_RESET_N high. -/
def execPowerOnResetEnd (s : State) : Host.Outcome State Fault Refusal :=
  .next (runAlways (fun s => s.glob.ponHeld && !s.glob.coldHeld) (fun s => startUp { s with glob := { s.glob with ponHeld := false } }) s)

/-- DP_INIT_COMPLETE (R63). -/
def execDpInitComplete (s : State) : Host.Outcome State Fault Refusal :=
  .next (run (fun s => decide (s.dp = dpRESET)) (fun s => setDp s dpIDLE) s)

end Sys2Proof.Machine
end

