-- ==== Sys2Proof/Machine/Belvedere.lean ====
section
/-! DEFINITION. Belvedere: what the writes of its counters, of the transaction sampler and of the eye scans do (R387 to R397), and the
counter pages of BAR2 (R390, R391). -/
namespace Sys2Proof.Machine

/-- The 64-bit registers that the unit chapters define as counters (R387). -/
def counters64 : List Nat :=
  [F.DMA_CH_BYTES.BYTES, F.GLH_CORR_SYM.COUNT, F.YG_LANE_CELLS.COUNT, F.YG_LANE_CW.COUNT, F.YG_LANE_CORR_SYM.COUNT, F.GH_LANDED.COUNT,
   F.PR_SPECTRA.COUNT, F.PAV_BLOCKS.COUNT, F.ACC_IMAGES.COUNT, F.PO_STREAM_BYTES.COUNT, F.LENS_SAMPLES.COUNT, F.TR_UNITS.COUNT,
   F.ETH_TX_FRAMES.COUNT, F.ETH_TX_BYTES.COUNT, F.ETH_RX_FRAMES.COUNT, F.ETH_RX_BYTES.COUNT].map Fld.id

/-- The RC fields that are not counters of events named COUNT. -/
def notCounters : List Nat := [F.LENS_LOAD_HWM.CLOCKS, F.SD_EV_STATUS.FIRES].map Fld.id

/-- A BAR0 word index names a unit counter (R387). DEDUCED: log entry 19. -/
def isCounter (word : Nat) : Bool :=
  (fieldsAt (4 * word)).any fun e => (decide (e.1.acc = .RC) && !notCounters.contains e.1.id) || counters64.contains e.1.id

/-- A selection that is not reserved (R387). DEDUCED: log entry 19. -/
def selOk (mode src : Nat) : Bool := decide (mode = 0) || (decide (mode = 1) && isCounter src) || (decide (mode = 2) && decide (src ≤ 140))

/-- Counter n and its SATURATED bit are cleared (R388). -/
def cntClear (s : State) (n : Nat) : State := (s.wr F.BELV_CNT.VALUE n 0).wr F.BELV_CNT.SATURATED n 0

/-- BELV_CNT_SEL[n] is written: a changed selection clears the counter, and so does CLEAR (R387, R388). DESIGN CHOICE: log entry 27. -/
def cntSelWritten (s0 s : State) (n : Nat) (clear : Bool) : State :=
  if clear ∨ s0.rd F.BELV_CNT_SEL.MODE n ≠ s.rd F.BELV_CNT_SEL.MODE n ∨ s0.rd F.BELV_CNT_SEL.SRC n ≠ s.rd F.BELV_CNT_SEL.SRC n
  then cntClear s n else s

/-- BELV_CTL is written: a clear is applied before a freeze, and FROZEN follows FREEZE (R388, R389). DESIGN CHOICE: log entry 27. -/
def belvCtlWritten (s : State) (clear : Bool) : State :=
  let s1 := if clear then (List.range 1024).foldl cntClear s else s
  s1.wr F.BELV_STATUS.FROZEN 0 (s.rd F.BELV_CTL.FREEZE 0)

/-- The trace ring's region as a write of BELV_TS_CFG leaves it: a valid one of at most 1 GiB (R394). -/
def traceRegionOk (s : State) (e : Nat) : Bool := decide (regionSize s e ≠ 0) && decide (regionSize s e ≤ 2 ^ 30)

/-- The region that a write of BELV_TS_CFG names: its own field while the sampler is stopped, else the present one. -/
def namedTraceRegion (s : State) (v : Nat) : Nat := if s.rd F.BELV_TS_CFG.EN 0 = 0 then bits v 24 5 else traceRegion s

/-- BELV_TS_CFG is written: EN = 1 sets WR to 0, and numbering starts when EN becomes 1 (R392, R394). DEDUCED: log entry 26. -/
def tsCfgWritten (s0 s : State) : State :=
  if s.rd F.BELV_TS_CFG.EN 0 = 0 then s else
    let s1 := s.wr F.BELV_TRACE_WR.WR 0 0
    if s0.rd F.BELV_TS_CFG.EN 0 = 0 then { s1 with bv := { s1.bv with ordinal := 0, dropped := 0 } } else s1

/-- BELV_EYE_STATUS[k].STATE reads RUNNING. -/
def eyeRunning (s : State) (k : Nat) : Bool := decide (s.rd F.BELV_EYE_STATUS.STATE k = 1)

/-- START is written (R396, R397). -/
def eyeStart (s : State) (k : Nat) : State :=
  if laneState s k ≠ laneUP ∨ eyeRunning s k = true then setErr s Err.BELV.unit Err.BELV.CFG_IGNORED k else
    let s1 := (s.wr F.BELV_EYE_STATUS.STATE k 1).wr F.BELV_EYE_STATUS.CAUSE k 0
    let s2 := (s1.wr F.BELV_EYE_ERRS.ERRS k 0).wr F.BELV_EYE_SYMS.SYMS k 0
    { s2 with bv := { s2.bv with eyeAt := Tab.put s2.bv.eyeAt k s2.el } }

/-- BELV_EYE_CTL[k] is written: ABORT ends a running scan with the counts reached so far, which no rule gives here (R397).
DEDUCED: log entry 22. -/
def eyeCtlWritten (s0 s : State) (k : Nat) (start abort : Bool) : State :=
  let s1 := if abort && eyeRunning s0 k then eyeAbort (s.takeFree).2 k 1 (s.takeFree).1 else s
  if start then (if eyeRunning s0 k then setErr s1 Err.BELV.unit Err.BELV.CFG_IGNORED k else eyeStart s1 k) else s1

/-- When the scan of lane k has compared its symbols: 1 µs of settling, then 2^(10 + DWELL) symbols at 53.125 GBd (R396). -/
def eyeDue (s : State) (k : Nat) : Nat :=
  Tab.getD s.bv.eyeAt k 0 + usUnits + (2 ^ (10 + s.rd F.BELV_EYE_CTL.DWELL k) * (1000 * nsUnits) + 53124) / 53125

/-- A scan point ends with its counts. -/
def eyeDone (s : State) (k errs : Nat) : State :=
  let n := 2 ^ (10 + s.rd F.BELV_EYE_CTL.DWELL k)
  ((s.wr F.BELV_EYE_STATUS.STATE k 2).wr F.BELV_EYE_ERRS.ERRS k (min errs n)).wr F.BELV_EYE_SYMS.SYMS k n

/-- EYE_SCAN_DONE (R396). -/
def execEyeScanDone (k : Fin 64) (errs : Nat) (s : State) : Host.Outcome State Fault Refusal :=
  .next (run (fun s => eyeRunning s k) (fun s => eyeDone (advanceEl s (eyeDue s k)) k errs) s)

/-- The host reaches the function: the link is up, and no warm reset is held. DESIGN CHOICE: log entry 12. -/
def linkReach (s : State) : Bool := decide (s.rd F.KIOSK_STATUS.LINK_UP 0 = 1) && !s.glob.perstHeld

/-- A request in D3hot is unsupported, as the PCIe Base Specification requires (R340). DESIGN CHOICE: log entry 12. -/
def d3Request (s : State) (f : State → State) : State := if s.rd F.KIOSK_STATUS.D3 0 = 1 then (aerReport s aerUNSUPPORTED).emit .unsupportedRequest else f s

/-- The counter whose word a BAR2 offset lies in (R390). -/
def bar2Counter (off : Nat) : Option Nat :=
  if off < 0x1000000 ∧ off % 0x100000 < 512 then some (64 * (off / 0x100000) + off % 0x100000 / 8) else none

/-- Bits [63:32] of a counter word. -/
def bar2Upper (s : State) (n : Nat) : Nat := s.rd F.BELV_CNT.VALUE n / 2 ^ 32 + 2 ^ 31 * s.rd F.BELV_CNT.SATURATED n

/-- A 4-byte read of a word of BAR2 (R391). -/
def bar2Word (s : State) (off : Nat) : Nat × State :=
  match bar2Counter off with
  | none => (0, s)
  | some n =>
    if bit (s.rd F.BELV_USER_EN.GROUPS 0) (n / 64) = false then (0, s)
    else if off % 8 < 4 then (s.rd F.BELV_CNT.VALUE n % 2 ^ 32, { s with ko := { s.ko with bar2 := Tab.put s.ko.bar2 n (bar2Upper s n) } })
    else match Tab.find s.ko.bar2 n with
      | some x => (x, { s with ko := { s.ko with bar2 := Tab.del s.ko.bar2 n } })
      | none => (bar2Upper s n, s)

/-- A read of 4 or of 8 bytes: an aligned 8-byte read returns one coherent value, and any other reads the words it touches in
ascending order. -/
def bar2Read (s : State) (off : Nat) (wide : Bool) : State :=
  if wide && decide (off % 8 = 0) then
    match bar2Counter off with
    | some n => s.emit (.readData (if bit (s.rd F.BELV_USER_EN.GROUPS 0) (n / 64) then s.rd F.BELV_CNT.VALUE n % 2 ^ 32 + bar2Upper s n * 2 ^ 32 else 0))
    | none => s.emit (.readData 0)
  else if wide then
    let r := bar2Word s (off / 4 * 4)
    let q := bar2Word r.2 (off / 4 * 4 + 4)
    q.2.emit (.readData (r.1 + q.1 * 2 ^ 32))
  else
    let r := bar2Word s (off / 4 * 4)
    r.2.emit (.readData r.1)

/-- BAR2_COUNTER_READ (R391). -/
def execBar2CounterRead (off : Nat) (wide : Bool) (s : State) : Host.Outcome State Fault Refusal :=
  .next (run (fun s => linkReach s && decide (off < 0x1000000)) (d3Request · (fun s => bar2Read s off wide)) s)

end Sys2Proof.Machine
end

