-- ==== Sys2Proof/Machine/RegRead.lean ====
section
/-! DEFINITION. Reads of the register bus: what a field returns, the holding registers of 64-bit quantities, and the side effects of a
read (R15, R16, R18, R382), on the path of the PCIe function or on that of the SMBus target (R401). -/
namespace Sys2Proof.Machine

/-- GLOBAL_EPOCH_HORIZON (R58): floor(H / M), where an accepted START brings its M until it takes effect, and RESET and IDLE take the
shadow copy. -/
def horizonFsi (s : State) : Nat :=
  match s.glob.hCsi with
  | none => 0
  | some h =>
    let m := if s.dpStopped then mOf (s.rd F.PR_CFG.M 0)
      else if s.dp = dpARMED then (match s.glob.armed with | some a => mOf (Regs.rd a.capt F.PR_CFG.M 0) | none => s.M) else s.M
    h / m

/-- The seconds for which conditions 1 to 3 of R293 have held, saturating at 255. -/
def qualTimer (s : State) (r : Nat) : Nat :=
  match (getRef s r).since with
  | some t => min 255 ((s.el - t) / secUnits)
  | none => 0

/-- What a read of copy k of a field returns: some fields report the state of their unit. DEDUCED: log entry 10. -/
def viewField (s : State) (f : Fld) (k : Nat) : Nat :=
  if f.acc = .WO then 0
  else if f.id = F.GLOBAL_EPOCH_HORIZON.HORIZON_FSI.id then horizonFsi s
  else if f.id = F.CL_PORT_STATUS.HUNG.id then b2n (hung s k)
  else if f.id = F.CL_PORT_STATUS.RESETTING.id then b2n (s.cl.resetting.contains k)
  else if f.id = F.CL_PORT_STATUS.TAGS.id then tagsOf s k
  else if f.id = F.YG_LANE_STATUS.EFF_ROLE.id then effRole s k
  else if f.id = F.PO_STREAM_STATUS.WAITING.id then b2n (streamWaiting s k)
  else if f.id = F.ETH_STATUS.TSQ_COUNT.id then (getPort s k).tsq.length
  else if f.id = F.SD_STATUS.SLEWING.id then b2n (decide (remainNow s ≠ 0))
  else if f.id = F.SD_STATUS.HIST_VALID.id then b2n (histValid s)
  else if f.id = F.SD_FREQ_OFS.OFS.id then unsigned 32 (freqOfs s)
  else if f.id = F.SD_SLEW_REMAIN.REMAIN.id then unsigned 64 (tbToPs (remainNow s))
  else if f.id = F.SD_REF_STATUS.QUAL_TIMER.id then qualTimer s k
  else if f.id = F.SD_CAPQ_STATUS.COUNT.id then s.sd.capq.length
  else if f.id = F.LODGE_STATUS.FAULT.id then b2n (faultLow s)
  else if f.id = F.BELV_ERR_SUMMARY.SUMMARY.id then errSummary s
  else if f.id = F.POWER_DOM.IN_USE.id then b2n (inUse s k)
  else s.rd f k

/-- The value of the register, or of the 64-bit quantity, at an offset. -/
def viewReg (s : State) (off : Nat) : Nat := ((fieldsAt off).map fun e => viewField s e.1 e.2 * 2 ^ e.1.lo).sum

/-- An RC field is cleared to its reset value by a read (R18). -/
def clearRc (s : State) (e : Fld × Nat) : State := if e.1.acc = .RC then s.wr e.1 e.2 (e.1.rst e.2) else s

/-- The fuse word at an index (R368): a reserved index reads 0. DEDUCED: log entry 21. -/
def fuseAt (i : Nat) : Nat := if i < 61440 ∧ i % 1536 < 1424 then Config.fuseWord i % 2 ^ 16 else 0

/-- A read of FC_WIN_DATA: the word at FC_WIN_ADDR, which is incremented (R368). -/
def fuseRead (s : State) : Nat × State :=
  let a := s.rd F.FC_WIN_ADDR.ADDR 0
  (fuseAt a, s.wr F.FC_WIN_ADDR.ADDR 0 (a + 1))

/-- A read of a register that is not half of a 64-bit quantity. -/
def readPlain (s : State) (off : Nat) : Nat × State :=
  if off = F.SD_TIME_NS.NS.addr then timeNsRead s
  else if off = F.SD_CAPQ_NS.NS.addr then capqRead s
  else if off = F.FC_WIN_DATA.DATA.addr then fuseRead s
  else match copyAt F.ETH_TSQ_NS.NS off with
    | some p => tsqRead s p
    | none => (viewReg s off, (fieldsAt off).foldl clearRc s)

/-- The read holding registers of a path. -/
def holdRd (s : State) (smb : Bool) : Tab Nat Nat := if smb then s.ko.holdSmb else s.ko.holdRd

/-- The read holding registers of a path, replaced. -/
def setHoldRd (s : State) (smb : Bool) (t : Tab Nat Nat) : State :=
  if smb then { s with ko := { s.ko with holdSmb := t } } else { s with ko := { s.ko with holdRd := t } }

/-- A read of a _LO register captures bits [63:32] (R16). -/
def readLo (s : State) (smb : Bool) (off : Nat) : Nat × State :=
  let v := viewReg s off
  (v % 2 ^ 32, setHoldRd s smb (Tab.put (holdRd s smb) off (v / 2 ^ 32)))

/-- A read of a _HI register takes what was captured, or the present bits [63:32] (R16). -/
def readHi (s : State) (smb : Bool) (off : Nat) : Nat × State :=
  match Tab.find (holdRd s smb) (off - 4) with
  | some v => (v, setHoldRd s smb (Tab.del (holdRd s smb) (off - 4)))
  | none => (viewReg s (off - 4) / 2 ^ 32, s)

/-- A register-fabric decode error (R382). -/
def decodeError (s : State) (off : Nat) : State :=
  (bump (setErr s Err.CL.unit Err.CL.REG_DECODE 0) F.CL_REG_DECODE.COUNT 0 1).wr F.CL_REG_ADDR.OFFSET 0 off

/-- A word of the MSI-X table or of the pending-bit array (R339). -/
def msixView (s : State) (off : Nat) : Nat :=
  if off < 0x109000 then msixWord s ((off - 0x108000) / 4)
  else ((List.range 32).map fun i => b2n (s.ko.msixPba.contains (8 * (off - 0x109000) + i)) * 2 ^ i).sum

/-- The register at an offset is the _LO of a 64-bit quantity. -/
def isLo (off : Nat) : Bool := (fieldsAt off).any fun e => e.1.wide

/-- The register at an offset is the _HI of a 64-bit quantity. -/
def isHi (off : Nat) : Bool := !(hiFieldsAt off).isEmpty

/-- The offsets of SD_TIME_SEC_LO and SD_TIME_SEC_HI, which return the value that a read of SD_TIME_NS latched and take no part in the
holding registers (R301, R315). -/
def timeSecOffset (off : Nat) : Bool := decide (off = F.SD_TIME_SEC.SEC.addr) || decide (off = F.SD_TIME_SEC.SEC.addr + 4)

/-- One half of the latched SEC (R301). -/
def timeSecHalf (s : State) (off : Nat) : Nat :=
  if off = F.SD_TIME_SEC.SEC.addr then s.rd F.SD_TIME_SEC.SEC 0 % 2 ^ 32 else s.rd F.SD_TIME_SEC.SEC 0 / 2 ^ 32

/-- One aligned word is read. -/
def busReadWord (s : State) (smb : Bool) (off : Nat) : Nat × State :=
  if isDecoded s off = false then (0, decodeError s off)
  else if msixOffset off then (msixView s off, s)
  else if timeSecOffset off then (timeSecHalf s off, s)
  else if isHi off then readHi s smb off
  else if isLo off then readLo s smb off
  else readPlain s off

/-- The words of BAR0 that hold the `len` bytes from an offset, in ascending order (R15). -/
def wordsTouched (off len : Nat) : List Nat :=
  ((List.range ((off % 4 + len + 3) / 4)).map fun i => (off / 4 + i) * 4).filter fun w => decide (w < 0x4000000)

/-- One word that a read of the host touches is read and returned whole (R15). -/
def busReadOne (s : State) (w : Nat) : State :=
  let r := busReadWord s false w
  r.2.emit (.readData r.1)

/-- A read of `len` bytes of BAR0 by the host reads every word that it touches, in ascending order (R15). DEDUCED: log entry 13. -/
def busRead (s : State) (off len : Nat) : State := (wordsTouched off len).foldl busReadOne s

/-- A BAR0 read command with what its row asks of the offset. DEDUCED: log entry 13. -/
def readRow (p : State → Bool) (off len : Nat) (s : State) : Host.Outcome State Fault Refusal :=
  .next (run (fun s => linkReach s && decide (off < 0x4000000) && p s) (d3Request · (busRead · off len)) s)

/-- RC_READ (R18): a read of any registers of BAR0. -/
def execRcRead (span : ReadSpan) (s : State) : Host.Outcome State Fault Refusal := readRow (fun _ => true) span.off span.len s

/-- LO_READ_CAPTURE (R16). -/
def execLoReadCapture (off : Nat) (s : State) : Host.Outcome State Fault Refusal := readRow (fun _ => isLo off) off 4 s

/-- SD_TIME_NS_READ (R301). -/
def execSdTimeNsRead (s : State) : Host.Outcome State Fault Refusal := readRow (fun _ => true) F.SD_TIME_NS.NS.addr 4 s

/-- SD_CAPQ_NS_READ (R310). -/
def execSdCapqNsRead (s : State) : Host.Outcome State Fault Refusal := readRow (fun _ => true) F.SD_CAPQ_NS.NS.addr 4 s

/-- ETH_TSQ_NS_READ (R333). -/
def execEthTsqNsRead (p : Fin 4) (s : State) : Host.Outcome State Fault Refusal :=
  readRow (fun _ => true) (F.ETH_TSQ_NS.NS.addr + F.ETH_TSQ_NS.NS.stride * p) 4 s

/-- FC_WIN_DATA_READ (R368). -/
def execFcWinDataRead (s : State) : Host.Outcome State Fault Refusal := readRow (fun _ => true) F.FC_WIN_DATA.DATA.addr 4 s

end Sys2Proof.Machine
end

