-- ==== Sys2Proof/Machine/RegWrite.lean ====
section
/-! DEFINITION. Writes of the register bus: byte enables (R15), the holding registers of 64-bit quantities (R16), access codes (R18),
field classes (R19), reserved encodings (R21), sticky errors (R24), and what the write of a register sets off. -/
namespace Sys2Proof.Machine

/-- Every ring reads OFF. -/
def allRingsOff (s : State) : Bool := (List.range 12).all fun r => decide (ringState s r = rgOFF)

/-- The Glasshouse is not enabled. -/
def glhDisabled (s : State) : Bool := decide (s.rd F.GLH_CTL.EN 0 = 0)

/-- The unit of a class S field counts as stopped (R77, R79, R362, R363, R368, R384, R403 and the like). DEDUCED: log entry 21. -/
def stoppedFor (s : State) (f : Fld) (k : Nat) : Bool :=
  if f.id = F.KIOSK_IDX_BASE.ADDR.id then allRingsOff s
  else if f.id = F.KIOSK_RING_BASE.ADDR.id ∨ f.id = F.KIOSK_RING_CFG.LOG2_SIZE.id ∨ f.id = F.KIOSK_RING_CFG.VECTOR.id then decide (ringState s k = rgOFF)
  else if f.id = F.DMA_CH_CFG.CLASS.id ∨ f.id = F.DMA_CH_CFG.HIGH.id ∨ f.id = F.DMA_CH_CFG.LOW.id then decide (chState s k = chSTOPPED)
  else if f.id = F.GLH_CFG.RATE.id ∨ f.id = F.GLH_TRAIN_ADDR.ADDR.id ∨ f.id = F.GLH_TRAIN_DATA.DATA.id then s.dpStopped && glhDisabled s
  else if f.id = F.FC_WIN_ADDR.ADDR.id then glhDisabled s
  else if RegMap.belvedereLo ≤ f.id ∧ f.id < RegMap.belvedereHi then decide (s.rd F.BELV_TS_CFG.EN 0 = 0)
  else s.dpStopped

/-- The settings of an eye scan, which a running scan holds like a class S field (Table 18-11). -/
def isScanSetting (f : Fld) : Bool :=
  [F.BELV_EYE_CTL.EYE, F.BELV_EYE_CTL.DWELL, F.BELV_EYE_CTL.PHASE, F.BELV_EYE_CTL.VOFS].any fun g => decide (f.id = g.id)

/-- A field takes no new value now (R19): a class S field of a running unit, a scan setting of a running scan, or GLH_CTL.EN from 1 to 0
(R369). DEDUCED: log entry 20. DEDUCED: log entry 22. -/
def fieldHeld (s : State) (f : Fld) (k v : Nat) : Bool :=
  if f.acc = .WO then decide (f.cls = .S) && decide (v ≠ 0) && !stoppedFor s f k
  else if f.acc = .RW then
    decide (v ≠ s.rd f k) &&
      ((decide (f.cls = .S) && !stoppedFor s f k) || (isScanSetting f && eyeRunning s k) || (decide (f.id = F.GLH_CTL.EN.id) && decide (v = 0)))
  else false

/-- A region entry that a write would leave breaks R366. -/
def regionBad (s : State) (e v : Nat) : Bool :=
  let base := bits v 0 18
  let size := bits v 32 18
  bit v 63 && (decide (size = 0) || decide (130816 < base + size) ||
    (List.range 32).any fun i =>
      decide (i ≠ e) && decide (s.rd F.GLH_REGION.VALID i = 1) &&
        decide (s.rd F.GLH_REGION.BASE_MIB i < base + size) && decide (base < s.rd F.GLH_REGION.BASE_MIB i + s.rd F.GLH_REGION.SIZE_MIB i))

/-- A region entry is named by a LOAD_REGION or READ_REGION command that has not completed (R366). -/
def regionNamed (s : State) (e : Nat) : Bool :=
  s.ko.cmds.any fun x => x.chan.isSome && (decide (opOf x.desc = 3) || decide (opOf x.desc = 4)) && decide (regionIdx x.desc = e)

/-- A ring base is not aligned to 64 × SIZE bytes and 4 KiB (R345). -/
def baseBad (base64 log2 : Nat) : Bool := decide (base64 % max 64 (2 ^ log2) ≠ 0)

/-- A write of PAV_HOST that would give two logical slots one host, or that names a RETIRED or FAILED Pavilion (R173). -/
def hostBad (s : State) (p h : Nat) : Bool :=
  ((List.range 128).any fun q => decide (q ≠ p) && decide (hostOf s q = h)) ||
    decide (s.rd F.PAV_STATUS.ROLE h = roRETIRED) || decide (s.rd F.PAV_STATUS.ROLE h = roFAILED)

/-- An offset within a window that does not lie beyond its size. DEDUCED: log entry 18. -/
def beyond (v size : Nat) : Bool := decide (v ≠ 0) && decide (size ≤ v)

/-- The rules over several fields, or over other state, under which a write of the register is ignored whole with CFG_IGNORED, each
beside the field that marks its register. DEDUCED: log entry 17. DEDUCED: log entry 18. DESIGN CHOICE: log entry 24. -/
def crossRules : List (Fld × (State → Nat → Nat → Bool)) :=
  [(F.KIOSK_RING_BASE.ADDR, fun s k v => baseBad (bits v 6 58) (s.rd F.KIOSK_RING_CFG.LOG2_SIZE k)),
   (F.KIOSK_RING_CFG.EN, fun s k v => (decide (ringState s k = rgOFF) || (bit v 31 && decide (ringState s k = rgSTOPPING))) && baseBad (s.rd F.KIOSK_RING_BASE.ADDR k) (bits v 16 4)),
   (F.DMA_CH_CFG.CLASS, fun _ _ v => decide (bits v 8 6 ≤ bits v 0 6) || decide (32 < bits v 8 6)),
   (F.DMA_CH_CTL.STOP, fun _ _ v => bit v 0 && bit v 1),
   (F.GLH_PANIC_CFG.ON, fun _ _ v => decide (bits v 8 6 ≤ bits v 0 6)),
   (F.GLH_REGION.VALID, fun s e v => regionBad s e v || regionNamed s e),
   (F.PAV_HOST.HOST, fun s k v => hostBad s k (bits v 0 8)),
   (F.PO_STREAM_CTL.EN, fun _ _ v => decide (bits v 26 3 = 0) && (bit v 24 || bit v 23)),
   (F.LENS_RING_RD.RD, fun s k v => beyond v (lensRingSize s s.act) || decide (s.ac F.EYE_RING_EXP.EN k = 1)),
   (F.TR_CFG.EN, fun _ _ v => decide (bits v 16 9 ≤ bits v 0 8)),
   (F.BELV_TRACE_RD.RD, fun s _ v => beyond (bits v 0 30) (regionSize s (traceRegion s))),
   (F.BELV_TS_CFG.EN, fun s _ v => bit v 31 && !traceRegionOk s (namedTraceRegion s v)),
   (F.BELV_CNT_SEL.MODE, fun _ _ v => !selOk (bits v 30 2) (bits v 0 24)),
   (F.SD_EV_NS.NS, fun s k _ => evArmed s k),
   (F.SD_EV_SEC.SEC, fun s k _ => evArmed s k),
   (F.SD_EV_PERIOD.PERIOD, fun s k _ => evArmed s k),
   (F.SD_EV_CTL.ARM, fun s k v => evArmed s k && bit v 31),
   (F.SD_EV_LEAD.LEAD, fun s k _ => evArmed s k),
   (F.SD_EV_STATUS.LATE, fun s k _ => evArmed s k)]

/-- A write of the register at an offset is ignored whole with CFG_IGNORED: a reserved encoding (R21) or a rule above.
DEDUCED: log entry 15. -/
def writeReserved (s : State) (off v : Nat) : Bool :=
  ((fieldsAt off).any fun e => decide (e.1.acc = .RW) && !e.1.ok e.2 (bits v e.1.lo e.1.width)) ||
    crossRules.any fun r => match copyAt r.1 off with | some k => r.2 s k v | none => false

/-- The item that ERR_FIRST holds with CFG_IGNORED: the lane of a lane register, or the power domain. -/
def ignoredInfo (off : Nat) : Nat :=
  match copyAt F.YG_LANE_CTL.ROLE off, copyAt F.POWER_DOM.REQ off with
  | some k, _ => k
  | _, some d => d
  | _, _ => 0

/-- A write, or a part of it, is ignored with CFG_IGNORED, bit 0 of its unit's error register. -/
def cfgIgnored (s : State) (off : Nat) : State := setErr s (regUnit off) 0 (ignoredInfo off)

/-- One field takes its part of a write (R18, R19): an E field in its shadow copy, a live field the value that a read returns.
DEDUCED: log entry 15. -/
def writeField (s0 : State) (v : Nat) (s : State) (e : Fld × Nat) : State :=
  let x := bits v e.1.lo e.1.width
  if e.1.acc = .RW then (if fieldHeld s0 e.1 e.2 x then s else s.wr e.1 e.2 x)
  else if e.1.acc = .W1C then s.wr e.1 e.2 (s.rd e.1 e.2 - (s.rd e.1 e.2 &&& x))
  else s

/-- A sticky error register that a write leaves all zero releases its first-error capture (R24). -/
def releaseFirst (s : State) (e : Fld × Nat) : State :=
  match Err.units.find? fun u => decide (u.bits.id = e.1.id) && decide (u.k = e.2) with
  | some u => if s.rd u.bits u.k = 0 then (s.wr u.first u.k 0).wr u.ts u.k 0 else s
  | none => s

/-- A write of GLOBAL_DATA_RESET (R67). -/
def dataResetWritten (s : State) (v : Nat) : State :=
  if bit v 0 then dataReset (resetCause s F.GLOBAL_RESET_CAUSE.DATA_REG) (decide (s.rd F.GLOBAL_RESET_CTL.INCL_SUNDIAL 0 = 1)) else s

/-- A write of CL_HANG_MASK clears CL_HANG_ADDR of the masters named (R381). -/
def hangMaskWritten (s : State) (v : Nat) : State :=
  ((List.range 11).filter (bit v)).foldl (fun s m => (s.wr F.CL_HANG_ADDR.ADDR m 0).wr F.CL_HANG_ADDR.WRITE m 0) s

/-- A write of GLH_CTL (R369, R374). DEDUCED: log entry 20. -/
def glhCtlWritten (s0 s : State) (v : Nat) : State :=
  let s1 := if s0.rd F.GLH_CTL.EN 0 = 0 ∧ s.rd F.GLH_CTL.EN 0 = 1 then glhStart s else s
  if bit v 8 && s0.dpStopped then clearFail s1 else s1

/-- A write of GLH_TRAIN_DATA: the word at GLH_TRAIN_ADDR, which is incremented (R368). -/
def trainWritten (s0 s : State) (v : Nat) : State :=
  if s0.dpStopped && glhDisabled s0 then
    let a := s.rd F.GLH_TRAIN_ADDR.ADDR 0
    { s.wr F.GLH_TRAIN_ADDR.ADDR 0 (a + 1) with gl := { s.gl with taps := Tab.put s.gl.taps a (v % 2 ^ 16) } }
  else s

/-- A write of YG_LANE_CTL[k]: a lane retrained or DISABLED goes to OFF, and an enabled one leaves it (R101, Table 4-7). -/
def laneCtlWritten (s0 s : State) (k v : Nat) : State :=
  if (bit v 8 && s0.dpStopped) || (decide (s0.rd F.YG_LANE_CTL.ROLE k ≠ 0) && decide (s.rd F.YG_LANE_CTL.ROLE k = 0)) then laneOff s k
  else laneEnable s k

/-- A write of YG_CFG: the recovered clock that Sundial sees follows RCLK_EN and RCLK_LANE (R97). -/
def ygCfgWritten (s0 s : State) : State :=
  if s0.rd F.YG_CFG.RCLK_EN 0 = s.rd F.YG_CFG.RCLK_EN 0 ∧ s0.rd F.YG_CFG.RCLK_LANE 0 = s.rd F.YG_CFG.RCLK_LANE 0 then s
  else rclkGate s (decide (s.rd F.YG_CFG.RCLK_EN 0 = 1) && decide (laneState s (s.rd F.YG_CFG.RCLK_LANE 0) = laneUP))

/-- A write of SD_SLEW: a slew in progress goes on at the new rate (R298). -/
def slewWritten (s0 s : State) : State :=
  let h := (closeSlew s0).sd.hist
  noteFreq { s with sd := { s.sd with moved := movedNow s0, remain := remainNow s0, slewAt := s.el, hist := h } }

/-- A write of EYE_CAP_CTL (R255, R256): a forced trigger, then a release. -/
def capCtlWritten (s : State) (v : Nat) : State :=
  let s1 := if bit v 0 then captureForce s else s
  if bit v 1 then captureRelease s1 else s1

/-- A write of DMA_CH_CTL[c] (R361). -/
def dmaCtlWritten (s : State) (c v : Nat) : State := if bit v 0 then dmaStop s c else if bit v 1 then dmaRestart s c else s

/-- A write of KIOSK_RING_CFG[r] (R345): completions that wait go to a completion ring enabled anew, and host streams start again once the
dump ring runs (R203, R351). -/
def ringWritten (s : State) (r : Nat) : State :=
  let s1 := ringEnWritten s r
  if ringState s1 r = rgRUN then (if r = 1 then settleCmds s1 else if r = 3 then reexport s1 else s1) else s1

/-- What the write of a register sets off, beside the field that marks it: from the state before the write and that with the fields
written, the copy, and the value written. -/
def writeHooks : List (Fld × (State → State → Nat → Nat → State)) :=
  [(F.GLOBAL_DATA_RESET.DATA_RESET, fun _ s _ v => dataResetWritten s v),
   (F.KIOSK_WAKE.WAKE, fun _ s _ v => if bit v 0 then { s with ko := { s.ko with pollNow := true } } else s),
   (F.KIOSK_RING_CFG.EN, fun _ s k _ => ringWritten s k),
   (F.DMA_CH_CTL.STOP, fun _ s k v => dmaCtlWritten s k v),
   (F.CL_MASTER_RST.RST, fun _ s _ v => masterRstWritten s v),
   (F.CL_HANG_MASK.MASK, fun _ s _ v => hangMaskWritten s v),
   (F.GLH_CTL.EN, fun s0 s _ v => glhCtlWritten s0 s v),
   (F.GLH_TRAIN_DATA.DATA, fun s0 s _ v => trainWritten s0 s v),
   (F.YG_LANE_CTL.ROLE, laneCtlWritten),
   (F.YG_CFG.RCLK_EN, fun s0 s _ _ => ygCfgWritten s0 s),
   (F.PAV_HOST.HOST, fun _ s _ _ => settleRoles s),
   (F.LENS_RING_RD.RD, fun s0 s r _ => if s.rd F.LENS_RING_RD.RD r = s0.rd F.LENS_RING_RD.RD r then s else { s with eye := { s.eye with exports := Tab.del s.eye.exports r } }),
   (F.EYE_CAP_CTL.FORCE, fun _ s _ v => capCtlWritten s v),
   (F.ETH_CFG.PREEMPT_EN, fun _ s p _ => preemptEval s p),
   (F.ETH_TX_THRESH.BASE, fun _ s p _ => setPort s p { getPort s p with basePend := true }),
   (F.SD_CFG.REVERTIVE, fun _ s _ _ => reselect s),
   (F.SD_THRESH.AGREE, fun _ s _ _ => reselect s),
   (F.SD_SLEW.RATE, fun s0 s _ _ => slewWritten s0 s),
   (F.SD_SEL.FORCE_EN, fun _ s _ _ => reselect s),
   (F.SD_TOD_SET.SEC, fun _ s _ _ => todWritten s),
   (F.SD_STEP_CTL.GO, fun _ s _ v => if bit v 0 then stepGo s else s),
   (F.SD_VIRT_FREQ.FREQ, fun _ s _ _ => virtFreqWritten s),
   (F.SD_REF_CFG.EN, fun _ s r _ => refCfgWritten s r),
   (F.SD_REF_DELAY.DELAY_PS, fun _ s r _ => refDelayWritten s r),
   (F.SD_EV_CTL.ARM, fun _ s e _ => evArmWritten s e),
   (F.BELV_CTL.FREEZE, fun _ s _ v => belvCtlWritten s (bit v 0)),
   (F.BELV_TS_CFG.EN, fun s0 s _ _ => tsCfgWritten s0 s),
   (F.BELV_CNT_SEL.MODE, fun s0 s n v => cntSelWritten s0 s n (bit v 29)),
   (F.BELV_EYE_CTL.START, fun s0 s k v => eyeCtlWritten s0 s k (bit v 31) (bit v 30)),
   (F.POWER_DOM.REQ, fun _ s d v => if bit v 0 then powerUp s d else powerDown s d)]

/-- What the write of the register at an offset sets off. -/
def writeHook (s0 s : State) (off v : Nat) : State :=
  match writeHooks.findSome? fun h => (copyAt h.1 off).map fun k => (h.2, k) with
  | some (h, k) => h s0 s k v
  | none => s

/-- Some field of the register refuses its part of the write (R19). -/
def partHeld (s : State) (off v : Nat) : Bool :=
  (fieldsAt off).any fun e => fieldHeld s e.1 e.2 (bits v e.1.lo e.1.width)

/-- A write that sets EN of a ring from 0 to 1 while it is still stopping (R345). -/
def ringWaiting (s : State) (off v : Nat) : Option Nat :=
  match copyAt F.KIOSK_RING_CFG.EN off with
  | some r => if bit v 31 ∧ s.rd F.KIOSK_RING_CFG.EN r = 0 ∧ ringState s r = rgSTOPPING then some r else none
  | none => none

/-- The register, or the 64-bit quantity, at an offset is written whole. A time of day that is refused is not taken (R302).
DEDUCED: log entry 25. -/
def regWrite (s : State) (off v : Nat) : State :=
  if off = F.SD_TOD_SET.SEC.addr ∧ s.dpStopped = false then setErr s Err.SD.unit Err.SD.TOD_REFUSED 0
  else if writeReserved s off v then cfgIgnored s off
  else match ringWaiting s off v with
  | some r => ringAnew s r v
  | none =>
    let s1 := (fieldsAt off).foldl (writeField s v) s
    let s2 := (fieldsAt off).foldl releaseFirst s1
    writeHook s (if partHeld s off v then cfgIgnored s2 off else s2) off v

/-- A write of a _LO register is held (R16); one of an armed timed-event slot is ignored (R316). DESIGN CHOICE: log entry 24. -/
def writeLo (s : State) (off v : Nat) : State :=
  if [F.SD_EV_SEC.SEC, F.SD_EV_PERIOD.PERIOD].any (fun f => match copyAt f off with | some e => evArmed s e | none => false) then cfgIgnored s off
  else { s with ko := { s.ko with holdWr := Tab.put s.ko.holdWr off v } }

/-- What a write of a _HI register finds as bits [31:0] of a field that may be in part elsewhere: the held word, else the present
value (R16). -/
def presentLo (s : State) (off : Nat) : Nat := ((fieldsAt off).map fun e => s.rd e.1 e.2 * 2 ^ e.1.lo).sum % 2 ^ 32

/-- A write of a _HI register writes the whole quantity (R16). DEDUCED: log entry 25. -/
def writeHi (s : State) (off v : Nat) : State :=
  let lo := (Tab.find s.ko.holdWr (off - 4)).getD (presentLo s (off - 4))
  regWrite { s with ko := { s.ko with holdWr := Tab.del s.ko.holdWr (off - 4) } } (off - 4) (v * 2 ^ 32 + lo)

/-- A word of the MSI-X table is written; the pending bits are read-only (R339, R346). -/
def msixWrite (s : State) (off v : Nat) : State :=
  if off < 0x109000 then msixRelease { s with ko := { s.ko with msixTable := Tab.put s.ko.msixTable ((off - 0x108000) / 4) v } } else s

/-- One aligned word is written with every byte enable. -/
def busWriteWord (s : State) (off v : Nat) : State :=
  if isDecoded s off = false then decodeError s off
  else if msixOffset off then msixWrite s off v
  else if isHi off then writeHi s off v
  else if isLo off then writeLo s off v
  else regWrite s off v

/-- A word that a partial write reaches is ignored (R15). DEDUCED: log entry 16. -/
def partialWord (s : State) (off : Nat) : State :=
  if isDecoded s off then setErr s Err.KIOSK.unit Err.KIOSK.PARTIAL_WR 0 else decodeError s off

/-- The words that hold a byte which an unaligned write enables, `be` counting from its offset; with none enabled, the word that holds
the offset (R15). DEDUCED: log entry 16. -/
def wordsEnabled (off be : Nat) : List Nat :=
  let w := off / 4 * 4
  let lo := be % 2 ^ (4 - off % 4)
  let hi := be % 16 / 2 ^ (4 - off % 4)
  (if lo ≠ 0 ∨ hi = 0 then [w] else []) ++ (if hi ≠ 0 ∧ w + 4 < 0x4000000 then [w + 4] else [])

/-- A write of BAR0 by the host: `be` holds the byte enables. An unaligned write reaches the words of its bytes, none with every byte
enable (R15); a poisoned one is ignored and reported through AER (R340). DEDUCED: log entry 13. -/
def busWrite (s : State) (off v be : Nat) (poisoned : Bool) : State :=
  if poisoned then aerReport s aerPOISONED
  else if off % 4 ≠ 0 then (wordsEnabled off be).foldl partialWord s
  else if be % 16 = 15 then busWriteWord s off v
  else partialWord s off

end Sys2Proof.Machine
end

