-- ==== Sys2Proof/Machine/RegRows.lean ====
section
/-! DEFINITION. The commands that are register writes of the host, each at the address of its register. Bits that a
row names are forced (DEDUCED: log entry 14). -/
namespace Sys2Proof.Machine

/-- A write of one aligned word, with what its row asks of the offset. DEDUCED: log entry 13. -/
def writeRow (p : State → Bool) (off v : Nat) (s : State) : Host.Outcome State Fault Refusal :=
  .next (run (fun s => linkReach s && decide (off < 0x4000000) && p s) (d3Request · (busWrite · off v 15 false)) s)

/-- A write of the register of copy k of a field. -/
def writeAt (f : Fld) (k v : Nat) (s : State) : Host.Outcome State Fault Refusal := writeRow (fun _ => true) (f.addr + f.stride * k) v s

/-- A write of the _HI register of copy k of a 64-bit field. -/
def writeHiAt (f : Fld) (k v : Nat) (s : State) : Host.Outcome State Fault Refusal := writeRow (fun _ => true) (f.addr + f.stride * k + 4) v s

/-- REGISTER_WRITE (R19): a write of any register of BAR0. -/
def execRegisterWrite (off : Nat) (data : Word) (be : Nat) (poisoned : Bool) (s : State) : Host.Outcome State Fault Refusal :=
  .next (run (fun s => linkReach s && decide (off < 0x4000000)) (d3Request · (busWrite · off data.toNat be poisoned)) s)

/-- LO_WRITE_HOLD (R16). -/
def execLoWriteHold (off : Nat) (data : Word) (s : State) : Host.Outcome State Fault Refusal := writeRow (fun _ => isLo off) off data.toNat s

/-- HI_WRITE_COMBINE (R16). -/
def execHiWriteCombine (off : Nat) (data : Word) (s : State) : Host.Outcome State Fault Refusal := writeRow (fun _ => isHi off) off data.toNat s

/-- The register at an offset is the sticky error register of a unit. -/
def isErrReg (off : Nat) : Bool := Err.units.any fun u => decide (copyAt u.bits off = some u.k)

/-- ERR_W1C_CLEAR (R24). -/
def execErrW1cClear (off : Nat) (data : Word) (s : State) : Host.Outcome State Fault Refusal := writeRow (fun _ => isErrReg off) off data.toNat s

/-- DATA_RESET (R67). -/
def execDataReset (data : Word) (s : State) : Host.Outcome State Fault Refusal := writeAt F.GLOBAL_DATA_RESET.DATA_RESET 0 (setBit data.toNat 0) s

/-- POWER_UP_REQUEST (R74). -/
def execPowerUpRequest (d : Fin 44) (s : State) : Host.Outcome State Fault Refusal := writeAt F.POWER_DOM.REQ d 1 s

/-- POWER_DOWN_REQUEST (R71). -/
def execPowerDownRequest (d : Fin 44) (s : State) : Host.Outcome State Fault Refusal := writeAt F.POWER_DOM.REQ d 0 s

/-- WAKE (R342). -/
def execWake (data : Word) (s : State) : Host.Outcome State Fault Refusal := writeAt F.KIOSK_WAKE.WAKE 0 (setBit data.toNat 0) s

/-- RING_ENABLE (R345). -/
def execRingEnable (r : Fin 12) (data : Word) (s : State) : Host.Outcome State Fault Refusal :=
  writeAt F.KIOSK_RING_CFG.EN r (setBit data.toNat 31) s

/-- RING_DISABLE (R345). -/
def execRingDisable (r : Fin 12) (data : Word) (s : State) : Host.Outcome State Fault Refusal :=
  writeAt F.KIOSK_RING_CFG.EN r (clrBit data.toNat 31) s

/-- DMA_STOP (R361). -/
def execDmaStop (c : Fin 32) (s : State) : Host.Outcome State Fault Refusal := writeAt F.DMA_CH_CTL.STOP c 1 s

/-- DMA_RESTART (R361). -/
def execDmaRestart (c : Fin 32) (s : State) : Host.Outcome State Fault Refusal := writeAt F.DMA_CH_CTL.STOP c 2 s

/-- SD_REF_CFG_WRITE (R293). -/
def execSdRefCfgWrite (r : Fin 4) (data : Word) (s : State) : Host.Outcome State Fault Refusal := writeAt F.SD_REF_CFG.EN r data.toNat s

/-- VIRT_FREQ_WRITE (R304). -/
def execVirtFreqWrite (data : Word) (s : State) : Host.Outcome State Fault Refusal := writeAt F.SD_VIRT_FREQ.FREQ 0 data.toNat s

/-- TOD_SET (R302): the write of SD_TOD_SET_HI, which makes the 64-bit value. -/
def execTodSet (data : Word) (s : State) : Host.Outcome State Fault Refusal := writeHiAt F.SD_TOD_SET.SEC 0 data.toNat s

/-- STEP_GO (R303). -/
def execStepGo (data : Word) (s : State) : Host.Outcome State Fault Refusal := writeAt F.SD_STEP_CTL.GO 0 (setBit data.toNat 0) s

/-- TIMED_EVENT_ARM (R308). -/
def execTimedEventArm (e : Fin 64) (data : Word) (s : State) : Host.Outcome State Fault Refusal :=
  writeAt F.SD_EV_CTL.ARM e (setBit data.toNat 31) s

/-- RETRAIN (R101). -/
def execRetrain (k : Fin 64) (data : Word) (s : State) : Host.Outcome State Fault Refusal :=
  writeAt F.YG_LANE_CTL.RETRAIN k (setBit data.toNat 8) s

/-- CAPTURE_FORCE (R255). -/
def execCaptureForce (data : Word) (s : State) : Host.Outcome State Fault Refusal := writeAt F.EYE_CAP_CTL.FORCE 0 (setBit data.toNat 0) s

/-- CAPTURE_RELEASE (R256). -/
def execCaptureRelease (data : Word) (s : State) : Host.Outcome State Fault Refusal := writeAt F.EYE_CAP_CTL.RELEASE 0 (setBit data.toNat 1) s

/-- GLH_ENABLE (R369). -/
def execGlhEnable (data : Word) (s : State) : Host.Outcome State Fault Refusal := writeAt F.GLH_CTL.EN 0 (setBit data.toNat 0) s

/-- GLH_CLEAR_FAIL (R374). -/
def execGlhClearFail (data : Word) (s : State) : Host.Outcome State Fault Refusal := writeAt F.GLH_CTL.CLEAR_FAIL 0 (setBit data.toNat 8) s

/-- GLH_REGION_WRITE (R366): the write of GLH_REGION_HI[e], which makes the 64-bit value. -/
def execGlhRegionWrite (e : Fin 32) (data : Word) (s : State) : Host.Outcome State Fault Refusal := writeHiAt F.GLH_REGION.VALID e data.toNat s

/-- GLH_TRAIN_DATA_WRITE (R368). -/
def execGlhTrainDataWrite (data : Word) (s : State) : Host.Outcome State Fault Refusal := writeAt F.GLH_TRAIN_DATA.DATA 0 data.toNat s

/-- MASTER_RESET (R383). -/
def execMasterReset (data : Word) (s : State) : Host.Outcome State Fault Refusal := writeAt F.CL_MASTER_RST.RST 0 data.toNat s

/-- CNT_SEL_WRITE (R387). -/
def execCntSelWrite (n : Fin 1024) (data : Word) (s : State) : Host.Outcome State Fault Refusal := writeAt F.BELV_CNT_SEL.MODE n data.toNat s

/-- CNT_CLEAR (R388). -/
def execCntClear (n : Fin 1024) (data : Word) (s : State) : Host.Outcome State Fault Refusal :=
  writeAt F.BELV_CNT_SEL.CLEAR n (setBit data.toNat 29) s

/-- CLEAR_ALL (R388). -/
def execClearAll (data : Word) (s : State) : Host.Outcome State Fault Refusal := writeAt F.BELV_CTL.CLEAR_ALL 0 (setBit data.toNat 0) s

/-- COUNTER_FREEZE (R389). -/
def execCounterFreeze (data : Word) (s : State) : Host.Outcome State Fault Refusal := writeAt F.BELV_CTL.FREEZE 0 (setBit data.toNat 1) s

/-- COUNTER_RESUME (R389). -/
def execCounterResume (data : Word) (s : State) : Host.Outcome State Fault Refusal := writeAt F.BELV_CTL.FREEZE 0 (clrBit data.toNat 1) s

/-- TRACE_ENABLE (R394). -/
def execTraceEnable (data : Word) (s : State) : Host.Outcome State Fault Refusal := writeAt F.BELV_TS_CFG.EN 0 (setBit data.toNat 31) s

/-- EYE_SCAN_START (R396). -/
def execEyeScanStart (k : Fin 64) (data : Word) (s : State) : Host.Outcome State Fault Refusal :=
  writeAt F.BELV_EYE_CTL.START k (setBit data.toNat 31) s

/-- The errors that an aborted scan had counted, in place of a free value. DESIGN CHOICE: log entry 23. -/
def abortErrs (s0 s : State) (k errs : Nat) : State :=
  if eyeRunning s0 k && decide (s.rd F.BELV_EYE_STATUS.STATE k = 3) then s.wr F.BELV_EYE_ERRS.ERRS k (min errs (s.rd F.BELV_EYE_SYMS.SYMS k)) else s

/-- EYE_SCAN_ABORT (R397). -/
def execEyeScanAbort (k : Fin 64) (data : Word) (errs : Nat) (s : State) : Host.Outcome State Fault Refusal :=
  .next (run linkReach
    (d3Request · fun s =>
      abortErrs s (busWrite s (F.BELV_EYE_CTL.ABORT.addr + F.BELV_EYE_CTL.ABORT.stride * k) (setBit data.toNat 30) 15 false) k errs) s)

end Sys2Proof.Machine
end

