-- ==== Sys2Proof/Machine/Smbus.lean ====
section
/-! DEFINITION. The SMBus target (R399 to R402, Table 18-3): what each command answers, with the PEC byte of SMBus. -/
namespace Sys2Proof.Machine

/-- One bit into the CRC-8 of SMBus, x^8 + x^2 + x + 1. PRESUMED: the spec names PEC and leaves it to the SMBus specification.
PRESUMED: log entry 89. -/
def pecBit (r : Nat) : Nat := if 128 ≤ r then (2 * r % 256) ^^^ 7 else 2 * r

/-- One byte into the PEC. -/
def pecByte (r : Nat) (b : Byte) : Nat := (List.range 8).foldl (fun r _ => pecBit r) (r ^^^ b.toNat)

/-- The PEC of the bytes of a transaction. -/
def pecOf (l : List Byte) : Byte := BitVec.ofNat 8 (l.foldl pecByte 0)

/-- The address byte of the target. -/
def smbAddr (s : State) (read : Bool) : Byte := BitVec.ofNat 8 (2 * s.rd F.BELV_SMB_CFG.ADDR 0 + b2n read)

/-- A transaction that the target answers; none is acknowledged during a management reset (R400). -/
def smbRow (f : State → State) (s : State) : Host.Outcome State Fault Refusal :=
  .next (run (fun _ => true) (fun s => if s.glob.mgmtBusy then s.emit .smbNack else f s) s)

/-- The answer to a read: the data, and the PEC for a host that clocks it. PRESUMED: log entry 89. DEDUCED: log entry 90. -/
def smbAnswer (s : State) (cmd : Nat) (sent data : List Byte) : State :=
  s.emit (.smb (data ++ [pecOf ([smbAddr s false, BitVec.ofNat 8 cmd] ++ sent ++ [smbAddr s true] ++ data)]))

/-- A Read Word. -/
def smbWord (s : State) (cmd v : Nat) : State := smbAnswer s cmd [] (leBytes 2 v)

/-- A Block Read: the byte count and the data. -/
def smbBlock (s : State) (cmd : Nat) (data : List Byte) : State := smbAnswer s cmd [] (BitVec.ofNat 8 data.length :: data)

/-- A write is executed, or refused for its PEC, which is none when absent (R399). DEDUCED: log entry 90. -/
def smbWrite (pec : Option Bool) (f : State → State) (s : State) : State :=
  if s.rd F.BELV_SMB_CFG.PEC_REQ 0 = 1 ∧ pec ≠ some true then (bump s F.BELV_SMB_PEC_ERR.COUNT 0 1).emit .smbNack else f s

/-- SMB_DEVICE_ID (R399). -/
def execSmbDeviceId (s : State) : Host.Outcome State Fault Refusal :=
  smbRow (fun s => smbBlock s 0x01 (leBytes 4 (viewReg s 0) ++ leBytes 4 (viewReg s 4))) s

/-- The summary status word (Table 18-3). -/
def smbStatusWord (s : State) : Nat :=
  s.dp + 8 * s.sdState + 64 * s.rd F.LODGE_STATUS.COVERED 0 + 128 * b2n (faultLow s) + 256 * s.rd F.SD_STATUS.ALARM 0 + 512 * b2n (alertAsserted s)

/-- SMB_STATUS (R399). -/
def execSmbStatus (s : State) : Host.Outcome State Fault Refusal := smbRow (fun s => smbWord s 0x02 (smbStatusWord s)) s

/-- SMB_ALERT_STATUS (R402). -/
def execSmbAlertStatus (s : State) : Host.Outcome State Fault Refusal := smbRow (fun s => smbWord s 0x03 (s.rd F.BELV_ALERT_STATUS.STATUS 0)) s

/-- The alert bits written 1 are cleared (R402). -/
def alertClear (s : State) (v : Nat) : State :=
  s.wr F.BELV_ALERT_STATUS.STATUS 0 (s.rd F.BELV_ALERT_STATUS.STATUS 0 - (s.rd F.BELV_ALERT_STATUS.STATUS 0 &&& v))

/-- SMB_ALERT_CLEAR (R402). -/
def execSmbAlertClear (data : Nat) (pec : Option Bool) (s : State) : Host.Outcome State Fault Refusal :=
  smbRow (smbWrite pec fun s => alertClear s data) s

/-- SMB_ALERT_MASK (R402). -/
def execSmbAlertMask (write : Option Nat) (pec : Option Bool) (s : State) : Host.Outcome State Fault Refusal :=
  smbRow (fun s => match write with
    | some v => smbWrite pec (fun s => s.wr F.BELV_ALERT_MASK.MASK 0 v) s
    | none => smbWord s 0x05 (s.rd F.BELV_ALERT_MASK.MASK 0)) s

/-- SMB_HEALTH (R399): all zero before the first record. -/
def execSmbHealth (s : State) : Host.Outcome State Fault Refusal :=
  smbRow (fun s => smbBlock s 0x10 (if s.lo.latest.isEmpty then List.replicate 64 0 else s.lo.latest)) s

/-- SMB_TEMP (R399). -/
def execSmbTemp (s : State) : Host.Outcome State Fault Refusal :=
  smbRow (fun s => smbBlock s 0x11 (((List.range 8).map fun i => BitVec.ofNat 8 (s.rd F.BELV_DIE_TEMP.TEMP i)) ++
    (List.range 8).map fun i => BitVec.ofNat 8 (s.rd F.GLH_STACK_TEMP.TEMP i))) s

/-- SMB_VOLTAGE (R399). -/
def execSmbVoltage (s : State) : Host.Outcome State Fault Refusal :=
  smbRow (fun s => smbBlock s 0x12 ((List.range 8).flatMap fun v => leBytes 2 (s.rd F.BELV_VMON.MV v))) s

/-- SMB_ERR_SUMMARY (R399). -/
def execSmbErrSummary (s : State) : Host.Outcome State Fault Refusal := smbRow (fun s => smbBlock s 0x13 (leBytes 4 (errSummary s))) s

/-- A command with a key: another byte is ignored and counted (R400). -/
def smbKey (key want : Nat) (f : State → State) (s : State) : State := if key = want then f s else bump s F.BELV_SMB_REJECT.COUNT 0 1

/-- SMB_DATA_RESET (R400). -/
def execSmbDataReset (key : Nat) (pec : Option Bool) (s : State) : Host.Outcome State Fault Refusal :=
  smbRow (smbWrite pec (smbKey key 0xD5 fun s =>
    dataReset (resetCause s F.GLOBAL_RESET_CAUSE.DATA_SMB) (decide (s.rd F.GLOBAL_RESET_CTL.INCL_SUNDIAL 0 = 1)))) s

/-- SMB_MGMT_RESET (R400). -/
def execSmbMgmtReset (key : Nat) (pec : Option Bool) (s : State) : Host.Outcome State Fault Refusal :=
  smbRow (smbWrite pec (smbKey key 0x3C mgmtReset)) s

/-- REG_READ (R401): an offset that no register may have returns 0 and is counted. -/
def smbRegRead (s : State) (off : Nat) : State :=
  let r := if off % 4 ≠ 0 ∨ 0x4000000 ≤ off then (0, bump s F.BELV_SMB_REJECT.COUNT 0 1) else busReadWord s true off
  smbAnswer r.2 0x30 (4 :: leBytes 4 off) (4 :: leBytes 4 r.1)

/-- SMB_REG_READ (R401). -/
def execSmbRegRead (off : Nat) (s : State) : Host.Outcome State Fault Refusal := smbRow (fun s => smbRegRead s off) s

/-- The Alert Response Address is read (R402): the target answers with its address while it drives the pin low, and releases it.
PRESUMED: log entry 89. -/
def alertResponse (s : State) : State :=
  if alertAsserted s then
    let s1 := s.emit (.smb [smbAddr s false, pecOf [0x19, smbAddr s false]])
    { s1 with bv := { s1.bv with released := true } }
  else s.emit .smbNack

/-- SMB_ALERT_RESPONSE (R402). -/
def execSmbAlertResponse (s : State) : Host.Outcome State Fault Refusal := smbRow alertResponse s

/-- SMB_TIMEOUT (R399): the transaction at hand is abandoned; a command of this model is a whole transaction, so that none has begun.
DEDUCED: log entry 90. -/
def execSmbTimeout (s : State) : Host.Outcome State Fault Refusal := .next (run (fun _ => true) (fun s => s) s)

end Sys2Proof.Machine
end

