-- ==== Sys2Proof/Machine/Tap.lean ====
section
/-! DEFINITION. The test access port (R421), as IEEE 1149.1 defines its controller. -/
namespace Sys2Proof.Machine

/-- The controller's next state at a rising edge of TCK. PRESUMED: log entry 92. -/
def tapNext (tms : Bool) : TapState → TapState
  | .testLogicReset => if tms then .testLogicReset else .runTestIdle
  | .runTestIdle => if tms then .selectDr else .runTestIdle
  | .selectDr => if tms then .selectIr else .captureDr
  | .captureDr => if tms then .exit1Dr else .shiftDr
  | .shiftDr => if tms then .exit1Dr else .shiftDr
  | .exit1Dr => if tms then .updateDr else .pauseDr
  | .pauseDr => if tms then .exit2Dr else .pauseDr
  | .exit2Dr => if tms then .updateDr else .shiftDr
  | .updateDr => if tms then .selectDr else .runTestIdle
  | .selectIr => if tms then .testLogicReset else .captureIr
  | .captureIr => if tms then .exit1Ir else .shiftIr
  | .shiftIr => if tms then .exit1Ir else .shiftIr
  | .exit1Ir => if tms then .updateIr else .pauseIr
  | .pauseIr => if tms then .exit2Ir else .pauseIr
  | .exit2Ir => if tms then .updateIr else .shiftIr
  | .updateIr => if tms then .selectDr else .runTestIdle

/-- The length of the instruction register. PRESUMED: log entry 92. -/
def irLen : Nat := max 2 Config.irLength

/-- The instruction acts as BYPASS: the code of all ones, and, while COLD_RESET_N is high, every code but that of
SAMPLE/PRELOAD (R421). PRESUMED: log entry 92. -/
def tapBypass (s : State) : Bool :=
  match s.tap.ir with
  | none => true
  | some c => decide (c = 2 ^ irLen - 1) || (!s.glob.coldHeld && decide (c ≠ Config.sampleCode))

/-- n free bits, and the state with n free values taken up. DESIGN CHOICE: log entry 7. -/
def freeBits (s : State) (n : Nat) : List Bool × State :=
  ((List.range n).map fun i => decide (Config.freeValue (s.free + i) % 2 = 1), { s with free := s.free + n })

/-- The shift register, replaced. -/
def setShift (s : State) (l : List Bool) : State := { s with tap := { s.tap with shift := l } }

/-- What the present state does at a rising edge of TCK: BYPASS captures 0, the instruction register captures 01 in its lowest bits
and free bits above them, and any other register captures free bits. PRESUMED: log entry 92. -/
def tapAct (tdi : Bool) (s : State) : State :=
  match s.tap.state with
  | .captureDr => if tapBypass s then setShift s [false] else setShift (freeBits s (max 1 Config.scanLength)).2 (freeBits s (max 1 Config.scanLength)).1
  | .captureIr => setShift (freeBits s (irLen - 2)).2 (true :: false :: (freeBits s (irLen - 2)).1)
  | .shiftDr => setShift s (s.tap.shift.drop 1 ++ [tdi])
  | .shiftIr => setShift s (s.tap.shift.drop 1 ++ [tdi])
  | _ => s

/-- The number whose bits stand least significant first. -/
def bitsNat : List Bool → Nat
  | [] => 0
  | b :: t => b2n b + 2 * bitsNat t

/-- What the new state does at the falling edge that follows. -/
def tapSettle (s : State) : State :=
  let tdo := if s.tap.state = .shiftDr ∨ s.tap.state = .shiftIr then s.tap.shift.head? else none
  let ir := if s.tap.state = .testLogicReset then none else if s.tap.state = .updateIr then some (bitsNat s.tap.shift) else s.tap.ir
  { s with tap := { s.tap with tdo := tdo, ir := ir } }

/-- One clock of TCK. -/
def tapClock (tms tdi : Bool) (s : State) : State :=
  let s1 := tapAct tdi s
  tapSettle { s1 with tap := { s1.tap with state := tapNext tms s.tap.state } }

/-- TAP_CLOCK (R421). -/
def execTapClock (tms tdi : Bool) (s : State) : Host.Outcome State Fault Refusal := .next (runAlways (fun _ => true) (tapClock tms tdi) s)

/-- TEST_LOGIC_RESET (R421). -/
def execTestLogicReset (s : State) : Host.Outcome State Fault Refusal :=
  .next (runAlways (fun _ => true) (fun s => { s with tap := {} }) s)

end Sys2Proof.Machine
end

