-- ==== Sys2Proof/Machine/Dispatch.lean ====
section
/-! DEFINITION. One arm per command: its meaning (R1), on the state with the command taken from the queue. -/
namespace Sys2Proof.Machine

/-- DESIGN CHOICE: log entry 1. -/
def exec (i : Instr) (s : State) : Host.Outcome State Fault Refusal :=
  match i with
  | .coldReset => Sys2Proof.Machine.execColdReset s
  | .coldResetRelease => Sys2Proof.Machine.execColdResetRelease s
  | .powerOnDetect io => Sys2Proof.Machine.execPowerOnDetect io s
  | .warmReset => Sys2Proof.Machine.execWarmReset s
  | .perstRelease speed width cfg => Sys2Proof.Machine.execPerstRelease speed width cfg s
  | .functionLevelReset cfg => Sys2Proof.Machine.execFunctionLevelReset cfg s
  | .dataReset data => Sys2Proof.Machine.execDataReset data s
  | .dpInitComplete => Sys2Proof.Machine.execDpInitComplete s
  | .powerUpRequest d => Sys2Proof.Machine.execPowerUpRequest d s
  | .powerDownRequest d => Sys2Proof.Machine.execPowerDownRequest d s
  | .supplySettled d => Sys2Proof.Machine.execSupplySettled d s
  | .domainSelftestDone d pass => Sys2Proof.Machine.execDomainSelftestDone d pass s
  | .drainComplete d => Sys2Proof.Machine.execDrainComplete d s
  | .supplyMeasure mv => Sys2Proof.Machine.execSupplyMeasure mv s
  | .temperatureSample die stack => Sys2Proof.Machine.execTemperatureSample die stack s
  | .thermTrip sensor temp => Sys2Proof.Machine.execThermTrip sensor temp s
  | .registerWrite off data be poisoned => Sys2Proof.Machine.execRegisterWrite off data be poisoned s
  | .rcRead span => Sys2Proof.Machine.execRcRead span s
  | .loReadCapture off => Sys2Proof.Machine.execLoReadCapture off s
  | .loWriteHold off data => Sys2Proof.Machine.execLoWriteHold off data s
  | .hiWriteCombine off data => Sys2Proof.Machine.execHiWriteCombine off data s
  | .errW1cClear off data => Sys2Proof.Machine.execErrW1cClear off data s
  | .sdTimeNsRead => Sys2Proof.Machine.execSdTimeNsRead s
  | .sdCapqNsRead => Sys2Proof.Machine.execSdCapqNsRead s
  | .ethTsqNsRead p => Sys2Proof.Machine.execEthTsqNsRead p s
  | .fcWinDataRead => Sys2Proof.Machine.execFcWinDataRead s
  | .glhTrainDataWrite data => Sys2Proof.Machine.execGlhTrainDataWrite data s
  | .bar2CounterRead off wide => Sys2Proof.Machine.execBar2CounterRead off wide s
  | .indexPoll hostIdx => Sys2Proof.Machine.execIndexPoll hostIdx s
  | .wake data => Sys2Proof.Machine.execWake data s
  | .ringEnable r data => Sys2Proof.Machine.execRingEnable r data s
  | .ringDisable r data => Sys2Proof.Machine.execRingDisable r data s
  | .nop desc => Sys2Proof.Machine.execNop desc s
  | .loadTable desc answers => Sys2Proof.Machine.execLoadTable desc answers s
  | .readTable desc answers => Sys2Proof.Machine.execReadTable desc answers s
  | .loadRegion desc answers => Sys2Proof.Machine.execLoadRegion desc answers s
  | .readRegion desc answers => Sys2Proof.Machine.execReadRegion desc answers s
  | .commitEpoch desc => Sys2Proof.Machine.execCommitEpoch desc s
  | .commitEpochStart desc => Sys2Proof.Machine.execCommitEpochStart desc s
  | .commitEpochStop desc => Sys2Proof.Machine.execCommitEpochStop desc s
  | .commitEpochCancel desc => Sys2Proof.Machine.execCommitEpochCancel desc s
  | .dumpNow desc => Sys2Proof.Machine.execDumpNow desc s
  | .descriptorFetch c desc fetched => Sys2Proof.Machine.execDescriptorFetch c desc fetched s
  | .dmaBeatResponse c beat err bytes bad badTally => Sys2Proof.Machine.execDmaBeatResponse c beat err bytes bad badTally s
  | .dmaStop c => Sys2Proof.Machine.execDmaStop c s
  | .dmaRestart c => Sys2Proof.Machine.execDmaRestart c s
  | .msixModerationExpire r => Sys2Proof.Machine.execMsixModerationExpire r s
  | .eventRecordWrite => Sys2Proof.Machine.execEventRecordWrite s
  | .pcieLinkDown => Sys2Proof.Machine.execPcieLinkDown s
  | .pcieLinkUp speed width => Sys2Proof.Machine.execPcieLinkUp speed width s
  | .pcieLinkFault => Sys2Proof.Machine.execPcieLinkFault s
  | .d3hotEnter => Sys2Proof.Machine.execD3hotEnter s
  | .d0Return => Sys2Proof.Machine.execD0Return s
  | .ppsEdge r pulse => Sys2Proof.Machine.execPpsEdge r pulse s
  | .phaseJumpDetect r ps => Sys2Proof.Machine.execPhaseJumpDetect r ps s
  | .refActivityLoss r clock => Sys2Proof.Machine.execRefActivityLoss r clock s
  | .refFreqMeasure r freq => Sys2Proof.Machine.execRefFreqMeasure r freq s
  | .refQualify r => Sys2Proof.Machine.execRefQualify r s
  | .sdRefCfgWrite r data => Sys2Proof.Machine.execSdRefCfgWrite r data s
  | .wtrExpire => Sys2Proof.Machine.execWtrExpire s
  | .slewComplete => Sys2Proof.Machine.execSlewComplete s
  | .lockAchieved => Sys2Proof.Machine.execLockAchieved s
  | .phaseErrUpdate err => Sys2Proof.Machine.execPhaseErrUpdate err s
  | .virtFreqWrite data => Sys2Proof.Machine.execVirtFreqWrite data s
  | .virtTimeout => Sys2Proof.Machine.execVirtTimeout s
  | .todSet data => Sys2Proof.Machine.execTodSet data s
  | .stepGo data => Sys2Proof.Machine.execStepGo data s
  | .timedEventArm e data => Sys2Proof.Machine.execTimedEventArm e data s
  | .timedEventFire e => Sys2Proof.Machine.execTimedEventFire e s
  | .timeInEdge p rising width => Sys2Proof.Machine.execTimeInEdge p rising width s
  | .timebaseSecond => Sys2Proof.Machine.execTimebaseSecond s
  | .katTick => Sys2Proof.Machine.execKatTick s
  | .katPassDone k pass => Sys2Proof.Machine.execKatPassDone k pass s
  | .healthRecord => Sys2Proof.Machine.execHealthRecord s
  | .lateTwinHoldExpire => Sys2Proof.Machine.execLateTwinHoldExpire s
  | .sramScrub mem index uncorr => Sys2Proof.Machine.execSramScrub mem index uncorr s
  | .signalDetect k => Sys2Proof.Machine.execSignalDetect k s
  | .cdrLock k ppm => Sys2Proof.Machine.execCdrLock k ppm s
  | .adaptDone k ctle vga taps => Sys2Proof.Machine.execAdaptDone k ctle vga taps s
  | .txeqRequestEval k request => Sys2Proof.Machine.execTxeqRequestEval k request s
  | .tstatReceive k reqNum pre post status => Sys2Proof.Machine.execTstatReceive k reqNum pre post status s
  | .txeqTimeout k => Sys2Proof.Machine.execTxeqTimeout k s
  | .txTrainDone k => Sys2Proof.Machine.execTxTrainDone k s
  | .codewordDecode k boundary levels eq => Sys2Proof.Machine.execCodewordDecode k boundary levels eq s
  | .laneDown k cause => Sys2Proof.Machine.execLaneDown k cause s
  | .trainTimeout k => Sys2Proof.Machine.execTrainTimeout k s
  | .trainFailRetry k => Sys2Proof.Machine.execTrainFailRetry k s
  | .retrain k data => Sys2Proof.Machine.execRetrain k data s
  | .reportBurst k => Sys2Proof.Machine.execReportBurst k s
  | .degradeWindow k => Sys2Proof.Machine.execDegradeWindow k s
  | .cellReceive k sramBad => Sys2Proof.Machine.execCellReceive k sramBad s
  | .sliceWindowExpire c => Sys2Proof.Machine.execSliceWindowExpire c s
  | .ingestStall => Sys2Proof.Machine.execIngestStall s
  | .stallFillRelease => Sys2Proof.Machine.execStallFillRelease s
  | .runStart => Sys2Proof.Machine.execRunStart s
  | .prismSpectrum i0 c sramBad => Sys2Proof.Machine.execPrismSpectrum i0 c sramBad s
  | .channelBlockFetch => Sys2Proof.Machine.execChannelBlockFetch s
  | .fetchComplete poison => Sys2Proof.Machine.execFetchComplete poison s
  | .channelBlockBegin => Sys2Proof.Machine.execChannelBlockBegin s
  | .blockSlotBegin met => Sys2Proof.Machine.execBlockSlotBegin met s
  | .tailStream met => Sys2Proof.Machine.execTailStream met s
  | .commitImage poison tallyPoison touchBad => Sys2Proof.Machine.execCommitImage poison tallyPoison touchBad s
  | .commitRetire => Sys2Proof.Machine.execCommitRetire s
  | .cycleBoundary => Sys2Proof.Machine.execCycleBoundary s
  | .bankDrainStart => Sys2Proof.Machine.execBankDrainStart s
  | .porticoFrameSend i0 bad badTally => Sys2Proof.Machine.execPorticoFrameSend i0 bad badTally s
  | .streamDumpComplete i0 => Sys2Proof.Machine.execStreamDumpComplete i0 s
  | .lensFetchReturn k poisoned ahead wait => Sys2Proof.Machine.execLensFetchReturn k poisoned ahead wait s
  | .lensContextDone k sramBad full => Sys2Proof.Machine.execLensContextDone k sramBad full s
  | .eyeCycleClose => Sys2Proof.Machine.execEyeCycleClose s
  | .captureForce data => Sys2Proof.Machine.execCaptureForce data s
  | .captureRelease data => Sys2Proof.Machine.execCaptureRelease data s
  | .trellisDeadline k f fsi => Sys2Proof.Machine.execTrellisDeadline k f fsi s
  | .ethFrameReceive p bytes check => Sys2Proof.Machine.execEthFrameReceive p bytes check s
  | .ethLinkDown p localFault remoteFault hiSer => Sys2Proof.Machine.execEthLinkDown p localFault remoteFault hiSer s
  | .ethLinkUp p => Sys2Proof.Machine.execEthLinkUp p s
  | .ethVerifyDone p ok => Sys2Proof.Machine.execEthVerifyDone p ok s
  | .ethTxFrameEnd p sramBad => Sys2Proof.Machine.execEthTxFrameEnd p sramBad s
  | .ethTxUnderrun p => Sys2Proof.Machine.execEthTxUnderrun p s
  | .expressRateWindow => Sys2Proof.Machine.execExpressRateWindow s
  | .glhEnable data => Sys2Proof.Machine.execGlhEnable data s
  | .glhInitComplete bad => Sys2Proof.Machine.execGlhInitComplete bad s
  | .glhClearFail data => Sys2Proof.Machine.execGlhClearFail data s
  | .glhRegionWrite e data => Sys2Proof.Machine.execGlhRegionWrite e data s
  | .cloisterGrant t ready waiting fills empties bufFull => Sys2Proof.Machine.execCloisterGrant t ready waiting fills empties bufFull s
  | .hbmReadResponse m rid errs latency bufFull => Sys2Proof.Machine.execHbmReadResponse m rid errs latency bufFull s
  | .masterReset data => Sys2Proof.Machine.execMasterReset data s
  | .hbmRefresh st busy => Sys2Proof.Machine.execHbmRefresh st busy s
  | .hbmScrubAccess errs => Sys2Proof.Machine.execHbmScrubAccess errs s
  | .scrubPeriodEnd => Sys2Proof.Machine.execScrubPeriodEnd s
  | .cntSelWrite n data => Sys2Proof.Machine.execCntSelWrite n data s
  | .cntClear n data => Sys2Proof.Machine.execCntClear n data s
  | .clearAll data => Sys2Proof.Machine.execClearAll data s
  | .counterFreeze data => Sys2Proof.Machine.execCounterFreeze data s
  | .counterResume data => Sys2Proof.Machine.execCounterResume data s
  | .traceEnable data => Sys2Proof.Machine.execTraceEnable data s
  | .eyeScanStart k data => Sys2Proof.Machine.execEyeScanStart k data s
  | .eyeScanAbort k data errs => Sys2Proof.Machine.execEyeScanAbort k data errs s
  | .eyeScanDone k errs => Sys2Proof.Machine.execEyeScanDone k errs s
  | .smbDeviceId => Sys2Proof.Machine.execSmbDeviceId s
  | .smbStatus => Sys2Proof.Machine.execSmbStatus s
  | .smbAlertStatus => Sys2Proof.Machine.execSmbAlertStatus s
  | .smbAlertClear data pec => Sys2Proof.Machine.execSmbAlertClear data pec s
  | .smbAlertMask write pec => Sys2Proof.Machine.execSmbAlertMask write pec s
  | .smbHealth => Sys2Proof.Machine.execSmbHealth s
  | .smbTemp => Sys2Proof.Machine.execSmbTemp s
  | .smbVoltage => Sys2Proof.Machine.execSmbVoltage s
  | .smbErrSummary => Sys2Proof.Machine.execSmbErrSummary s
  | .smbDataReset key pec => Sys2Proof.Machine.execSmbDataReset key pec s
  | .smbMgmtReset key pec => Sys2Proof.Machine.execSmbMgmtReset key pec s
  | .smbRegRead off => Sys2Proof.Machine.execSmbRegRead off s
  | .smbAlertResponse => Sys2Proof.Machine.execSmbAlertResponse s
  | .smbTimeout => Sys2Proof.Machine.execSmbTimeout s
  | .refActivityReturn r clock => Sys2Proof.Machine.execRefActivityReturn r clock s
  | .powerOnResetEnd => Sys2Proof.Machine.execPowerOnResetEnd s
  | .mgmtResetComplete => Sys2Proof.Machine.execMgmtResetComplete s
  | .timeOutPulseEnd p => Sys2Proof.Machine.execTimeOutPulseEnd p s
  | .ppmUpdate values => Sys2Proof.Machine.execPpmUpdate values s
  | .tapClock tms tdi => Sys2Proof.Machine.execTapClock tms tdi s
  | .testLogicReset => Sys2Proof.Machine.execTestLogicReset s

end Sys2Proof.Machine
end

