-- ==== Sys2Proof/Machine/Step.lean ====
section
/-! DEFINITION. One step: the command at the front of the queue, or a nanosecond of idling; and the host's placement of a
command that a table word spells. -/
namespace Sys2Proof.Machine

/-- The front of the queue is performed on the state with the rest of the queue (R1, R2). DESIGN CHOICE: log entry 2. -/
def step (s : State) : Host.Outcome State Fault Refusal :=
  match s.pending with
  | [] => .next (idle s)
  | c :: t => exec c { s with pending := t }

/-- The state with the command that a table word spells at the front of its queue; no row of the table gives bits, so no word spells
one. DESIGN CHOICE: log entry 4. -/
def State.withFetchWord (s : State) (nbits w : Nat) : State :=
  match decodeTableWord nbits w with
  | some c => { s with pending := c :: s.pending }
  | none => s

end Sys2Proof.Machine
end

