-- ==== Sys2Proof/Safety.lean ====
section
/-! DEFINITION. The terms of the claims: a settled state, whose views in the Lodge and Belvedere agree with every other unit; and what a
command leaves as it was. -/
namespace Sys2Proof.Machine

/-- LODGE_STATUS.COVERAGE holds the six coverage conditions of Table 13-1, and COVERED tells whether all hold (R276). -/
def State.coverageSettled (s : State) : Prop :=
  s.rd F.LODGE_STATUS.COVERAGE 0 = coverage s ∧ s.rd F.LODGE_STATUS.COVERED 0 = b2n (decide (coverage s = 63))

/-- BELV_ERR_FIRST_UNIT names a unit exactly while some bit of BELV_ERR_SUMMARY is set (R398). -/
def State.summarySettled (s : State) : Prop := s.rd F.BELV_ERR_FIRST_UNIT.UNIT 0 = 0 ↔ errSummary s = 0

/-- A state in which a cold reset is held, or whose coverage and error summary are settled. -/
def State.Settled (s : State) : Prop := s.held = true ∨ (s.coverageSettled ∧ s.summarySettled)

/-- The fields that the end of any command may write (R276, R286, R398, R402): LODGE_STATUS.COVERAGE and COVERED, LODGE_ERR with its
first error and time, the alert status, and the first unit in error. -/
def endFlds : List Fld :=
  [F.LODGE_STATUS.COVERAGE, F.LODGE_STATUS.COVERED, F.LODGE_ERR.BITS, F.LODGE_ERR_FIRST.WORD, F.LODGE_ERR_FIRST_TS.TS,
   F.BELV_ALERT_STATUS.STATUS, F.BELV_ERR_FIRST_UNIT.UNIT]

/-- The fields in which Belvedere counts what a unit counts (R387, R388). -/
def cntFlds : List Fld := [F.BELV_CNT.VALUE, F.BELV_CNT.SATURATED]

/-- The fields of a unit's sticky errors (R24). -/
def ErrUnit.flds (u : ErrUnit) : List Fld := [u.bits, u.first, u.ts]

/-- Every copy of every register field reads in t as in s, but for the fields that the end of a command may write, the fields of
`flds`, and the copies of `copies`. -/
def State.SameRegs (s t : State) (flds : List Fld) (copies : List (Fld × Nat)) : Prop :=
  ∀ (g : Fld) (k : Nat), (∀ e ∈ endFlds ++ flds, e.id ≠ g.id) → (∀ e ∈ copies, (e.1.id, e.2) ≠ (g.id, k)) → t.rd g k = s.rd g k

/-- Outside the registers t is s, but for the events that wait, whether an alert response has released MGMT_ALERT_N, the count of
free values taken, and what the command sent out: the memories, the tables, the active copies, the time, the queue of commands and every unit are the same. -/
def State.SameUnits (s t : State) : Prop :=
  t = { s with regs := t.regs, out := t.out, free := t.free, ko := { s.ko with evq := t.ko.evq, evLost := t.ko.evLost },
               bv := { s.bv with released := t.bv.released } }

/-- The host reaches the registers: no cold reset is held, the link is up, no warm reset is held, and the function is in D0 (R15,
R340). -/
def State.hostReaches (s : State) : Prop := s.held = false ∧ linkReach s = true ∧ s.rd F.KIOSK_STATUS.D3 0 = 0

/-- Every copy of every register field outside a range of field ids reads in t as in s, but for the fields that the end of a command may
write and those in which Belvedere counts. -/
def State.SameOutside (s t : State) (lo hi : Nat) (flds : List Fld) : Prop :=
  ∀ (g : Fld) (k : Nat), (∀ e ∈ endFlds ++ cntFlds ++ flds, e.id ≠ g.id) → g.id < lo ∨ hi ≤ g.id → t.rd g k = s.rd g k

/-- The timebase and the elapsed time of t lie `d` units after those of s. -/
def State.Later (s t : State) (d : Nat) : Prop := t.tb = s.tb + d ∧ t.el = s.el + d

/-- A command of index `idx` completes: its completion entry (Table 16-6) is written to the completion ring, and both rings' indices
advance by one (R341, R343). -/
def State.Completed (s t : State) (idx : Nat) (d : List Byte) (status beat result : Nat) : Prop :=
  (.hostWrite (entryAddr s 1 (getRing s 1).devIdx) (record 64 [(0, 1, status), (1, 1, leAt d 0 1), (4, 4, leAt d 4 4),
      (8, 4, idx), (12, 4, beat), (16, 8, result), (24, 4, s.sec), (28, 4, s.ns)]) : Output) ∈ t.out ∧
    ∀ r, r < 2 → (getRing t r).devIdx = ((getRing s r).devIdx + 1) % 2 ^ 32 ∧ t.rd F.KIOSK_RING_STATUS.DEV_IDX r = (getRing t r).devIdx

/-- The command at the head of the command ring is read and completes at once. -/
def State.Answered (s t : State) (d : List Byte) (status beat result : Nat) : Prop :=
  s.Completed t (getRing s 0).next d status beat result ∧ (getRing t 0).next = ((getRing s 0).next + 1) % 2 ^ 32

/-- A LOAD or READ command is read and its transfer starts on channel c (R351). -/
def State.Started (s t : State) (c : Nat) (d : List Byte) : Prop :=
  (∃ j, getJob t c = some j ∧ j.ring = 0 ∧ j.idx = (getRing s 0).next ∧ j.desc = d ∧ j.addr = descAddr d ∧ j.beats = descBeats d ∧
    j.info = descLen d ∧ j.answered = [] ∧ j.err = none ∧ j.bus = false) ∧
  (chState t c = chACTIVE ∨ chState t c = chPREEMPTED) ∧ (getRing t 0).next = ((getRing s 0).next + 1) % 2 ^ 32 ∧
  t.ko.cmds = s.ko.cmds ++ [{ idx := (getRing s 0).next, desc := d, chan := some c }] ∧
  s.SameRegs t [F.DMA_CH_STATUS.STATE, F.DMA_CH_PREEMPT.COUNT, F.BELV_CNT.VALUE, F.BELV_CNT.SATURATED] [(F.DMA_CH_BYTES.BYTES, 0)] ∧
  State.SameUnits { s with ko := t.ko } t

/-- No command waits for its completion, and the command ring is at no boundary. -/
def State.noCommands (s : State) : Prop := s.ko.cmds = [] ∧ (ringState s 0 = rgSTOPPING → ringBusy s 0 = true)

/-- Sundial keeps its selection: nothing is forced, and what is selected is qualified, or nothing is selected and nothing chosen (R294). -/
def State.selectionStays (s : State) : Prop :=
  (s.rd F.SD_SEL.FORCE_EN 0 = 0 ∧ s.rd F.SD_STATUS.SEL_VALID 0 = 1 ∧ qualified s (s.rd F.SD_STATUS.SELECTED 0) = true) ∨
  (s.rd F.SD_STATUS.SEL_VALID 0 ≠ 1 ∧ (choose s).ref = none)

/-- Nothing of the Kiosk waits for its requests but pending interrupt messages. -/
def State.hostQuiet (s : State) : Prop :=
  s.ko.posted = [] ∧ s.noCommands ∧ s.ko.chans = [] ∧ ∀ c, c < 32 → chState s c ≠ chPREEMPTED

/-- The output is a write of payload to the host's memory. -/
def Output.isPayload : Output → Bool
  | .hostPayload _ _ _ => true
  | _ => false

/-- The output is a read request to the host. -/
def Output.isRead : Output → Bool
  | .hostRead _ _ => true
  | _ => false

/-- Payload writes that follow one another from an address on, and the bytes that they write. -/
def payloadFrom : Nat → List Output → Option (List Byte)
  | a, .hostPayload b l _ :: t => if a = b then (payloadFrom (a + l.length) t).map (l ++ ·) else none
  | _, [] => some []
  | _, _ => none

/-- The counters that move as a command or an entry is moved: preemptions (R358), and those of Belvedere. -/
def moveFlds : List Fld := F.DMA_CH_PREEMPT.COUNT :: cntFlds

/-- What the answer to a command writes in the registers, beside the counters above. -/
def answerCopies : List (Fld × Nat) :=
  [(F.DMA_CH_BYTES.BYTES, 0), (F.DMA_CH_BYTES.BYTES, 1), (F.KIOSK_RING_STATUS.DEV_IDX, 0), (F.KIOSK_RING_STATUS.DEV_IDX, 1), (F.KIOSK_RING_ENTRIES.COUNT, 0),
   (F.KIOSK_RING_ENTRIES.COUNT, 1)]

/-- Every field of the register map. -/
def allFlds : List Fld :=
  RegMap.global ++ RegMap.kiosk ++ RegMap.dma ++ RegMap.cloister ++ RegMap.glasshouse ++ RegMap.yargil ++ RegMap.gatehouse ++ RegMap.prism ++
  RegMap.pavilion ++ RegMap.accum ++ RegMap.portico ++ RegMap.lens ++ RegMap.eyepiece ++ RegMap.trellis ++ RegMap.eth ++ RegMap.tsu ++
  RegMap.sundial ++ RegMap.lodge ++ RegMap.belvedere ++ RegMap.power ++ RegMap.fuse

/-- The event of a code and its arguments waits in t, when s had room for it behind the `n` events that the command raised before it
(R28, R354). -/
def State.Raised (s t : State) (n code : Nat) (args : List Nat) : Prop :=
  s.ko.evq.length + n < 1024 → ∃ e ∈ t.ko.evq, e.kind = 4 ∧ e.code = code ∧ e.body = argFields 16 args

/-- A command answers a next state of which P holds. -/
def Completes (c : Instr) (s : State) (P : State → Prop) : Prop := ∃ t, exec c s = .next t ∧ P t

end Sys2Proof.Machine
end

