-- ==== Sys2Proof/Certificates/Slice0/Obligations.lean ====
section
/-! DEFINITION. What is claimed of the model: the rules of the spec, command by command. -/
open Sys2Proof Sys2Proof.Machine

/-- The step takes the command at the front of the queue and is its meaning on the state with the rest (R1, R2). -/
def Obligations.StepRunsTheFrontCommand : Prop :=
  ∀ (s : State) (c : Instr) (q : List Instr), s.pending = c :: q → step s = exec c { s with pending := q }

/-- With no command waiting a nanosecond of the timebase passes, unless a cold reset is held: the model's choice for the empty queue,
log entry 2. -/
def Obligations.EmptyQueueIdles : Prop :=
  ∀ s : State, s.pending = [] →
    (s.held = true → step s = .next s) ∧
    (s.held = false → ∃ t, step s = .next t ∧ t.tb = s.tb + 65536 ∧ t.el = s.el + 65536 ∧ t.pending = [] ∧ t.out = [] ∧
      s.SameRegs t cntFlds [] ∧ State.SameUnits { s with tb := t.tb, el := t.el } t)

/-- Reset leaves every register at the reset value of its table, as a read returns it and in force, a cold reset and a warm reset held,
the timebase at 0 and nothing in any memory, table or queue (R17, R64, R301). -/
def Obligations.ResetState : Prop :=
  (∀ (f : Fld) (k : Nat), State.reset.rd f k = f.rst k ∧ State.reset.ac f k = f.rst k) ∧
  State.reset.rd F.GLOBAL_DP_STATE.STATE 0 = 0 ∧ (∀ d, State.reset.rd F.POWER_DOM.STATE d = 0 ∧ State.reset.rd F.POWER_DOM.REQ d = 1) ∧
  State.reset.rd F.LODGE_STATUS.COVERAGE 0 = 0x20 ∧
  State.reset.glob.coldHeld = true ∧ State.reset.glob.perstHeld = true ∧ State.reset.tb = 0 ∧ State.reset.hbm = [] ∧
  State.reset.tables = [] ∧ State.reset.ko.evq = [] ∧ State.reset.pending = []

/-- The state after reset is settled, with no unit in error, and its memory has the canonical form. -/
def Obligations.ResetIsSettled : Prop :=
  State.reset.Settled ∧ Memory.wf State.reset.hbm = true ∧ State.reset.summarySettled ∧ errSummary State.reset = 0

/-- LODGE_STATUS.COVERAGE and COVERED tell the six coverage conditions (R276), and BELV_ERR_FIRST_UNIT names a unit exactly while some
unit has an error (R398), before every command and after it, whatever the command. -/
def Obligations.StepKeepsSettled : Prop :=
  ∀ s t : State, s.Settled → step s = .next t → t.Settled

/-- No command of the table stops the machine, and none touches the commands behind it in the queue. -/
def Obligations.NoCommandStops : Prop :=
  ∀ (c : Instr) (s : State), Completes c s fun t => t.pending = s.pending

/-- While a cold reset is held, by COLD_RESET_N or by the power-on detector, every command but those of the reset pins, the detector,
the sensors, the trip circuit and the test logic changes nothing (R64, R408, R420, R421); PERST_N asserted meanwhile is recorded beside
the cold reset (R65). -/
def Obligations.HeldResetHoldsAll : Prop :=
  ∀ (c : Instr) (s : State), s.held = true →
    ((match c with
      | .coldReset | .coldResetRelease | .powerOnDetect _ | .powerOnResetEnd | .temperatureSample _ _ | .thermTrip _ _ | .tapClock _ _
      | .testLogicReset | .warmReset => False
      | _ => True) →
     exec c s = .next s) ∧
    (s.glob.perstHeld = true → exec .warmReset s = .next s) ∧
    (s.glob.perstHeld = false → Completes .warmReset s fun t =>
      t.glob = { s.glob with perstHeld := true } ∧ t.rd F.GLOBAL_RESET_CAUSE.WARM 0 = 1 ∧ t.out = [] ∧
      (∀ (g : Fld) k, (g.id, k) ≠ (F.GLOBAL_RESET_CAUSE.WARM.id, 0) → t.rd g k = s.rd g k) ∧ State.SameUnits { s with glob := t.glob } t)

/-- The register map decodes without overlap: two fields at one offset are at the same copy of one register and share no bit, and the
upper word of a 64-bit quantity is at no other register. -/
def Obligations.RegisterMapHasNoOverlap : Prop :=
  ∀ f ∈ allFlds, ∀ g ∈ allFlds, ∀ off i j,
    (copyAt f off = some i → copyAt g off = some j → i = j ∧ (f.id = g.id ∨ f.lo + f.width ≤ g.lo ∨ g.lo + g.width ≤ f.lo)) ∧
    (f.wide = true → copyAt f off = some i → copyAt g (off + 4) = none)

/-- Bytes written to the HBM read back, but for those of a failed stack, which are discarded (R374); every byte outside them reads as
before, and the canonical form is kept. -/
def Obligations.HbmWriteReadsBack : Prop :=
  ∀ (s : State) (a c : Nat) (bs : List Byte), Memory.wf s.hbm = true →
    Memory.wf (s.hbmWrite a bs).hbm = true ∧
    Memory.get (s.hbmWrite a bs).hbm c =
      (if a ≤ c ∧ c < a + bs.length ∧ stackDead s c = false then bs.getD (c - a) 0 else Memory.get s.hbm c) ∧
    (∀ (g : Fld) (k : Nat), (s.hbmWrite a bs).rd g k = s.rd g k)

/-- COLD_RESET and POWER_ON_DETECT leave the state after reset (R64, R408), but for the queue, the levels of the reset pins, the test
logic, the count of free values, the ANCHOR table (R313, log entry 99), and the trip latch, which COLD_RESET_N releases once every die sensor lies below 95 °C and the removal
of VDD_IO at once (R420). -/
def Obligations.ColdResetClearsAll : Prop :=
  ∀ (s : State) (io : Bool),
    (Completes .coldReset s fun t =>
      t.held = true ∧ t.pins.thermTrip = (s.pins.thermTrip && s.pins.dieTemp.any fun x => decide (95 ≤ x)) ∧
      t = { State.reset with
            pending := s.pending, free := s.free, tap := s.tap, pins := { s.pins with thermTrip := t.pins.thermTrip },
            tables := s.tables.filter (fun e => decide (e.1.1 = 15)), tableBad := s.tableBad.filter (fun e => decide (e.1 = 15)),
            glob := { coldHeld := true, ponHeld := s.glob.ponHeld, perstHeld := s.glob.perstHeld } }) ∧
    (Completes (.powerOnDetect io) s fun t =>
      t.held = true ∧ (io = true → t.pins.thermTrip = false) ∧ (s.glob.coldHeld = false → io = false → t.pins.thermTrip = s.pins.thermTrip) ∧
      t = { State.reset with
            pending := s.pending, free := s.free, tap := s.tap, pins := { s.pins with thermTrip := t.pins.thermTrip },
            tables := s.tables.filter (fun e => decide (e.1.1 = 15)), tableBad := s.tableBad.filter (fun e => decide (e.1 = 15)),
            glob := { coldHeld := s.glob.coldHeld, ponHeld := true, perstHeld := s.glob.perstHeld } })

/-- When the last of the two holders of a cold reset lets go, every power domain ramps (R69, R408); while the other still holds it only
the holder's own level changes. -/
def Obligations.ResetReleaseRampsDomains : Prop :=
  ∀ s : State,
    (s.glob.coldHeld = true → s.glob.ponHeld = false → Completes .coldResetRelease s fun t =>
      t.held = false ∧ (∀ d, d < 44 → domState t d = pdRAMP) ∧ t.glob = { s.glob with coldHeld := false } ∧ t.out = [] ∧
      s.SameRegs t [F.LENS_LOADED.LOADED] ((List.range 44).map fun d => (F.POWER_DOM.STATE, d)) ∧ State.SameUnits { s with glob := t.glob } t) ∧
    (s.glob.coldHeld = true → s.glob.ponHeld = true → Completes .coldResetRelease s fun t =>
      t = { s with glob := { s.glob with coldHeld := false }, out := [] }) ∧
    (s.glob.ponHeld = true → s.glob.coldHeld = false → Completes .powerOnResetEnd s fun t =>
      t.held = false ∧ (∀ d, d < 44 → domState t d = pdRAMP) ∧ t.glob = { s.glob with ponHeld := false } ∧ t.out = [] ∧
      s.SameRegs t [F.LENS_LOADED.LOADED] ((List.range 44).map fun d => (F.POWER_DOM.STATE, d)) ∧ State.SameUnits { s with glob := t.glob } t)

/-- A warm reset returns the control plane to its reset values and ends its descriptors; DATA_KEEP decides whether the data plane goes
on, with LODGE_ERR.PCIE_LINK, or is reset (R66, R286); host streams of an incomplete dump start again once ring 3 is enabled (R203). The
Sundial and POWER registers, the tables and the time stay. -/
def Obligations.WarmResetClearsControlPlane : Prop :=
  ∀ s : State, s.held = false → s.glob.perstHeld = false → Completes .warmReset s fun t =>
    t.glob.perstHeld = true ∧ t.rd F.GLOBAL_RESET_CAUSE.WARM 0 = 1 ∧ (∀ r, getRing t r = {}) ∧ t.ko.chans = [] ∧ t.ko.cmds = [] ∧
    (∀ (g : Fld) k, RegMap.kioskLo ≤ g.id → g.id < RegMap.dmaHi → t.rd g k = g.rst k) ∧
    (∀ (g : Fld) k, RegMap.sundialLo ≤ g.id → g.id < RegMap.sundialHi → t.rd g k = s.rd g k) ∧
    (∀ (g : Fld) k, RegMap.powerLo ≤ g.id → t.rd g k = s.rd g k) ∧
    t.tables = s.tables ∧ t.tb = s.tb ∧ t.el = s.el ∧ t.sd = s.sd ∧
    (s.rd F.GLOBAL_RESET_CTL.DATA_KEEP 0 = 1 →
      t.dp = s.dp ∧ t.glob = { s.glob with perstHeld := true } ∧ t.pv = s.pv ∧ t.acs = s.acs ∧ t.px = s.px ∧ t.gh = s.gh ∧
      t.po = { s.po with again := true } ∧
      bit (t.rd F.LODGE_ERR.BITS 0) Err.LODGE.PCIE_LINK = true) ∧
    (s.rd F.GLOBAL_RESET_CTL.DATA_KEEP 0 ≠ 1 → t.dp = dpRESET ∧ t.glob.armed = none ∧ t.acs = {} ∧ t.px = {} ∧ t.gh = {})

/-- PERST_N is released and the link trains to a rate and width of Table 16-1: the link is up at them, the host configures the function,
and DMA may begin (R69): where nothing waits to go out, as after a reset, only those registers change. A
function-level reset returns the control plane to its reset values but for the state of the link; the data plane goes on, host streams of
an incomplete dump start again once ring 3 is enabled (R203), and events that wait go on waiting (R68, R353). The configuration is the
commands' operand: log entry 105. -/
def Obligations.LinkTrainsAndFlrClears : Prop :=
  ∀ (s : State) (speed width : Nat) (cfg : PciCfg), s.held = false →
    (s.glob.perstHeld = true → linkOk speed width = true → Completes (.perstRelease speed width cfg) s fun t =>
      t.glob = { s.glob with perstHeld := false } ∧ t.rd F.KIOSK_STATUS.LINK_UP 0 = 1 ∧ t.rd F.KIOSK_STATUS.SPEED 0 = speed ∧
      t.rd F.KIOSK_STATUS.WIDTH 0 = width ∧ t.rd F.KIOSK_STATUS.BME 0 = b2n cfg.bme ∧ t.ko.pci = cfg ∧ t.ko.linkDownAt = none ∧
      s.SameOutside t RegMap.kioskLo RegMap.dmaHi [] ∧ State.SameUnits { s with glob := t.glob, ko := t.ko } t ∧
      (s.hostQuiet → s.ko.msixPba = [] →
        t.out = [] ∧ s.SameRegs t [F.KIOSK_STATUS.LINK_UP, F.KIOSK_STATUS.SPEED, F.KIOSK_STATUS.WIDTH, F.KIOSK_STATUS.BME] [])) ∧
    (s.rd F.KIOSK_STATUS.LINK_UP 0 = 1 → Completes (.functionLevelReset cfg) s fun t =>
      t.rd F.GLOBAL_RESET_CAUSE.FLR 0 = 1 ∧ t.rd F.KIOSK_STATUS.LINK_UP 0 = 1 ∧ t.rd F.KIOSK_STATUS.BME 0 = b2n cfg.bme ∧ t.ko.pci = cfg ∧
      t.rd F.KIOSK_STATUS.SPEED 0 = s.rd F.KIOSK_STATUS.SPEED 0 ∧ t.rd F.KIOSK_STATUS.WIDTH 0 = s.rd F.KIOSK_STATUS.WIDTH 0 ∧
      (∀ (g : Fld) k, RegMap.kioskLo ≤ g.id → g.id < RegMap.dmaHi →
        (∀ e ∈ [F.KIOSK_STATUS.LINK_UP, F.KIOSK_STATUS.SPEED, F.KIOSK_STATUS.WIDTH, F.KIOSK_STATUS.BME], e.id ≠ g.id) →
        t.rd g k = g.rst k) ∧
      (∀ r, getRing t r = {}) ∧ t.ko.chans = [] ∧ t.ko.cmds = [] ∧ s.ko.evq <+: t.ko.evq ∧ t.dp = s.dp ∧ t.glob = s.glob ∧ t.pv = s.pv ∧
      t.acs = s.acs ∧ t.po = { s.po with again := true } ∧ t.tables = s.tables ∧ t.sd = s.sd ∧ t.tb = s.tb)

/-- A data-plane reset, from the register or with its key from the SMBus, takes the data plane to RESET with no epoch armed and every
unit of it as after reset; it keeps the tables, the POWER registers and, unless INCL_SUNDIAL is set, Sundial (R67, R400). With
INCL_SUNDIAL the timebase is 0 and Sundial FREERUN (R313). DP_INIT_COMPLETE then takes it to IDLE (R63). -/
def Obligations.DataResetStopsDataPlane : Prop :=
  ∀ (s : State) (data : Word) (pec : Option Bool),
    let P : State → Prop := fun t =>
      t.dp = dpRESET ∧ t.glob.armed = none ∧ t.glob.hCsi = none ∧ t.gh = {} ∧ t.px = {} ∧ t.acs = {} ∧ t.po = {} ∧ t.le = {} ∧ t.eye = {} ∧
      t.tr = {} ∧ t.pv.runs = [] ∧ t.tables = s.tables ∧ t.tableBad = s.tableBad ∧ t.el = s.el ∧ (∀ (g : Fld) k, RegMap.powerLo ≤ g.id → t.rd g k = s.rd g k) ∧
      (s.rd F.GLOBAL_RESET_CTL.INCL_SUNDIAL 0 ≠ 1 →
        t.sd = s.sd ∧ t.tb = s.tb ∧ ∀ (g : Fld) k, RegMap.sundialLo ≤ g.id → g.id < RegMap.sundialHi → t.rd g k = s.rd g k) ∧
      (s.rd F.GLOBAL_RESET_CTL.INCL_SUNDIAL 0 = 1 → t.tb = 0 ∧ t.sdState = sdFREERUN)
    (s.hostReaches → Completes (.dataReset data) s fun t => P t ∧ t.rd F.GLOBAL_RESET_CAUSE.DATA_REG 0 = 1) ∧
    (s.held = false → s.glob.mgmtBusy = false → (s.rd F.BELV_SMB_CFG.PEC_REQ 0 = 1 → pec = some true) →
      Completes (.smbDataReset 0xD5 pec) s fun t => P t ∧ t.rd F.GLOBAL_RESET_CAUSE.DATA_SMB 0 = 1) ∧
    (s.held = false → s.dp = dpRESET → Completes .dpInitComplete s fun t =>
      t.dp = dpIDLE ∧ t.out = [] ∧ s.SameRegs t [] [(F.GLOBAL_DP_STATE.STATE, 0)] ∧ s.SameUnits t)

/-- A domain is asked up: from OFF it ramps (R74), and in any other state only REQ follows; a Lens group that powers up has nothing
loaded (R221). Its supply settles: it is tested. -/
def Obligations.DomainPowersUp : Prop :=
  ∀ (s : State) (d : Fin 44),
    (s.hostReaches → Completes (.powerUpRequest d) s fun t =>
      t.rd F.POWER_DOM.REQ d = 1 ∧ domState t d = (if domState s d = pdOFF then pdRAMP else domState s d) ∧ t.out = [] ∧
      (domState s d = pdOFF → 18 ≤ d.val → d.val < 22 → bits (t.rd F.LENS_LOADED.LOADED 0) (8 * (d.val - 18)) 8 = 0) ∧
      s.SameRegs t [F.LENS_LOADED.LOADED] [(F.POWER_DOM.REQ, d.val), (F.POWER_DOM.STATE, d.val)] ∧ s.SameUnits t) ∧
    (s.held = false → domState s d = pdRAMP → Completes (.supplySettled d) s fun t =>
      domState t d = pdTEST ∧ t.out = [] ∧ s.SameRegs t [] [(F.POWER_DOM.STATE, d.val)] ∧ s.SameUnits t)

/-- A self-test ends: the domain is ON with the DOMAIN_ON event, or FAILED with SELFTEST_FAIL and the report to the Lodge (log entry 87), and
the Pavilions of a failed group are FAILED unless RETIRED (R74, R173). -/
def Obligations.DomainSelfTestEnds : Prop :=
  ∀ (s : State) (d : Fin 44), s.held = false → domState s d = pdTEST →
    (Completes (.domainSelftestDone d true) s fun t =>
      domState t d = pdON ∧ t.rd F.POWER_DOM.ST_PASS d = 1 ∧ s.Raised t 0 19 [d] ∧
      (∀ j, j ≠ d.val → domState t j = domState s j) ∧ t.hbm = s.hbm ∧ t.tables = s.tables ∧ t.tb = s.tb ∧ t.glob = s.glob) ∧
    (Completes (.domainSelftestDone d false) s fun t =>
      domState t d = pdFAILED ∧ t.rd F.POWER_DOM.ST_PASS d = 0 ∧ bit (t.rd F.POWER_ERR.BITS 0) Err.POWER.SELFTEST_FAIL = true ∧
      d.val ∈ t.lo.domFailed ∧
      (∀ i, d.val < 17 → i < 8 →
        t.rd F.PAV_STATUS.ROLE (8 * d.val + i) = if s.rd F.PAV_STATUS.ROLE (8 * d.val + i) = roRETIRED then roRETIRED else roFAILED) ∧
      (∀ j, j ≠ d.val → domState t j = domState s j) ∧ t.hbm = s.hbm ∧ t.tables = s.tables ∧ t.tb = s.tb ∧ t.glob = s.glob)

/-- A domain is asked down: refused with IN_USE_REFUSED while the configuration in force gives it work, else it drains, and a FAILED one is
OFF at once (R71). In any other state REQ alone follows (log entry 86). Once drained it is OFF, with the DOMAIN_DOWN event (R72). -/
def Obligations.DomainPowersDown : Prop :=
  ∀ (s : State) (d : Fin 44),
    (s.hostReaches → Completes (.powerDownRequest d) s fun t =>
      (domState s d = pdON → inUse s d = true →
        domState t d = pdON ∧ t.rd F.POWER_DOM.REQ d = 1 ∧ bit (t.rd F.POWER_ERR.BITS 0) Err.POWER.IN_USE_REFUSED = true) ∧
      (domState s d = pdON → inUse s d = false → domState t d = pdDRAIN ∧ t.rd F.POWER_DOM.REQ d = 0) ∧
      (domState s d = pdFAILED → domState t d = pdOFF ∧ t.rd F.POWER_DOM.REQ d = 0) ∧
      (domState s d ≠ pdON → domState s d ≠ pdFAILED → domState t d = domState s d ∧ t.rd F.POWER_DOM.REQ d = 0) ∧
      (∀ j, j ≠ d.val → domState t j = domState s j) ∧ t.hbm = s.hbm ∧ t.tb = s.tb ∧ t.glob = s.glob) ∧
    (s.held = false → domState s d = pdDRAIN → draining s d = false → Completes (.drainComplete d) s fun t =>
      domState t d = pdOFF ∧ s.Raised t 0 20 [d] ∧ (∀ j, j ≠ d.val → domState t j = domState s j) ∧ t.hbm = s.hbm ∧ t.tb = s.tb ∧
      t.glob = s.glob)

/-- The sensors are read: the registers hold the readings, each stack's refresh halves at 85 °C and is restored below 82 °C (R373), and
a die sensor at 105 °C latches the trip (R420), even while a cold reset is held. Supplies are measured (R407): a reading in range
changes its register alone among the registers; a second one in a row outside it sets LODGE_ERR.SUPPLY, and raises the FAULT event of the
excursion if it has not been raised. -/
def Obligations.SensorsReachTheirRegisters : Prop :=
  ∀ (s : State),
    (∀ die stack : List Int, s.held = false → (∀ x ∈ die, -128 ≤ x ∧ x < 128) → (∀ x ∈ stack, -128 ≤ x ∧ x < 128) →
      Completes (.temperatureSample die stack) s fun t =>
        (∀ i, i < 8 → signed 8 (t.rd F.BELV_DIE_TEMP.TEMP i) = die.getD i 0 ∧ signed 8 (t.rd F.GLH_STACK_TEMP.TEMP i) = stack.getD i 0 ∧
          (85 ≤ stack.getD i 0 → bit (t.rd F.GLH_STATUS.HOT 0) i = true) ∧ (stack.getD i 0 < 82 → bit (t.rd F.GLH_STATUS.HOT 0) i = false) ∧
          (82 ≤ stack.getD i 0 → stack.getD i 0 < 85 → bit (t.rd F.GLH_STATUS.HOT 0) i = bit (s.rd F.GLH_STATUS.HOT 0) i)) ∧
        t.out = [] ∧ s.SameRegs t [F.BELV_DIE_TEMP.TEMP, F.GLH_STACK_TEMP.TEMP, F.GLH_STATUS.HOT] [] ∧
        State.SameUnits { s with pins := t.pins, lo := t.lo, bv := t.bv } t) ∧
    (∀ die stack : List Int, s.held = true → Completes (.temperatureSample die stack) s fun t =>
      t = { s with out := [], pins := { t.pins with dieTemp := (List.range 8).map fun i => die.getD i 0 } } ∧
      t.pins.thermTrip = (s.pins.thermTrip && !(s.glob.coldHeld && (List.range 8).all fun i => decide (die.getD i 0 < 95)))) ∧
    (∀ (i : Fin 8) (x : Int), 105 ≤ x → Completes (.thermTrip i x) s fun t =>
      t.pins.thermTrip = true ∧ t.pins.dieTemp[i.val]? = some x ∧ s.SameRegs t [] [] ∧ State.SameUnits { s with pins := t.pins } t) ∧
    (∀ mv : List Nat, s.held = false → (∀ x ∈ mv, x < 2 ^ 16) →
      (∀ v, v < 8 → (supplyRange v).1 ≤ 2 * mv.getD v 0 ∧ 2 * mv.getD v 0 ≤ (supplyRange v).2) →
      Completes (.supplyMeasure mv) s fun t =>
        (∀ v, v < 8 → t.rd F.BELV_VMON.MV v = mv.getD v 0 ∧ (Tab.find t.lo.supplyOut v).isNone) ∧ t.out = [] ∧
        s.SameRegs t [F.BELV_VMON.MV] [] ∧ State.SameUnits { s with lo := t.lo } t) ∧
    (∀ (mv : List Nat) (v : Nat), s.held = false → v < 8 → mv.getD v 0 < 2 ^ 16 →
      (2 * mv.getD v 0 < (supplyRange v).1 ∨ (supplyRange v).2 < 2 * mv.getD v 0) → 1 ≤ Tab.getD s.lo.supplyOut v 0 →
      Completes (.supplyMeasure mv) s fun t =>
        bit (t.rd F.LODGE_ERR.BITS 0) Err.LODGE.SUPPLY = true ∧ t.rd F.BELV_VMON.MV v = mv.getD v 0 ∧ v ∈ t.lo.supplyRaised ∧
        (v ∉ s.lo.supplyRaised → s.Raised t v 29 [pair Err.LODGE.SUPPLY 0, v]) ∧
        t.out = [] ∧ s.SameRegs t [F.BELV_VMON.MV] [] ∧ State.SameUnits { s with lo := t.lo } t)

/-- A read of bytes of one word of BAR0 answers with the fields of its register, RC fields are cleared to their reset values, and nothing
else changes but Belvedere's views; an offset that names no register answers 0, counted in CL_REG_DECODE (R15, R18, R382). -/
def Obligations.RegisterReadAnswers : Prop :=
  ∀ (s : State) (at_ len off : Nat), s.hostReaches → at_ < 0x4000000 → 0 < len → at_ % 4 + len ≤ 4 → off = at_ / 4 * 4 →
    (isDecoded s off = true → msixOffset off = false → isHi off = false → isLo off = false →
      off ≠ F.SD_TIME_NS.NS.addr → off ≠ F.SD_CAPQ_NS.NS.addr → off ≠ F.FC_WIN_DATA.DATA.addr → copyAt F.ETH_TSQ_NS.NS off = none →
      Completes (.rcRead ⟨at_, len⟩) s fun t =>
        t.out = [.readData (viewReg s off)] ∧ (∀ e ∈ fieldsAt off, e.1.acc = .RC → t.rd e.1 e.2 = e.1.rst e.2 % 2 ^ e.1.width) ∧
        s.SameRegs t [] ((fieldsAt off).filter fun e => decide (e.1.acc = .RC)) ∧ s.SameUnits t) ∧
    (isDecoded s off = false → Completes (.rcRead ⟨at_, len⟩) s fun t =>
      t.out = [.readData 0] ∧ bit (t.rd F.CL_ERR.BITS 0) Err.CL.REG_DECODE = true ∧ t.rd F.CL_REG_ADDR.OFFSET 0 = off ∧
      t.rd F.CL_REG_DECODE.COUNT 0 = min (s.rd F.CL_REG_DECODE.COUNT 0 + 1) (2 ^ 32 - 1) ∧
      s.SameRegs t (F.CL_REG_ADDR.OFFSET :: F.CL_REG_DECODE.COUNT :: Err.CL.unit.flds ++ cntFlds) [] ∧ s.SameUnits t)

/-- A read of a _LO register answers with bits [31:0] and captures bits [63:32] (R16); a read of the _HI register then answers with what
was captured, and empties the holding register. One read of both words answers with both halves of one value, the words being read in
ascending order (R15). -/
def Obligations.WideReadIsCoherent : Prop :=
  ∀ (s : State) (off : Nat), s.hostReaches → off < 0x4000000 → off % 4 = 0 → isDecoded s off = true → msixOffset off = false →
    timeSecOffset off = false →
    (isHi off = false → isLo off = true → Completes (.loReadCapture off) s fun t =>
      t.out = [.readData (viewReg s off % 2 ^ 32)] ∧ Tab.find t.ko.holdRd off = some (viewReg s off / 2 ^ 32) ∧ s.SameRegs t [] [] ∧
      State.SameUnits { s with ko := { s.ko with holdRd := t.ko.holdRd } } t) ∧
    (isHi off = true → ∀ v, Tab.find s.ko.holdRd (off - 4) = some v → Completes (.rcRead ⟨off, 4⟩) s fun t =>
      t.out = [.readData v] ∧ Tab.find t.ko.holdRd (off - 4) = none ∧ s.SameRegs t [] [] ∧
      State.SameUnits { s with ko := { s.ko with holdRd := t.ko.holdRd } } t) ∧
    (isHi off = false → isLo off = true → isDecoded s (off + 4) = true → msixOffset (off + 4) = false → isHi (off + 4) = true →
      timeSecOffset (off + 4) = false → off + 4 < 0x4000000 → Completes (.rcRead ⟨off, 8⟩) s fun t =>
        t.out = [.readData (viewReg s off % 2 ^ 32), .readData (viewReg s off / 2 ^ 32)] ∧ Tab.find t.ko.holdRd off = none ∧
        s.SameRegs t [] [] ∧ State.SameUnits { s with ko := { s.ko with holdRd := t.ko.holdRd } } t)

/-- A write of a _LO register is held; a write of the _HI register with it writes the whole 64-bit quantity in one step (R16), here
SD_EV_SEC of a slot that is not armed, which takes any value. -/
def Obligations.WideWriteIsOneStep : Prop :=
  ∀ (s : State) (e : Fin 64) (lo hi : Word), s.hostReaches → evArmed s e = false →
    let off := F.SD_EV_SEC.SEC.addr + F.SD_EV_SEC.SEC.stride * e.val
    (Completes (.loWriteHold off lo) s fun t =>
      Tab.find t.ko.holdWr off = some lo.toNat ∧ t.out = [] ∧ s.SameRegs t [] [] ∧
      State.SameUnits { s with ko := { s.ko with holdWr := t.ko.holdWr } } t) ∧
    (Tab.find s.ko.holdWr off = some lo.toNat → Completes (.hiWriteCombine (off + 4) hi) s fun t =>
      t.rd F.SD_EV_SEC.SEC e = hi.toNat * 2 ^ 32 + lo.toNat ∧ Tab.find t.ko.holdWr off = none ∧ t.out = [] ∧
      s.SameRegs t [] [(F.SD_EV_SEC.SEC, e.val)] ∧ State.SameUnits { s with ko := { s.ko with holdWr := t.ko.holdWr } } t)

/-- A write with fewer than four byte enables, or of an offset that is not a multiple of 4, writes no register and sets
KIOSK_ERR.PARTIAL_WR (R15), whichever words hold the bytes that it enables; a poisoned write is ignored and reported through AER
(R340). -/
def Obligations.PartialWriteIsIgnored : Prop :=
  ∀ (s : State) (off : Nat) (data : Word) (be : Nat), s.hostReaches → off < 0x4000000 →
    (be % 16 ≠ 15 → off % 4 = 0 → isDecoded s off = true → Completes (.registerWrite off data be false) s fun t =>
      bit (t.rd F.KIOSK_ERR.BITS 0) Err.KIOSK.PARTIAL_WR = true ∧ t.out = [] ∧ s.SameRegs t Err.KIOSK.unit.flds [] ∧ s.SameUnits t) ∧
    (off % 4 ≠ 0 → wordsEnabled off be ≠ [] → (∀ w ∈ wordsEnabled off be, isDecoded s w = true) →
      Completes (.registerWrite off data be false) s fun t =>
        bit (t.rd F.KIOSK_ERR.BITS 0) Err.KIOSK.PARTIAL_WR = true ∧ t.out = [] ∧ s.SameRegs t Err.KIOSK.unit.flds [] ∧ s.SameUnits t) ∧
    (Completes (.registerWrite off data be true) s fun t =>
      bit t.ko.aer aerPOISONED = true ∧ t.out = [] ∧ s.SameRegs t [] [] ∧
      State.SameUnits { s with ko := { s.ko with aer := t.ko.aer } } t)

/-- The field classes at work on GLOBAL_RESET_CTL, PR_CFG and GLOBAL_DP_CFG (R19, R21): a live field takes effect at once; an E field is
written in its shadow copy and its active copy stays; an S field of a running data plane keeps its value with CFG_IGNORED; and so does
any register written with a reserved encoding. A write of a sticky error register clears the bits written 1 and no other, and when it
becomes zero its first error and time are released (R24), here POWER_ERR. -/
def Obligations.FieldClassesRuleWrites : Prop :=
  ∀ (s : State) (data : Word), s.hostReaches →
    (Completes (.registerWrite F.GLOBAL_RESET_CTL.DATA_KEEP.addr data 15 false) s fun t =>
      t.rd F.GLOBAL_RESET_CTL.DATA_KEEP 0 = bits data.toNat F.GLOBAL_RESET_CTL.DATA_KEEP.lo 1 ∧
      t.rd F.GLOBAL_RESET_CTL.INCL_SUNDIAL 0 = bits data.toNat F.GLOBAL_RESET_CTL.INCL_SUNDIAL.lo 1 ∧ t.out = [] ∧
      s.SameRegs t [F.GLOBAL_RESET_CTL.DATA_KEEP, F.GLOBAL_RESET_CTL.INCL_SUNDIAL] [] ∧ s.SameUnits t) ∧
    (domState s 17 ≠ pdOFF → writeReserved s F.PR_CFG.M.addr data.toNat = false →
      Completes (.registerWrite F.PR_CFG.M.addr data 15 false) s fun t =>
        t.rd F.PR_CFG.M 0 = bits data.toNat F.PR_CFG.M.lo F.PR_CFG.M.width ∧ t.ac F.PR_CFG.M 0 = s.ac F.PR_CFG.M 0 ∧ t.act = s.act) ∧
    (s.dpStopped = false → bits data.toNat F.GLOBAL_DP_CFG.MODE4.lo 1 ≠ s.rd F.GLOBAL_DP_CFG.MODE4 0 →
      Completes (.registerWrite F.GLOBAL_DP_CFG.MODE4.addr data 15 false) s fun t =>
        t.rd F.GLOBAL_DP_CFG.MODE4 0 = s.rd F.GLOBAL_DP_CFG.MODE4 0 ∧ bit (t.rd F.GLOBAL_ERR.BITS 0) Err.GLOBAL.CFG_IGNORED = true) ∧
    (∀ off, off < 0x4000000 → off % 4 = 0 → isDecoded s off = true → msixOffset off = false → isHi off = false → isLo off = false →
      writeReserved s off data.toNat = true → Completes (.registerWrite off data 15 false) s fun t =>
        bit (t.rd (regUnit off).bits (regUnit off).k) 0 = true ∧ t.out = [] ∧ s.SameRegs t (regUnit off).flds [] ∧ s.SameUnits t) ∧
    (Completes (.errW1cClear F.POWER_ERR.BITS.addr data) s fun t =>
      t.rd F.POWER_ERR.BITS 0 = (s.rd F.POWER_ERR.BITS 0 - (s.rd F.POWER_ERR.BITS 0 &&& bits data.toNat 0 3)) % 8 ∧
      (t.rd F.POWER_ERR.BITS 0 = 0 → t.rd F.POWER_ERR_FIRST.WORD 0 = 0 ∧ t.rd F.POWER_ERR_FIRST_TS.TS 0 = 0) ∧
      (t.rd F.POWER_ERR.BITS 0 ≠ 0 → t.rd F.POWER_ERR_FIRST.WORD 0 = s.rd F.POWER_ERR_FIRST.WORD 0) ∧
      t.out = [] ∧ s.SameRegs t Err.POWER.unit.flds [] ∧ s.SameUnits t)

/-- The latching reads: SD_TIME_NS with SEC and FRAC of one instant (R301); SD_CAPQ_NS, which takes the oldest capture (R310) or answers
0 from an empty queue. -/
def Obligations.SundialReadsLatch : Prop :=
  ∀ s : State, s.hostReaches →
    (Completes .sdTimeNsRead s fun t =>
      t.out = [.readData (s.tb / 65536 % 1000000000)] ∧ t.rd F.SD_TIME_SEC.SEC 0 = s.tb / 65536000000000 % 2 ^ 64 ∧
      t.rd F.SD_TIME_FRAC.FRAC 0 = s.tb % 65536 ∧ s.SameRegs t [] [(F.SD_TIME_SEC.SEC, 0), (F.SD_TIME_FRAC.FRAC, 0)] ∧ s.SameUnits t) ∧
    (s.sd.capq = [] → Completes .sdCapqNsRead s fun t => t.out = [.readData 0] ∧ s.SameRegs t [] [] ∧ s.SameUnits t) ∧
    (∀ c q, s.sd.capq = c :: q → c.pin < 4 → Completes .sdCapqNsRead s fun t =>
      t.out = [.readData (2 ^ 31 + c.tb / 65536 % 1000000000)] ∧ t.sd = { s.sd with capq := q } ∧
      t.rd F.SD_CAPQ_INFO.PIN 0 = c.pin ∧ t.rd F.SD_CAPQ_INFO.HOLDOVER 0 = b2n c.holdover ∧ t.rd F.SD_CAPQ_INFO.EDGE 0 = b2n (!c.rising) ∧
      t.rd F.SD_CAPQ_INFO.FRAC 0 = c.tb % 65536 ∧ t.rd F.SD_CAPQ_SEC.SEC 0 = c.tb / 65536000000000 % 2 ^ 64 ∧
      s.SameRegs t [F.SD_CAPQ_INFO.HOLDOVER, F.SD_CAPQ_INFO.EDGE, F.SD_CAPQ_INFO.PIN, F.SD_CAPQ_INFO.FRAC, F.SD_CAPQ_SEC.SEC] [] ∧
      State.SameUnits { s with sd := t.sd } t)

/-- The other latching reads: ETH_TSQ_NS of a port takes its oldest transmit stamp (R333); FC_WIN_DATA and GLH_TRAIN_DATA step through
the calibration fuses and the training words (R368). -/
def Obligations.WindowsStepThrough : Prop :=
  ∀ (s : State) (p : Fin 4), s.hostReaches →
    (domState s (24 + p.val) ≠ pdOFF → (getPort s p).tsq = [] → Completes (.ethTsqNsRead p) s fun t =>
      t.out = [.readData 0] ∧ s.SameRegs t [] [] ∧ s.SameUnits t) ∧
    (domState s (24 + p.val) ≠ pdOFF → ∀ e q, (getPort s p).tsq = e :: q → Completes (.ethTsqNsRead p) s fun t =>
      t.out = [.readData (2 ^ 31 + e.stamp / 65536 % 1000000000)] ∧ getPort t p = { getPort s p with tsq := q } ∧
      t.rd F.ETH_TSQ_INFO.SEQ_ID p = e.seqId % 2 ^ F.ETH_TSQ_INFO.SEQ_ID.width ∧ t.rd F.ETH_TSQ_INFO.HOLDOVER p = b2n e.holdover ∧
      t.rd F.ETH_TSQ_FRAC.FRAC p = e.stamp % 65536 ∧
      s.SameRegs t [] [(F.ETH_TSQ_INFO.HOLDOVER, p.val), (F.ETH_TSQ_INFO.MSG_TYPE, p.val), (F.ETH_TSQ_INFO.DOMAIN, p.val),
        (F.ETH_TSQ_INFO.SEQ_ID, p.val), (F.ETH_TSQ_FRAC.FRAC, p.val), (F.ETH_TSQ_SEC.SEC, p.val)] ∧
      State.SameUnits { s with eth := t.eth } t) ∧
    (Completes .fcWinDataRead s fun t =>
      t.out = [.readData (fuseAt (s.rd F.FC_WIN_ADDR.ADDR 0))] ∧
      t.rd F.FC_WIN_ADDR.ADDR 0 = (s.rd F.FC_WIN_ADDR.ADDR 0 + 1) % 2 ^ F.FC_WIN_ADDR.ADDR.width ∧
      s.SameRegs t [] [(F.FC_WIN_ADDR.ADDR, 0)] ∧ s.SameUnits t) ∧
    (∀ data : Word, s.dpStopped = true → s.rd F.GLH_CTL.EN 0 = 0 → Completes (.glhTrainDataWrite data) s fun t =>
      Tab.find t.gl.taps (s.rd F.GLH_TRAIN_ADDR.ADDR 0) = some (data.toNat % 65536) ∧
      t.rd F.GLH_TRAIN_ADDR.ADDR 0 = (s.rd F.GLH_TRAIN_ADDR.ADDR 0 + 1) % 2 ^ F.GLH_TRAIN_ADDR.ADDR.width ∧ t.out = [] ∧
      s.SameRegs t [] [(F.GLH_TRAIN_ADDR.ADDR, 0)] ∧ State.SameUnits { s with gl := t.gl } t)

/-- BAR2 answers with a counter and its SATURATED bit in one coherent value when its group is enabled, and 0 otherwise; a 4-byte read of
the low word latches the upper half for the next read (R390, R391). In D3hot every request is unsupported (R340). -/
def Obligations.Bar2ReadsCounters : Prop :=
  ∀ (s : State) (n : Fin 1024),
    let off := 0x100000 * (n.val / 64) + 8 * (n.val % 64)
    let v := s.rd F.BELV_CNT.VALUE n + 2 ^ 63 * s.rd F.BELV_CNT.SATURATED n
    (s.hostReaches → bit (s.rd F.BELV_USER_EN.GROUPS 0) (n.val / 64) = true →
      (Completes (.bar2CounterRead off true) s fun t => t.out = [.readData v] ∧ s.SameRegs t [] [] ∧ s.SameUnits t) ∧
      (Completes (.bar2CounterRead off false) s fun t =>
        t.out = [.readData (v % 2 ^ 32)] ∧ Tab.find t.ko.bar2 n.val = some (v / 2 ^ 32) ∧ s.SameRegs t [] [] ∧
        State.SameUnits { s with ko := { s.ko with bar2 := t.ko.bar2 } } t)) ∧
    (s.hostReaches → bit (s.rd F.BELV_USER_EN.GROUPS 0) (n.val / 64) = false →
      Completes (.bar2CounterRead off true) s fun t => t.out = [.readData 0] ∧ s.SameRegs t [] [] ∧ s.SameUnits t) ∧
    (s.held = false → linkReach s = true → s.rd F.KIOSK_STATUS.D3 0 = 1 →
      Completes (.bar2CounterRead off true) s fun t => t.out = [.unsupportedRequest] ∧ s.SameRegs t [] [] ∧ s.SameUnits t)

/-- A poll reads the index page, at the POLL interval or at once after a WAKE, and takes HOST_IDX of every ring that runs or stops; a ring
whose indices it finds inconsistent halts with KIOSK_ERR.IDX_ERR (R342, R344). A command that waits for room in the completion ring may
complete then (R344), which moves rings 0 and 1 on. WAKE asks for that poll. -/
def Obligations.PollTakesIndices : Prop :=
  ∀ (s : State) (idx : List Nat) (data : Word),
    (s.held = false → pcieReady s = true → anyRing s = true → Completes (.indexPoll idx) s fun t =>
      [.hostRead (s.rd F.KIOSK_IDX_BASE.ADDR 0 * 4096) 192] <+: t.out ∧ t.ko.pollNow = false ∧ t.ko.pollAt = t.el ∧
      s.Later t (if s.ko.pollNow then 0 else s.ko.pollAt + s.rd F.KIOSK_CFG.POLL 0 * 250 * nsUnits - s.el) ∧
      (∀ r, r < 12 → (2 ≤ r ∨ s.noCommands) →
        let h := idx.getD r 0 % 2 ^ 32
        let x := getRing s r
        let d := if r = 1 ∨ r = 2 then idxDiff x.devIdx h else idxDiff h x.devIdx
        ((ringState s r = rgRUN ∨ ringState s r = rgSTOPPING) → d ≤ ringSize s r →
          getRing t r = { x with hostIdx := h } ∧ ringState t r = ringState s r) ∧
        ((ringState s r = rgRUN ∨ ringState s r = rgSTOPPING) → ringSize s r < d →
          getRing t r = x ∧ ringState t r = rgHALTED ∧ bit (t.rd F.KIOSK_ERR.BITS 0) Err.KIOSK.IDX_ERR = true) ∧
        ((ringState s r = rgOFF ∨ ringState s r = rgHALTED) → getRing t r = x ∧ ringState t r = ringState s r)) ∧
      State.SameUnits { s with tb := t.tb, el := t.el, ko := t.ko } t ∧
      (s.noCommands →
        t.out = [.hostRead (s.rd F.KIOSK_IDX_BASE.ADDR 0 * 4096) 192] ∧
        s.SameRegs t (Err.KIOSK.unit.flds ++ cntFlds) ((List.range 12).map fun r => (F.KIOSK_RING_STATUS.STATE, r)) ∧
        State.SameUnits { s with tb := t.tb, el := t.el, ko := { s.ko with rings := t.ko.rings, pollNow := false, pollAt := t.ko.pollAt } } t)) ∧
    (s.hostReaches → Completes (.wake data) s fun t =>
      t.ko.pollNow = true ∧ t.out = [] ∧ s.SameRegs t [] [] ∧ State.SameUnits { s with ko := { s.ko with pollNow := true } } t)

/-- A ring that is enabled runs from index 0, which the index page shows (R345), and keeps its moderation interval (R346); one that is
disabled is OFF at its descriptor boundary, and STOPPING until then. A write that enables a ring still STOPPING waits for the boundary with
its fields (R345). The dump ring enabled after a reset of the control plane starts the host streams again (R203). -/
def Obligations.RingsStartAndStop : Prop :=
  ∀ (s : State) (r : Fin 12) (data : Word), s.hostReaches →
    let off := F.KIOSK_RING_CFG.EN.addr + F.KIOSK_RING_CFG.EN.stride * r.val
    let page : Posted := { addr := s.rd F.KIOSK_IDX_BASE.ADDR 0 * 4096 + 16 * r.val + 8, bytes := [0, 0, 0, 0], dev := some (r.val, 0) }
    (ringState s r = rgOFF → writeReserved s off (setBit data.toNat 31) = false → Completes (.ringEnable r data) s fun t =>
      ringState t r = rgRUN ∧ t.rd F.KIOSK_RING_STATUS.DEV_IDX r = 0 ∧
      (r.val ≠ 0 → r.val ≠ 1 →
        getRing t r = { modRun := (getRing s r).modRun, modAt := (getRing s r).modAt, modPend := (getRing s r).modPend }) ∧
      t.rd F.KIOSK_RING_CFG.EN r = 1 ∧ t.rd F.KIOSK_RING_CFG.LOG2_SIZE r = bits data.toNat 16 4 ∧
      t.rd F.KIOSK_RING_CFG.VECTOR r = bits data.toNat 0 6 ∧ t.rd F.KIOSK_RING_CFG.MOD r = bits data.toNat 8 8 ∧
      t.ko.evSeq = (if r.val = 2 then 0 else s.ko.evSeq) ∧
      (r.val = 3 → s.po.again = true → t.po.again = false ∧
        ∀ i x, Tab.find s.po.streams i = some x → s.tag F.PO_STREAM_CTL.ROUTE i = 0 →
          getStream t i = { header := x.header, size := x.size } ∧ t.rd F.PO_STREAM_STATUS.BUSY i = 1) ∧
      ((r.val = 1 → s.noCommands) → (r.val = 3 → s.po.again = false) →
        (∀ j, j ≠ r.val → getRing t j = getRing s j) ∧
        (if pcieReady s then t.out = [.hostWrite page.addr page.bytes] ∧ t.ko.posted = s.ko.posted
         else t.out = [] ∧ t.ko.posted = s.ko.posted ++ [page]) ∧
        s.SameRegs t [] [(F.KIOSK_RING_CFG.EN, r.val), (F.KIOSK_RING_CFG.LOG2_SIZE, r.val), (F.KIOSK_RING_CFG.VECTOR, r.val),
          (F.KIOSK_RING_CFG.MOD, r.val), (F.KIOSK_RING_STATUS.STATE, r.val), (F.KIOSK_RING_STATUS.DEV_IDX, r.val)] ∧
        State.SameUnits { s with ko := { s.ko with rings := t.ko.rings, evSeq := t.ko.evSeq, posted := t.ko.posted } } t)) ∧
    (ringState s r = rgSTOPPING → s.rd F.KIOSK_RING_CFG.EN r = 0 → writeReserved s off (setBit data.toNat 31) = false →
      Completes (.ringEnable r data) s fun t =>
        t.rd F.KIOSK_RING_CFG.EN r = 1 ∧ t.rd F.KIOSK_RING_CFG.MOD r = bits data.toNat 8 8 ∧ ringState t r = rgSTOPPING ∧
        getRing t r = { getRing s r with anew := some (setBit data.toNat 31) } ∧ (∀ j, j ≠ r.val → getRing t j = getRing s j) ∧ t.out = [] ∧
        s.SameRegs t [] [(F.KIOSK_RING_CFG.EN, r.val), (F.KIOSK_RING_CFG.MOD, r.val)] ∧
        State.SameUnits { s with ko := { s.ko with rings := t.ko.rings } } t) ∧
    (writeReserved s off (clrBit data.toNat 31) = false → Completes (.ringDisable r data) s fun t =>
      t.rd F.KIOSK_RING_CFG.EN r = 0 ∧ t.rd F.KIOSK_RING_CFG.MOD r = bits data.toNat 8 8 ∧
      ringState t r = (if ringState s r = rgOFF then rgOFF else if ringBusy s r then rgSTOPPING else rgOFF) ∧
      (r.val < 8 → t.out = [] ∧ getRing t r = (if ringState s r = rgOFF then getRing s r else { getRing s r with anew := none })) ∧
      (∀ j, j ≠ r.val → getRing t j = getRing s j) ∧
      s.SameRegs t (Err.KIOSK.unit.flds ++ cntFlds) [(F.KIOSK_RING_CFG.EN, r.val), (F.KIOSK_RING_CFG.LOG2_SIZE, r.val),
        (F.KIOSK_RING_CFG.VECTOR, r.val), (F.KIOSK_RING_CFG.MOD, r.val), (F.KIOSK_RING_STATUS.STATE, r.val),
        (F.KIOSK_RING_STATUS.DEV_IDX, r.val), (F.KIOSK_RING_ENTRIES.COUNT, r.val)] ∧
      State.SameUnits { s with ko := { s.ko with rings := t.ko.rings, msixPba := t.ko.msixPba, posted := t.ko.posted } } t)

/-- The oldest event goes to the event ring, and its index and EVSEQ advance (R28, R353); lost events are reported first. A moderation
interval that ends sends one message for the advances made within it, and opens the next interval (R346, log entry 105 for the masks). -/
def Obligations.EventsAndInterruptsLeave : Prop :=
  ∀ (s : State) (r : Fin 12), s.held = false →
    (∀ e q, s.ko.evq = e :: q → s.ko.evLost = 0 → eventReady s = true → Completes .eventRecordWrite s fun t =>
      [.hostWrite (entryAddr s 2 (getRing s 2).devIdx) (eventBytes e s.ko.evSeq),
       .hostWrite (s.rd F.KIOSK_IDX_BASE.ADDR 0 * 4096 + 40) (leBytes 4 (((getRing s 2).devIdx + 1) % 2 ^ 32))] <+: t.out ∧
      q <+: t.ko.evq ∧ t.ko.evSeq = (s.ko.evSeq + 1) % 2 ^ 32 ∧ (getRing t 2).devIdx = ((getRing s 2).devIdx + 1) % 2 ^ 32 ∧
      t.rd F.KIOSK_RING_STATUS.DEV_IDX 2 = ((getRing s 2).devIdx + 1) % 2 ^ 32 ∧
      s.SameRegs t moveFlds [(F.DMA_CH_BYTES.BYTES, 2), (F.KIOSK_RING_STATUS.DEV_IDX, 2), (F.KIOSK_RING_ENTRIES.COUNT, 2)] ∧
      State.SameUnits { s with ko := t.ko } t) ∧
    (s.ko.evLost ≠ 0 → eventReady s = true → Completes .eventRecordWrite s fun t =>
      [.hostWrite (entryAddr s 2 (getRing s 2).devIdx) (eventBytes { kind := 5, tb := s.tb, body := [(16, 8, s.ko.evLost)] } s.ko.evSeq)] <+: t.out) ∧
    (∀ v, (getRing s r).modRun = true → (getRing s r).modPend = true → ringVector s r = some v → msixHeld s v = false →
      Completes (.msixModerationExpire r) s fun t =>
        t.out = [.msix v (msixWord s (4 * v) + msixWord s (4 * v + 1) * 2 ^ 32) (msixWord s (4 * v + 2))] ∧
        s.Later t ((getRing s r).modAt + s.rd F.KIOSK_RING_CFG.MOD r * 1000 * nsUnits - s.el) ∧
        getRing t r = { getRing s r with modPend := false, modAt := t.el } ∧ s.SameRegs t cntFlds [] ∧
        State.SameUnits { s with tb := t.tb, el := t.el, ko := { s.ko with rings := t.ko.rings } } t) ∧
    ((getRing s r).modRun = true → (getRing s r).modPend = false → Completes (.msixModerationExpire r) s fun t =>
        t.out = [] ∧ s.Later t ((getRing s r).modAt + s.rd F.KIOSK_RING_CFG.MOD r * 1000 * nsUnits - s.el) ∧
        getRing t r = { getRing s r with modRun := false } ∧ s.SameRegs t cntFlds [] ∧
        State.SameUnits { s with tb := t.tb, el := t.el, ko := { s.ko with rings := t.ko.rings } } t)

/-- The link goes down: its rate and width read 0 and the channels wait, while every other unit goes on (R340); after 1 ms the Lodge
reports it (R286). It comes back without a reset, and what waited leaves first, in its order (R340, R343). The power state is a bit of the link
(R340). -/
def Obligations.LinkComesAndGoes : Prop :=
  ∀ (s : State) (speed width : Nat), s.held = false →
    (s.rd F.KIOSK_STATUS.LINK_UP 0 = 1 → Completes .pcieLinkDown s fun t =>
      t.rd F.KIOSK_STATUS.LINK_UP 0 = 0 ∧ t.rd F.KIOSK_STATUS.SPEED 0 = 0 ∧ t.rd F.KIOSK_STATUS.WIDTH 0 = 0 ∧
      bit (t.rd F.KIOSK_ERR.BITS 0) Err.KIOSK.LINK_DOWN = true ∧ t.out = [] ∧
      s.SameRegs t ([F.KIOSK_STATUS.LINK_UP, F.KIOSK_STATUS.SPEED, F.KIOSK_STATUS.WIDTH] ++ Err.KIOSK.unit.flds) [] ∧
      State.SameUnits { s with ko := { s.ko with linkDownAt := some s.el, linkFault := false } } t) ∧
    (s.rd F.KIOSK_STATUS.LINK_UP 0 = 0 → s.glob.perstHeld = false → linkOk speed width = true → Completes (.pcieLinkUp speed width) s fun t =>
      t.rd F.KIOSK_STATUS.LINK_UP 0 = 1 ∧ t.rd F.KIOSK_STATUS.SPEED 0 = speed ∧ t.rd F.KIOSK_STATUS.WIDTH 0 = width ∧
      (s.rd F.KIOSK_STATUS.D3 0 = 0 → s.rd F.KIOSK_STATUS.BME 0 = 1 →
        (s.ko.posted.map fun p => Output.hostWrite p.addr p.bytes) <+: t.out ∧ t.ko.posted = []) ∧
      s.SameOutside t RegMap.kioskLo RegMap.dmaHi [] ∧ State.SameUnits { s with ko := t.ko } t ∧
      (s.hostQuiet → s.SameRegs t [F.KIOSK_STATUS.LINK_UP, F.KIOSK_STATUS.SPEED, F.KIOSK_STATUS.WIDTH] [] ∧
        State.SameUnits { s with ko := { s.ko with linkDownAt := none, linkFault := false, msixPba := t.ko.msixPba } } t)) ∧
    (∀ a, s.ko.linkDownAt = some a → s.ko.linkFault = false → Completes .pcieLinkFault s fun t =>
      bit (t.rd F.LODGE_ERR.BITS 0) Err.LODGE.PCIE_LINK = true ∧ bit (t.rd F.BELV_ALERT_STATUS.STATUS 0) 5 = true ∧
      s.Raised t 0 29 [pair Err.LODGE.PCIE_LINK 0] ∧ s.Later t (a + 1000000 * nsUnits + 1 - s.el) ∧ t.out = [] ∧ s.SameRegs t cntFlds [] ∧
      State.SameUnits { s with tb := t.tb, el := t.el, ko := { s.ko with linkFault := true } } t) ∧
    (s.rd F.KIOSK_STATUS.LINK_UP 0 = 1 → s.rd F.KIOSK_STATUS.D3 0 = 0 → Completes .d3hotEnter s fun t =>
      t.rd F.KIOSK_STATUS.D3 0 = 1 ∧ t.out = [] ∧ s.SameRegs t [F.KIOSK_STATUS.D3] [] ∧ s.SameUnits t) ∧
    (s.rd F.KIOSK_STATUS.LINK_UP 0 = 1 → s.rd F.KIOSK_STATUS.D3 0 = 1 → Completes .d0Return s fun t =>
      t.rd F.KIOSK_STATUS.D3 0 = 0 ∧
      (s.rd F.KIOSK_STATUS.BME 0 = 1 → s.glob.perstHeld = false →
        (s.ko.posted.map fun p => Output.hostWrite p.addr p.bytes) <+: t.out ∧ t.ko.posted = []) ∧
      s.SameOutside t RegMap.kioskLo RegMap.dmaHi [] ∧ State.SameUnits { s with ko := t.ko } t ∧
      (s.hostQuiet → s.SameRegs t [F.KIOSK_STATUS.D3] [] ∧ State.SameUnits { s with ko := { s.ko with msixPba := t.ko.msixPba } } t))

/-- NOP is answered OK; DUMP_NOW is taken while the data plane is RUNNING and answered NOT_RUNNING otherwise (R192); either is answered
BAD_DESCRIPTOR when its descriptor is malformed (R347). The Kiosk reads a command only when its rings and channels allow, and these two
once every earlier command has completed (R351, log entry 31). -/
def Obligations.NopAndDumpAreAnswered : Prop :=
  ∀ (s : State) (desc : List Byte), s.held = false → cmdReady s = true →
    let d := descOf desc
    (s.ko.cmds = [] → takesOp 0 d = true → Completes (.nop desc) s fun t =>
      s.Answered t d (if plainDescOk 0 d then stOK else stBAD_DESCRIPTOR) 0 0 ∧ s.SameRegs t moveFlds answerCopies ∧
      State.SameUnits { s with ko := t.ko } t) ∧
    (s.ko.cmds = [] → takesOp 6 d = true → Completes (.dumpNow desc) s fun t =>
      s.Answered t d (if plainDescOk 6 d then (if s.dp = dpRUNNING then stOK else stNOT_RUNNING) else stBAD_DESCRIPTOR) 0 0 ∧
      (plainDescOk 6 d = true → s.dp = dpRUNNING → t.rd F.ACC_STATUS.DUMP_PENDING 0 = 1) ∧
      (s.dp ≠ dpRUNNING → t.rd F.ACC_STATUS.DUMP_PENDING 0 = s.rd F.ACC_STATUS.DUMP_PENDING 0) ∧
      s.SameRegs t moveFlds ((F.ACC_STATUS.DUMP_PENDING, 0) :: answerCopies) ∧ State.SameUnits { s with ko := t.ko } t) ∧
    (s.ko.cmds ≠ [] → exec (.nop desc) s = .next s ∧ exec (.dumpNow desc) s = .next s)

/-- The LOAD and READ commands as they start. LOAD_TABLE and READ_TABLE: the checks of R349 in their order, each with its status. LOAD_REGION
and READ_REGION: a descriptor that reaches outside its region, or whose region is not valid, is BAD_DESCRIPTOR, a load into what is in use
is BUSY (R350, R198, R220), and one that moves no byte is OK at once. Any other starts on the lowest free channel from 15 to 31 as its
job, whose beats follow (R351, log entries 39 and 40); the beats answered with it are taken in order, each that is due as
DMA_BEAT_RESPONSE takes it; a load that would write what an earlier command in flight uses waits. -/
def Obligations.TransferCommandsStart : Prop :=
  ∀ (s : State) (desc : List Byte) (answers : List BeatAnswer) (ch : Nat), s.held = false → cmdReady s = true → freeChannel s = some ch →
    let d := descOf desc
    let c := tableCmd d
    let loadT := if tableDescOk 1 d = false then stBAD_DESCRIPTOR else if tableEntries c.id < c.first + c.count then stBAD_TABLE
      else if bankBusy s c.id c.bank then stBUSY else if tableOff s c.id then stDOMAIN_OFF else stOK
    let readT := if tableDescOk 2 d = false then stBAD_DESCRIPTOR else if tableEntries c.id < c.first + c.count then stBAD_TABLE
      else if tableOff s c.id then stDOMAIN_OFF else stOK
    let loadR := if regionDescOk s 3 d = false then stBAD_DESCRIPTOR
      else if regionBusy s (regionIdx d) (regionOff d) (descLen d) then stBUSY else stOK
    let readR := if regionDescOk s 4 d = false then stBAD_DESCRIPTOR else stOK
    let begins : Instr → Nat → Prop := fun i st =>
      (s.ko.cmds = [] → (st ≠ stOK ∨ descLen d = 0) → Completes i s fun t =>
        s.Answered t d st 0 0 ∧ s.SameRegs t moveFlds answerCopies ∧ State.SameUnits { s with ko := t.ko } t) ∧
      (st = stOK → 0 < descLen d → Completes i s fun t =>
        (answers = [] → s.Started t ch d) ∧ ∃ u, s.Started u ch d ∧ t = perform (fun _ => beatsAnswered ch answers u) s)
    (waitsFor s d = false →
      (takesOp 1 d = true → begins (.loadTable desc answers) loadT) ∧ (takesOp 2 d = true → begins (.readTable desc answers) readT) ∧
      (takesOp 3 d = true → begins (.loadRegion desc answers) loadR) ∧ (takesOp 4 d = true → begins (.readRegion desc answers) readR)) ∧
    (waitsFor s d = true → exec (.loadTable desc answers) s = .next s ∧ exec (.loadRegion desc answers) s = .next s)

/-- COMMIT_EPOCH: START, STOP and a plain epoch are answered with the status of R352 and, when it is OK, the epoch is armed at the target
with the shadow copies captured; a START takes the data plane from IDLE to ARMED (R55, R59, R63). -/
def Obligations.EpochsAreArmed : Prop :=
  ∀ (s : State) (desc : List Byte), s.held = false → cmdReady s = true → s.ko.cmds = [] →
    let d := descOf desc
    let u : State := { s with out := [] }
    let P : State → Prop := fun t =>
      s.Answered t d (commitStatus u d).1 0 (if (commitStatus u d).1 = stOK then (commitStatus u d).2 else 0) ∧
      ((commitStatus u d).1 = stOK →
        t.glob.armed = some { target := (commitStatus u d).2, start := efStart d, stop := efStop d, capt := captured s } ∧
        t.dp = (if efStart d then dpARMED else dpRUNNING)) ∧
      ((commitStatus u d).1 ≠ stOK → t.glob = s.glob ∧ t.dp = s.dp ∧ s.SameRegs t (Err.GLOBAL.unit.flds ++ moveFlds) answerCopies ∧
        State.SameUnits { s with ko := t.ko } t) ∧
      t.hbm = s.hbm ∧ t.tables = s.tables ∧ t.act = s.act ∧ t.tb = s.tb ∧ t.sd = s.sd ∧ t.eth = s.eth
    takesOp 5 d = true →
      (epochKind d = 0 → Completes (.commitEpoch desc) s P) ∧ (epochKind d = 1 → Completes (.commitEpochStart desc) s P) ∧
      (epochKind d = 2 → Completes (.commitEpochStop desc) s P)

/-- The first checks of a COMMIT_EPOCH (R352, steps 1 and 2): a malformed one is BAD_DESCRIPTOR; a START outside IDLE or with an epoch
armed is BUSY; another outside RUNNING is NOT_RUNNING. CANCEL disarms the armed epoch with the EPOCH_CANCELED event unless its target is
no longer beyond the horizon, and answers with its target (R62). -/
def Obligations.EpochChecksAndCancel : Prop :=
  ∀ (s : State) (desc : List Byte), s.held = false → cmdReady s = true → s.ko.cmds = [] →
    let d := descOf desc
    let stays : State → Prop := fun t =>
      t.glob = s.glob ∧ s.SameRegs t (Err.GLOBAL.unit.flds ++ moveFlds) answerCopies ∧ State.SameUnits { s with ko := t.ko } t
    takesOp 5 d = true →
      (epochKind d = 1 → epochDescOk d = false → Completes (.commitEpochStart desc) s fun t => s.Answered t d stBAD_DESCRIPTOR 0 0 ∧ stays t) ∧
      (epochKind d = 1 → epochDescOk d = true → (s.dp ≠ dpIDLE ∨ s.glob.armed.isSome = true) → Completes (.commitEpochStart desc) s fun t =>
        s.Answered t d stBUSY 0 0 ∧ stays t) ∧
      (epochKind d = 2 → epochDescOk d = true → s.dp ≠ dpRUNNING → Completes (.commitEpochStop desc) s fun t =>
        s.Answered t d stNOT_RUNNING 0 0 ∧ stays t) ∧
      (epochKind d = 3 → epochDescOk d = true → s.glob.armed = none → Completes (.commitEpochCancel desc) s fun t =>
        s.Answered t d stNOT_RUNNING 0 0 ∧ stays t) ∧
      (∀ a, epochKind d = 3 → epochDescOk d = true → s.glob.armed = some a → targetLate s (if a.start then actM a.capt else s.M) a.target = true →
        Completes (.commitEpochCancel desc) s fun t => s.Answered t d stEPOCH_LATE 0 0 ∧ stays t) ∧
      (∀ a, epochKind d = 3 → epochDescOk d = true → s.glob.armed = some a → targetLate s (if a.start then actM a.capt else s.M) a.target = false →
        Completes (.commitEpochCancel desc) s fun t =>
          s.Answered t d stOK 0 a.target ∧ t.glob.armed = none ∧ t.dp = (if a.start then dpIDLE else s.dp) ∧ s.Raised t 0 2 [] ∧
          t.hbm = s.hbm ∧ t.tables = s.tables ∧ t.act = s.act ∧ t.tb = s.tb ∧ t.sd = s.sd ∧
          s.SameRegs t moveFlds ((F.GLOBAL_DP_STATE.STATE, 0) :: (F.GLOBAL_DP_STATE.ARMED, 0) :: (F.GLOBAL_EPOCH_TARGET.TARGET_FSI, 0) :: answerCopies))

/-- A channel stops at its descriptor boundary and restarts (R361). A descriptor that cannot be fetched halts its ring and its channel
with BUS_ERROR (R360); a good transmit descriptor starts a job that reads the frame from the host, in requests of at most the largest read
size that cross no 4 KiB page (Table 16-1), and one of a port whose domain is off completes with DOMAIN_OFF (R72). -/
def Obligations.ChannelsMoveDescriptors : Prop :=
  ∀ (s : State) (c : Fin 32) (desc : List Byte),
    (s.hostReaches → Completes (.dmaStop c) s fun t =>
      chState t c = (if chState s c = chIDLE then chSTOPPED else if chState s c = chACTIVE ∨ chState s c = chPREEMPTED then chSTOPPING else chState s c) ∧
      (∀ o ∈ t.out, o.isRead = true) ∧ s.SameRegs t (F.DMA_CH_STATUS.STATE :: moveFlds) [] ∧
      State.SameUnits { s with ko := { s.ko with chans := t.ko.chans, turns := t.ko.turns } } t ∧
      (chState s c ≠ chACTIVE → chState s c ≠ chPREEMPTED → t.out = [] ∧ s.SameRegs t [] [(F.DMA_CH_STATUS.STATE, c.val)] ∧ s.SameUnits t)) ∧
    (s.hostReaches → Completes (.dmaRestart c) s fun t =>
      chState t c = (if chState s c = chSTOPPED ∨ chState s c = chHALTED then chIDLE else chState s c) ∧
      s.SameOutside t RegMap.kioskLo RegMap.dmaHi [] ∧ State.SameUnits { s with ko := t.ko } t ∧
      (s.noCommands → t.out = [] ∧ s.SameRegs t [] [(F.DMA_CH_STATUS.STATE, c.val)] ∧ s.SameUnits t)) ∧
    (s.held = false → pcieReady s = true → fetchRing s 0 = some 0 → Completes (.descriptorFetch 0 desc false) s fun t =>
      (s.ko.cmds = [] → s.Answered t [] stBUS_ERROR 0 0) ∧
      (s.ko.cmds ≠ [] → t.ko.cmds = s.ko.cmds ++ [{ idx := (getRing s 0).next, desc := [], res := some (stBUS_ERROR, 0, 0) }]) ∧
      chState t 0 = chHALTED ∧ ringState t 0 = rgHALTED ∧
      bit (t.rd F.DMA_ERR.BITS 0) Err.DMA.BUS_ERROR = true ∧ bit (t.rd F.KIOSK_ERR.BITS 0) Err.KIOSK.DESC_FETCH = true ∧
      State.SameUnits { s with ko := t.ko } t) ∧
    (∀ r, c.val ≠ 0 → s.held = false → pcieReady s = true → fetchRing s c = some r → Completes (.descriptorFetch c desc false) s fun t =>
      chState t c = chHALTED ∧ ringState t r = rgHALTED ∧ bit (t.rd F.DMA_ERR.BITS 0) Err.DMA.BUS_ERROR = true ∧
      bit (t.rd F.KIOSK_ERR.BITS 0) Err.KIOSK.DESC_FETCH = true ∧
      (.hostWrite (entryAddr s r (getRing s r).next + 16) ((record 64 [(16, 1, stBUS_ERROR)]).drop 16) : Output) ∈ t.out ∧
      (getRing t r).next = ((getRing s r).next + 1) % 2 ^ 32 ∧ State.SameUnits { s with ko := t.ko } t) ∧
    (∀ p, c.val = 11 + p → p < 4 → s.held = false → pcieReady s = true → fetchRing s c = some (8 + p) →
      let d := desc.take 64
      let x := (getRing s (8 + p)).next
      (domState s (24 + p) ≠ pdOFF → domState s (24 + p) ≠ pdDRAIN → txDescOk d = true → Completes (.descriptorFetch c desc true) s fun t =>
        (chState t c = chACTIVE ∨ chState t c = chPREEMPTED) ∧ (getRing t (8 + p)).next = (x + 1) % 2 ^ 32 ∧
        (∃ j, getJob t c = some j ∧ j.ring = 8 + p ∧ j.idx = x ∧ j.desc = d ∧ j.addr = leAt d 0 8 ∧ j.beats = (leAt d 8 2 + 63) / 64 ∧
          j.info = leAt d 8 2 ∧ j.answered = [] ∧ j.err = none ∧ j.bus = false) ∧
        (∀ o ∈ t.out, o.isRead = true) ∧
        (s.ko.chans = [] → 0 < highBytes s c →
          t.out.head? = some (.hostRead (leAt d 0 8) (min (min (maxRead s) (4096 - leAt d 0 8 % 4096)) (leAt d 8 2)))) ∧
        s.SameRegs t (F.DMA_CH_STATUS.STATE :: moveFlds) [] ∧ State.SameUnits { s with ko := t.ko } t) ∧
      (domState s (24 + p) = pdOFF ∨ domState s (24 + p) = pdDRAIN → Completes (.descriptorFetch c desc true) s fun t =>
        (.hostWrite (entryAddr s (8 + p) x + 16) ((record 64 [(16, 1, stDOMAIN_OFF)]).drop 16) : Output) ∈ t.out ∧
        (getRing t (8 + p)).next = (x + 1) % 2 ^ 32 ∧ chState t c = chIDLE ∧ t.ko.chans = s.ko.chans ∧ State.SameUnits { s with ko := t.ko } t))

/-- A beat of a descriptor's data is answered, and more are left: it is noted, with the first error in beat order (R360), and, when good,
its bytes are counted. Bytes from the host join the frame or the table, or reach the region at once (R350). Bytes to the host, answered in
order, leave in whole writes at the buffer's addresses, and what does not fill one stays for the next (R359, log entry 106). -/
def Obligations.BeatsMoveData : Prop :=
  ∀ (s : State) (c : Fin 32) (beat : Nat) (err : Option Bool) (bytes : List Byte) (bad badTally : List Nat) (j : Job),
    s.held = false → beatDue s c beat = true → 7 ≤ c.val → getJob s c = some j → j.answered.length + 1 < j.beats →
    let n := beatLen j beat
    let e := if 15 ≤ c.val then cmdErr s j beat err else err
    let a := regionAddr s j.desc (64 * beat)
    Completes (.dmaBeatResponse c beat err bytes bad badTally) s fun t =>
      (∃ k, getJob t c = some k ∧ k.answered = beat :: j.answered ∧ k.err = (answer j beat e).err ∧ k.bus = j.bus ∧
        (c.val ≤ 14 ∨ opOf j.desc = 1 → fromHost c j = true → k.data = patch j.data (64 * beat) (fitBytes bytes n)) ∧
        (fromHost c j = false → e = none → j.ahead = [] → 64 * beat = j.sent + j.data.length → ∃ w,
          payloadFrom (j.addr + j.sent) (t.out.filter Output.isPayload) = some w ∧ k.sent = j.sent + w.length ∧
          w ++ k.data = j.data ++ sourceBytes s c j beat)) ∧
      (∀ o ∈ t.out, o.isPayload = true ∨ o.isRead = true) ∧ (fromHost c j = true → ∀ o ∈ t.out, o.isRead = true) ∧
      (15 ≤ c.val → opOf j.desc = 3 → e = none → s.rd F.GLH_STATUS.STACK_FAILED 0 = 0 → Memory.wf s.hbm = true →
        t.hbmRead a n = fitBytes bytes n ∧ ∀ x, (x < a ∨ a + n ≤ x) → Memory.get t.hbm x = Memory.get s.hbm x) ∧
      (c.val ≤ 14 ∨ opOf j.desc ≠ 3 → t.hbm = s.hbm ∧ t.gl = s.gl) ∧
      t.rd F.DMA_CH_BYTES.BYTES c = (if e = none then min (s.rd F.DMA_CH_BYTES.BYTES c + n) (2 ^ 64 - 1) else s.rd F.DMA_CH_BYTES.BYTES c) ∧
      s.SameRegs t (F.DMA_CH_STATUS.STATE :: moveFlds) [(F.DMA_CH_BYTES.BYTES, c.val)] ∧
      State.SameUnits { s with hbm := t.hbm, gl := { s.gl with bad := t.gl.bad }, ko := { s.ko with chans := t.ko.chans, turns := t.ko.turns } } t

/-- The last beat of a LOAD or READ command is answered, no beat having failed: LOAD_TABLE fills the bank's entries with the host's bytes, or
completes with BAD_TABLE when the data breaks a rule of the table (R349); a region has taken its last beat, and a READ has sent its last
bytes (R350, log entry 40). The command completes, and its channel is free or STOPPED (R351, R361). -/
def Obligations.TransfersComplete : Prop :=
  ∀ (s : State) (c : Fin 32) (beat : Nat) (bytes : List Byte) (bad badTally : List Nat) (j : Job),
    s.held = false → beatDue s c beat = true → 15 ≤ c.val → getJob s c = some j → j.answered.length + 1 = j.beats →
    j.beats = (j.info + 63) / 64 → j.ring = 0 → j.err = none → j.errs = [] → j.bus = false →
    s.ko.cmds = [{ idx := j.idx, desc := j.desc, chan := some c.val }] → ringState s 0 = rgRUN → canComplete s = true →
    let n := beatLen j beat
    let k := tableCmd j.desc
    let data := patch j.data (64 * beat) (fitBytes bytes n)
    let a := regionAddr s j.desc (64 * beat)
    let run : (State → Prop) → Prop := fun P => Completes (.dmaBeatResponse c beat none bytes bad badTally) s fun t =>
      getJob t c = none ∧ chState t c = (if chState s c = chSTOPPING then chSTOPPED else chIDLE) ∧ t.ko.cmds = [] ∧ P t
    (opOf j.desc = 1 → data.length = j.info → loadBad s k data [] = false → tableOff s k.id = false → run fun t =>
      s.Completed t j.idx j.desc stOK 0 j.info ∧ readTableAt t k.id k.bank (k.first * tableBytes k.id) j.info = data ∧
      (∀ id bank grp off, (id ≠ k.id ∨ bank ≠ k.bank ∨ off < k.first * tableBytes k.id ∨ k.first * tableBytes k.id + j.info ≤ off) →
        t.tbByte id bank grp off = s.tbByte id bank grp off) ∧
      State.SameUnits { s with ko := t.ko, tables := t.tables, tableBad := t.tableBad } t) ∧
    (opOf j.desc = 1 → loadBad s k data [] = true → run fun t =>
      s.Completed t j.idx j.desc stBAD_TABLE 0 0 ∧ State.SameUnits { s with ko := t.ko } t) ∧
    (opOf j.desc = 3 → s.rd F.GLH_STATUS.STACK_FAILED 0 = 0 → Memory.wf s.hbm = true → run fun t =>
      s.Completed t j.idx j.desc stOK 0 j.info ∧ t.hbmRead a n = fitBytes bytes n ∧
      (∀ x, (x < a ∨ a + n ≤ x) → Memory.get t.hbm x = Memory.get s.hbm x) ∧
      State.SameUnits { s with ko := t.ko, hbm := t.hbm, gl := { s.gl with bad := t.gl.bad } } t) ∧
    (opOf j.desc = 2 ∨ opOf j.desc = 4 → cmdErr s j beat none = none → j.ahead = [] → beat + 1 = j.beats →
      64 * beat = j.sent + j.data.length → run fun t =>
      s.Completed t j.idx j.desc stOK 0 j.info ∧
      (∃ w, payloadFrom (j.addr + j.sent) (t.out.filter Output.isPayload) = some w ∧ w = j.data ++ sourceBytes s c j beat) ∧
      State.SameUnits { s with ko := t.ko } t)

/-- A reference that fails a condition of R293 (its edges stop, its phase jumps, its frequency, measured every 100 ms, leaves the
window) is disqualified: counted, with SD_ERR.REF_DISQUAL and the REF_DISQUALIFIED event that names the condition; the timer of condition 4 starts anew, and when it reaches
QUAL_TIME the reference is qualified. -/
def Obligations.ReferencesQualify : Prop :=
  ∀ (s : State) (r : Fin 4) (clock : Bool) (ps : Nat) (freq : Int), s.held = false →
    let lost : State → Nat → Prop := fun t cond => qualified t r = false ∧ (qualified s r = true → s.Raised t 0 24 [r, cond] ∧
      bit (t.rd F.SD_ERR.BITS 0) Err.SD.REF_DISQUAL = true ∧ t.rd F.SD_DISQUALS.COUNT 0 = min (s.rd F.SD_DISQUALS.COUNT 0 + 1) (2 ^ 32 - 1))
    (r.val < 3 → refActive s r = true → s.rd F.SD_THRESH.PJ_THR 0 * 1000 < ps → Completes (.phaseJumpDetect r ps) s fun t =>
      t.rd F.SD_REF_STATUS.PJ r = 1 ∧ lost t 3 ∧ (getRef t r).since = (if s.rd F.SD_REF_CFG.EN r = 1 ∧ refFailing s r = 0 then some s.el else none) ∧
      t.out = [] ∧ s.SameOutside t RegMap.sundialLo RegMap.sundialHi [] ∧ State.SameUnits { s with sd := t.sd } t) ∧
    ((r.val < 2 ∨ (r.val = 2 ∧ clock = true)) → edgesOn s r clock = true → Completes (.refActivityLoss r clock) s fun t =>
      edgesOn t r clock = false ∧ edgesOn t r (!clock) = edgesOn s r (!clock) ∧
      (s.rd F.SD_REF_CFG.EN r = 1 → (clock = true ∨ s.rd F.SD_REF_CFG.PPS_EN r = 1) → (getRef t r).since = none ∧ lost t 1) ∧
      s.Later t (if clock then 0 else (getRef s r).ppsAt + 1100000000 * nsUnits - s.el) ∧
      t.out = [] ∧ s.SameOutside t RegMap.sundialLo RegMap.sundialHi [] ∧ State.SameUnits { s with sd := t.sd, tb := t.tb, el := t.el } t) ∧
    ((r.val < 2 ∨ (r.val = 2 ∧ clock = true ∧ s.rd F.YG_CFG.RCLK_EN 0 = 1 ∧ laneState s (s.rd F.YG_CFG.RCLK_LANE 0) = laneUP)) →
      edgesOn s r clock = false → Completes (.refActivityReturn r clock) s fun t =>
        edgesOn t r clock = true ∧
        (s.rd F.SD_REF_CFG.EN r = 1 → refFailing (setEdges s r clock true) r = 0 → (getRef s r).since = none →
          (getRef t r).since = some s.el ∧ qualified t r = qualified s r) ∧
        t.out = [] ∧ s.SameOutside t RegMap.sundialLo RegMap.sundialHi [] ∧ State.SameUnits { s with sd := t.sd } t) ∧
    ((getRef s r).clk = true → Completes (.refFreqMeasure r freq) s fun t =>
      let f := if r.val = 3 then signed 32 (s.rd F.SD_VIRT_FREQ.FREQ 0) else freq
      t.rd F.SD_REF_FREQ.FREQ r = unsigned 32 f ∧ (getRef t r).freqOk = inFreqWin s f ∧
      (inFreqWin s f = false → s.rd F.SD_REF_CFG.EN r = 1 → qualified t r = false) ∧ (getRef t r).measAt = some t.el ∧
      s.Later t (match (getRef s r).measAt with | some a => a + 100000000 * nsUnits - s.el | none => 0) ∧
      t.out = [] ∧ s.SameOutside t RegMap.sundialLo RegMap.sundialHi [] ∧ State.SameUnits { s with sd := t.sd, tb := t.tb, el := t.el } t) ∧
    (∀ a, qualified s r = false → (getRef s r).since = some a → Completes (.refQualify r) s fun t =>
      qualified t r = true ∧ t.rd F.SD_REF_STATUS.QUALIFIED r = 1 ∧ t.rd F.SD_REF_STATUS.PJ r = 0 ∧
      s.Later t (a + s.inForce F.SD_CFG.QUAL_TIME 0 * secUnits - s.el) ∧
      t.out = [] ∧ s.SameOutside t RegMap.sundialLo RegMap.sundialHi [] ∧ State.SameUnits { s with sd := t.sd, tb := t.tb, el := t.el } t)

/-- The selection: a written SD_REF_CFG restarts qualification (R293, R294); the wait-to-restore timer ends in a switch to the better
reference if the selection still chooses it (R296); a slew ends with nothing left to take up (R298); the lock condition takes ACQUIRE to
LOCKED, which is traceable (R297, R300). -/
def Obligations.SundialFollowsItsReference : Prop :=
  ∀ (s : State) (r : Fin 4) (data : Word),
    (s.hostReaches → writeReserved s (F.SD_REF_CFG.EN.addr + F.SD_REF_CFG.EN.stride * r.val) data.toNat = false →
      Completes (.sdRefCfgWrite r data) s fun t =>
        t.rd F.SD_REF_CFG.EN r = bits data.toNat 31 1 ∧ t.rd F.SD_REF_CFG.PPS_EN r = bits data.toNat 30 1 ∧
        t.rd F.SD_REF_CFG.RANK r = bits data.toNat 0 4 ∧ qualified t r = false ∧ (r.val = 3 → (getRef t 3).clk = false) ∧
        t.rd F.SD_DISQUALS.COUNT 0 = s.rd F.SD_DISQUALS.COUNT 0 ∧
        t.out = [] ∧ s.SameOutside t RegMap.sundialLo RegMap.sundialHi [] ∧ State.SameUnits { s with sd := t.sd } t) ∧
    (∀ c a, s.held = false → nextWtr s = some (c, a) → c < 4 → s.sd.remain = 0 → Completes .wtrExpire s fun t =>
      Tab.find t.sd.wtr c = none ∧ t.rd F.SD_STATUS.WTR_RUN 0 = (if t.sd.wtr = [] then 0 else 1) ∧ s.Later t (a + s.rd F.SD_TIMERS.WTR 0 * secUnits - s.el) ∧
      ((choose s).ref = some c → qualified s c = true → s.sdState = sdLOCKED →
        t.rd F.SD_STATUS.SELECTED 0 = c ∧ t.sdState = sdSWITCHING ∧ t.rd F.SD_SWITCHES.COUNT 0 = min (s.rd F.SD_SWITCHES.COUNT 0 + 1) (2 ^ 32 - 1)) ∧
      ((choose s).ref ≠ some c → t.rd F.SD_STATUS.SELECTED 0 = s.rd F.SD_STATUS.SELECTED 0 ∧ t.sdState = s.sdState) ∧
      t.out = [] ∧ s.SameOutside t RegMap.sundialLo RegMap.sundialHi [] ∧ State.SameUnits { s with sd := t.sd, tb := t.tb, el := t.el } t) ∧
    (s.held = false → s.sd.remain ≠ 0 → s.sd.revert = none → Completes .slewComplete s fun t =>
      t.sd.remain = 0 ∧ t.sd.slewAt = t.el ∧ t.sd.refs = s.sd.refs ∧ s.Later t (slewDue s - s.el) ∧ t.out = [] ∧ s.SameRegs t cntFlds [] ∧
      State.SameUnits { s with sd := t.sd, tb := t.tb, el := t.el } t) ∧
    (∀ a, s.held = false → s.sdState = sdACQUIRE → s.sd.lockSince = some a → s.rd F.SD_STATUS.SEL_VALID 0 = 1 →
      qualified s (s.rd F.SD_STATUS.SELECTED 0) = true → (choose s).ref = some (s.rd F.SD_STATUS.SELECTED 0) →
      Completes .lockAchieved s fun t =>
        t.sdState = sdLOCKED ∧ t.rd F.SD_STATUS.TRACEABLE 0 = 1 ∧ t.rd F.SD_STATUS.SELECTED 0 = s.rd F.SD_STATUS.SELECTED 0 ∧
        s.Raised t 0 26 [sdLOCKED, sdACQUIRE] ∧ s.Later t (a + secUnits - s.el) ∧ t.out = [] ∧
        s.SameOutside t RegMap.sundialLo RegMap.sundialHi [] ∧ State.SameUnits { s with sd := t.sd, tb := t.tb, el := t.el } t)

/-- The phase error, with what remains of a slew, is taken each millisecond, saturated, and times the lock condition (R297, R315); a PPS pulse
of less than 100 ns is ignored, and a PPS edge measures the offset of its reference (R292) and aligns the phase of ACQUIRE (R298, log
entry 46); a write of SD_VIRT_FREQ is the heartbeat of VIRT, which times out without it (R304). -/
def Obligations.PhaseAndVirtAreWatched : Prop :=
  ∀ (s : State) (r : Fin 4) (err pos : Int) (width : Nat) (data : Word),
    (s.held = false → s.rd F.SD_STATUS.SEL_VALID 0 = 1 → Completes (.phaseErrUpdate err) s fun t =>
      let e := sat (err - tbToPs (remainNow t)) 32
      t.rd F.SD_PHASE_ERR.ERR 0 = unsigned 32 e ∧ t.tb = nextMultiple s (1000000 * nsUnits) ∧ s.Later t (t.tb - s.tb) ∧
      t.sd.lockSince = (if e.natAbs ≤ s.rd F.SD_THRESH.LOCK_THR 0 * 1000 then
        (if s.sd.lockSince.isSome then s.sd.lockSince else some t.el) else none) ∧ t.out = [] ∧
      s.SameRegs t cntFlds [(F.SD_PHASE_ERR.ERR, 0)] ∧
      State.SameUnits { s with tb := t.tb, el := t.el, sd := { s.sd with lockSince := t.sd.lockSince } } t) ∧
    (s.held = false → s.rd F.SD_STATUS.SEL_VALID 0 ≠ 1 → Completes (.phaseErrUpdate err) s fun t =>
      t.tb = nextMultiple s (1000000 * nsUnits) ∧ t.out = [] ∧ s.SameRegs t cntFlds [(F.SD_PHASE_ERR.ERR, 0)] ∧
      State.SameUnits { s with tb := t.tb, el := t.el, sd := { s.sd with lockSince := none } } t) ∧
    (width < 100 → exec (.ppsEdge r ⟨pos, width⟩) s = .next s) ∧
    (s.held = false → r.val < 2 → s.rd F.SD_REF_CFG.PPS_EN r = 1 → (getRef s r).clk = true → (getRef s r).freqOk = true → s.sd.remain = 0 →
      100 ≤ width → s.selectionStays →
      (s.sdState ≠ sdACQUIRE → Completes (.ppsEdge r ⟨pos, width⟩) s fun t =>
        (getRef t r).pps = true ∧ (getRef t r).offset = some (pos - (getRef s r).delay - s.sd.moved) ∧ (getRef t r).ppsAt = t.el ∧
        t.tb = nextAt s pos ∧ s.Later t (t.tb - s.tb) ∧ t.out = [] ∧ s.SameOutside t RegMap.sundialLo RegMap.sundialHi [] ∧
        State.SameUnits { s with tb := t.tb, el := t.el, sd := t.sd } t) ∧
      (s.sdState = sdACQUIRE → s.rd F.SD_STATUS.SELECTED 0 = r → s.rd F.SD_STATUS.SEL_VALID 0 = 1 → s.sd.aligned = false → s.dpStopped = false →
        Completes (.ppsEdge r ⟨pos, width⟩) s fun t =>
          t.sd.aligned = true ∧ t.sd.remain = -(pos - (getRef s r).delay - s.sd.offTb) ∧ t.tb = nextAt s pos)) ∧
    (s.hostReaches → Completes (.virtFreqWrite data) s fun t =>
      t.rd F.SD_VIRT_FREQ.FREQ 0 = data.toNat ∧ t.rd F.SD_REF_FREQ.FREQ 3 = data.toNat ∧ (getRef t 3).clk = true ∧ (getRef t 3).wroteAt = s.el ∧
      (getRef t 3).freqOk = inFreqWin s (signed 32 data.toNat) ∧ t.out = [] ∧
      s.SameOutside t RegMap.sundialLo RegMap.sundialHi [] ∧ State.SameUnits { s with sd := t.sd } t) ∧
    (s.held = false → (getRef s 3).clk = true → Completes .virtTimeout s fun t =>
      (getRef t 3).clk = false ∧ (s.rd F.SD_REF_CFG.EN 3 = 1 → qualified t 3 = false) ∧
      s.Later t ((getRef s 3).wroteAt + s.rd F.SD_VIRT_CFG.TIMEOUT 0 * secUnits - s.el) ∧ t.out = [] ∧
      s.SameOutside t RegMap.sundialLo RegMap.sundialHi [] ∧ State.SameUnits { s with sd := t.sd, tb := t.tb, el := t.el } t)

/-- The time of day waits for the next second and is refused while the data plane runs (R302); a phase step slews, or jumps while it is
stopped (R303); at a second the SECOND fields take effect (R49) and the pending time of day is taken. -/
def Obligations.TimeIsSetAndStepped : Prop :=
  ∀ (s : State) (lo hi data : Word),
    (s.hostReaches → Tab.find s.ko.holdWr F.SD_TOD_SET.SEC.addr = some lo.toNat →
      (s.dpStopped = true → Completes (.todSet hi) s fun t =>
        t.rd F.SD_TOD_SET.SEC 0 = hi.toNat * 2 ^ 32 + lo.toNat ∧ t.sd = { s.sd with tod := some (hi.toNat * 2 ^ 32 + lo.toNat) } ∧ t.out = [] ∧
        s.SameRegs t [] [(F.SD_TOD_SET.SEC, 0)] ∧ State.SameUnits { s with sd := t.sd, ko := { s.ko with holdWr := t.ko.holdWr } } t) ∧
      (s.dpStopped = false → Completes (.todSet hi) s fun t =>
        bit (t.rd F.SD_ERR.BITS 0) Err.SD.TOD_REFUSED = true ∧ t.out = [] ∧ s.SameRegs t Err.SD.unit.flds [] ∧
        State.SameUnits { s with ko := { s.ko with holdWr := t.ko.holdWr } } t)) ∧
    (s.hostReaches →
      let d := psToTb (signed 64 (s.rd F.SD_STEP.STEP 0))
      let P : State → Prop := fun t =>
        t.rd F.SD_OFFSET.OFFSET 0 = unsigned 64 (signed 64 (s.rd F.SD_OFFSET.OFFSET 0) + signed 64 (s.rd F.SD_STEP.STEP 0)) ∧
        t.sd.offTb = s.sd.offTb + d ∧ t.el = s.el ∧ t.out = [] ∧ s.SameRegs t Err.SD.unit.flds [(F.SD_OFFSET.OFFSET, 0), (F.SD_STEP_CTL.MODE, 0)] ∧
        State.SameUnits { s with sd := t.sd, tb := t.tb } t
      ((bits data.toNat 1 1 = 0 ∨ s.dpStopped = false) → Completes (.stepGo data) s fun t =>
        P t ∧ t.sd.remain = remainNow s + d ∧ t.sd.slewAt = s.el ∧ t.tb = s.tb ∧
        (bits data.toNat 1 1 = 1 → bit (t.rd F.SD_ERR.BITS 0) Err.SD.JUMP_AS_SLEW = true)) ∧
      (bits data.toNat 1 1 = 1 → s.dpStopped = true → (∀ e, e < 64 → evArmed s e = false) → Completes (.stepGo data) s fun t =>
        P t ∧ (t.tb : Int) = (s.tb + d) % (2 ^ 64 * secUnits : Nat) ∧ t.sd.moved = s.sd.moved + d ∧ t.sd.remain = s.sd.remain)) ∧
    (s.held = false →
      (s.sd.tod = none → Completes .timebaseSecond s fun t =>
        t.tb = nextMultiple s secUnits ∧ s.Later t (t.tb - s.tb) ∧ (∀ f ∈ secondFields, t.inForce f.1 f.2 = s.rd f.1 f.2 % 2 ^ f.1.width) ∧
        t.hbm = s.hbm ∧ t.tables = s.tables ∧ t.act = s.act ∧ t.glob = s.glob ∧ t.out = [] ∧
        ((s.rd F.GH_SLIP_CFG.EN 0 = 0 ∨ s.dp ≠ dpRUNNING) → s.SameOutside t RegMap.sundialLo RegMap.sundialHi [] ∧
          State.SameUnits { s with sd := t.sd, tb := t.tb, el := t.el, force := t.force } t)) ∧
      (∀ v, s.sd.tod = some v → (∀ e, e < 64 → evArmed s e = false) → Completes .timebaseSecond s fun t =>
        t.tb = v % 2 ^ 64 * secUnits ∧ t.sd.tod = none ∧ t.el = s.el + (nextMultiple s secUnits - s.tb) ∧
        (∀ f ∈ secondFields, t.inForce f.1 f.2 = s.rd f.1 f.2 % 2 ^ f.1.width)))

/-- A timed event is armed, and fires at its time, with every other slot of that time: its pins go high, it is counted and announced, and it disarms or moves on by its period
(R307, R308); one armed in the past fires at once. A pulse ends after its width. An edge on a TIME_IN pin is captured with the time, before
the edges of higher pins in the same clock, and dropped with a count when the queue is full (R309 to R311). -/
def Obligations.TimedEventsAndCaptures : Prop :=
  ∀ (s : State) (e : Fin 64) (p : Fin 4) (data : Word) (rising : Bool) (width : Nat),
    let off := F.SD_EV_CTL.ARM.addr + F.SD_EV_CTL.ARM.stride * e.val
    let ctl := [(F.SD_EV_CTL.ARM, e.val), (F.SD_EV_CTL.ACTION, e.val), (F.SD_EV_CTL.PINS, e.val), (F.SD_EV_CTL.WIDTH, e.val)]
    (s.hostReaches → evArmed s e = false → writeReserved s off (setBit data.toNat 31) = false →
      (s.tb < evTime s e → Completes (.timedEventArm e data) s fun t =>
        evArmed t e = true ∧ t.rd F.SD_EV_CTL.ACTION e = bits data.toNat 24 3 ∧ t.rd F.SD_EV_CTL.PINS e = bits data.toNat 16 4 ∧
        t.rd F.SD_EV_CTL.WIDTH e = bits data.toNat 0 16 ∧ t.out = [] ∧ s.SameRegs t [] ctl ∧ s.SameUnits t) ∧
      (evTime s e ≤ s.tb → bits data.toNat 24 3 = 0 → s.rd F.SD_EV_PERIOD.PERIOD e = 0 → Completes (.timedEventArm e data) s fun t =>
        evArmed t e = false ∧ s.Raised t 0 28 [e, s.sec, s.ns, b2n (decide (evTime s e < s.tb)), stOK] ∧
        (evTime s e < s.tb → t.rd F.SD_EV_STATUS.LATE e = 1 ∧ bit (t.rd F.SD_ERR.BITS 0) Err.SD.EVENT_LATE = true) ∧ t.out = [] ∧
        s.SameRegs t (F.SD_EV_FIRED.COUNT :: Err.SD.unit.flds ++ cntFlds) ((F.SD_EV_STATUS.FIRES, e.val) :: (F.SD_EV_STATUS.LATE, e.val) :: ctl) ∧
        State.SameUnits { s with sd := { s.sd with pulses := t.sd.pulses } } t)) ∧
    (s.held = false → evArmed s e = true → (∀ j, j < 64 → evArmed s j = true → evTime s j = evTime s e → s.rd F.SD_EV_CTL.ACTION j = 0) →
      Completes (.timedEventFire e) s fun t =>
        s.Later t (evTime s e - s.tb) ∧ t.out = [] ∧
        (∀ j, j < 64 → t.rd F.SD_EV_STATUS.FIRES j = if evArmed s j = true ∧ evTime s j = evTime s e
          then min (s.rd F.SD_EV_STATUS.FIRES j + 1) (2 ^ 16 - 1) else s.rd F.SD_EV_STATUS.FIRES j) ∧
        State.SameUnits { s with tb := t.tb, el := t.el, sd := { s.sd with pulses := t.sd.pulses } } t) ∧
    (s.held = false → evArmed s e = true → s.rd F.SD_EV_CTL.ACTION e = 0 →
      (∀ j, j < 64 → j ≠ e.val → evArmed s j = true → evTime s j ≠ evTime s e) → Completes (.timedEventFire e) s fun t =>
      s.Later t (evTime s e - s.tb) ∧ s.Raised t 0 28 [e, t.sec, t.ns, 0, stOK] ∧
      t.sd.pulses = s.sd.pulses ++ ((List.range 4).filter (bit (s.rd F.SD_EV_CTL.PINS e))).map (fun q => (q, t.el + s.rd F.SD_EV_CTL.WIDTH e * 1000 * nsUnits)) ∧
      t.rd F.SD_EV_FIRED.COUNT 0 = min (s.rd F.SD_EV_FIRED.COUNT 0 + 1) (2 ^ 32 - 1) ∧
      t.rd F.SD_EV_STATUS.FIRES e = min (s.rd F.SD_EV_STATUS.FIRES e + 1) (2 ^ 16 - 1) ∧
      (s.rd F.SD_EV_PERIOD.PERIOD e = 0 → evArmed t e = false) ∧
      (s.rd F.SD_EV_PERIOD.PERIOD e ≠ 0 → evArmed t e = true ∧
        let q := s.rd F.SD_EV_PERIOD.PERIOD e * nsUnits
        let next := evTime s e + ((t.tb - evTime s e) / q + 1) * q
        t.rd F.SD_EV_SEC.SEC e = next / secUnits % 2 ^ 64 ∧ t.rd F.SD_EV_NS.NS e = next / nsUnits % 1000000000) ∧ t.out = [] ∧
      s.SameRegs t (F.SD_EV_FIRED.COUNT :: cntFlds) [(F.SD_EV_STATUS.FIRES, e.val), (F.SD_EV_CTL.ARM, e.val), (F.SD_EV_SEC.SEC, e.val), (F.SD_EV_NS.NS, e.val)] ∧
      State.SameUnits { s with tb := t.tb, el := t.el, sd := { s.sd with pulses := t.sd.pulses } } t) ∧
    (s.held = false → timeOutHigh s p = true → Completes (.timeOutPulseEnd p) s fun t =>
      timeOutHigh t p = false ∧ (∀ q, q ≠ p.val → timeOutHigh t q = timeOutHigh s q) ∧ s.Later t (pulseEnd s p - s.el) ∧ t.out = [] ∧
      s.SameRegs t cntFlds [] ∧ State.SameUnits { s with tb := t.tb, el := t.el, sd := { s.sd with pulses := t.sd.pulses } } t) ∧
    (s.held = false → bit (s.rd F.SD_TIN_CFG.EDGE p) (if rising then 0 else 1) = true → s.rd F.SD_TIN_CFG.FILTER p ≤ width →
      (s.sd.capq.length < 64 → Completes (.timeInEdge p rising width) s fun t =>
        (∃ a b, t.sd = { s.sd with capq := a ++ { tb := s.tb, pin := p, rising := rising, holdover := !traceable s.sdState } :: b } ∧
          (a ++ b).Perm s.sd.capq ∧ a.Sublist s.sd.capq ∧ b.Sublist s.sd.capq ∧
          (∀ x ∈ b, x.tb / nsUnits = s.tb / nsUnits ∧ p.val < x.pin) ∧ (∀ x ∈ a, x.tb / nsUnits = s.tb / nsUnits → x.pin ≤ p.val)) ∧
        (s.sd.capq = [] → s.Raised t 0 27 []) ∧ t.out = [] ∧ s.SameRegs t [] [] ∧ State.SameUnits { s with sd := t.sd } t) ∧
      (64 ≤ s.sd.capq.length → Completes (.timeInEdge p rising width) s fun t =>
        t.rd F.SD_CAP_DROP.COUNT 0 = min (s.rd F.SD_CAP_DROP.COUNT 0 + 1) (2 ^ 32 - 1) ∧ bit (t.rd F.SD_ERR.BITS 0) Err.SD.CAP_DROP = true ∧
        t.out = [] ∧ s.SameRegs t (F.SD_CAP_DROP.COUNT :: Err.SD.unit.flds ++ cntFlds) [] ∧ s.SameUnits t))

/-- The Lodge's periods: each 10 ms a known-answer pass is due for every free spare, or while the data plane is IDLE or ARMED for every
powered Pavilion, and those still due are overdue (R280); a pass is counted, a failed one also reported, charged, and in IDLE or ARMED
retires its Pavilion the second time (R281); each 100 ms a health record is issued (R287); INGEST coverage is held off for one second
after a late twin (R93); a scrubbed word is corrected, or counted and reported as uncorrectable, and a table word stays so until it is
loaded again (R285, log entry 51). -/
def Obligations.LodgeWatches : Prop :=
  ∀ (s : State) (k : Fin 136) (mem index : Nat), s.held = false →
    (Completes .katTick s fun t =>
      t.tb = nextMultiple s (10 * 65536000000) ∧ s.Later t (t.tb - s.tb) ∧
      t.lo = { s.lo with katDue := if s.dp = dpIDLE ∨ s.dp = dpARMED then (List.range 136).filter fun j => domOn s (j / 8) else freeSpares s } ∧
      t.rd F.LODGE_KAT_OVERDUE.COUNT 0 = (if s.lo.katDue = [] then s.rd F.LODGE_KAT_OVERDUE.COUNT 0
        else min (s.rd F.LODGE_KAT_OVERDUE.COUNT 0 + s.lo.katDue.length) (2 ^ 32 - 1)) ∧ t.out = [] ∧
      s.SameRegs t (F.LODGE_KAT_OVERDUE.COUNT :: cntFlds) [] ∧ State.SameUnits { s with tb := t.tb, el := t.el, lo := t.lo } t) ∧
    ((s.lo.katDue.contains k.val = true ∨ (Tab.find s.lo.katFailed k.val).isSome = true) → katIdle s = true → domOn s (k / 8) = true →
      (Completes (.katPassDone k true) s fun t =>
        t.rd F.LODGE_KAT_PASS.COUNT 0 = min (s.rd F.LODGE_KAT_PASS.COUNT 0 + 1) (2 ^ 32 - 1) ∧
        t.lo.katDue = s.lo.katDue.filter (fun j => decide (j ≠ k.val)) ∧ t.lo.katFailed = Tab.del s.lo.katFailed k.val ∧ t.out = [] ∧
        (s.pv.settled = true →
          t.lo = { s.lo with katDue := s.lo.katDue.filter fun j => decide (j ≠ k.val), katFailed := Tab.del s.lo.katFailed k.val } ∧
          s.SameRegs t (F.LODGE_KAT_PASS.COUNT :: cntFlds) [] ∧ State.SameUnits { s with lo := t.lo } t)) ∧
      (Completes (.katPassDone k false) s fun t =>
        t.rd F.LODGE_KAT_FAIL.COUNT 0 = min (s.rd F.LODGE_KAT_FAIL.COUNT 0 + 1) (2 ^ 32 - 1) ∧
        bit (t.rd F.LODGE_ERR.BITS 0) Err.LODGE.KAT_FAIL = true ∧
        t.lo.katDue = s.lo.katDue.filter (fun j => decide (j ≠ k.val)) ∧
        Tab.find t.lo.katFailed k.val = some (Tab.getD s.lo.katFailed k.val 0 + 1) ∧
        ((s.dp = dpIDLE ∨ s.dp = dpARMED) → s.rd F.PAV_CFG.RETIRE_EN 0 = 1 → 1 ≤ Tab.getD s.lo.katFailed k.val 0 →
          s.rd F.PAV_STATUS.ROLE k ≠ roFAILED → t.rd F.PAV_STATUS.ROLE k = roRETIRED) ∧ t.out = [] ∧
        (s.pv.settled = true →
          s.Raised t 0 29 [pair Err.LODGE.KAT_FAIL 0] ∧
          (s.dp ≠ dpIDLE → s.dp ≠ dpARMED → s.SameRegs t (F.LODGE_KAT_FAIL.COUNT :: cntFlds) [(F.PAV_STATUS.PENDING, k.val)]) ∧
          State.SameUnits { s with lo := t.lo, pv := t.pv } t))) ∧
    (Completes .healthRecord s fun t =>
      let e : EvRec := { kind := 3, code := 33, tb := nextMultiple s (100000000 * nsUnits), body := healthFields s }
      t.tb = e.tb ∧ s.Later t (t.tb - s.tb) ∧ t.rd F.LODGE_HEALTH.COUNT 0 = min (s.rd F.LODGE_HEALTH.COUNT 0 + 1) (2 ^ 32 - 1) ∧
      (s.rd F.LODGE_CFG.HEALTH_EVT 0 = 1 → s.ko.evq.length < 1024 → e ∈ t.ko.evq) ∧ bit (t.rd F.BELV_ALERT_STATUS.STATUS 0) 6 = true ∧
      t.lo = { s.lo with seq := (s.lo.seq + 1) % 2 ^ 32, counts := [], tjMax := none, latest := eventBytes e 0 } ∧ t.out = [] ∧
      s.SameRegs t (F.LODGE_HEALTH.COUNT :: cntFlds) [] ∧ State.SameUnits { s with tb := t.tb, el := t.el, lo := t.lo } t) ∧
    (∀ a, s.lo.lateTwinAt = some a → Completes .lateTwinHoldExpire s fun t =>
      t.lo = { s.lo with lateTwinAt := none } ∧ s.Later t (a + secUnits - s.tb) ∧ t.out = [] ∧ s.SameRegs t cntFlds [] ∧
      State.SameUnits { s with tb := t.tb, el := t.el, lo := t.lo } t) ∧
    (1 ≤ mem → mem ≤ 8 →
      (Completes (.sramScrub mem index false) s fun t =>
        (mem ≠ 3 → t.rd F.LODGE_SRAM_CORR.COUNT 0 = min (s.rd F.LODGE_SRAM_CORR.COUNT 0 + 1) (2 ^ 32 - 1)) ∧
        (mem = 3 → index < 136 → t.rd F.PAV_TILE_CORR.COUNT index = min (s.rd F.PAV_TILE_CORR.COUNT index + 1) (2 ^ 32 - 1)) ∧
        t.lo.counts = Tab.put s.lo.counts 5 (Tab.getD s.lo.counts 5 0 + 1) ∧ t.out = [] ∧
        s.SameRegs t (F.LODGE_SRAM_CORR.COUNT :: F.PAV_TILE_CORR.COUNT :: F.PAV_ORANGERY_CORR.COUNT :: cntFlds) [] ∧
        State.SameUnits { s with lo := { s.lo with counts := t.lo.counts } } t) ∧
      (Completes (.sramScrub mem index true) s fun t =>
        t.rd F.LODGE_SRAM_UNCORR.COUNT 0 = min (s.rd F.LODGE_SRAM_UNCORR.COUNT 0 + 1) (2 ^ 32 - 1) ∧
        bit (t.rd F.LODGE_ERR.BITS 0) Err.LODGE.SRAM_UNCORR = true ∧
        (mem ∈ [1, 2, 4, 5, 6, 7] → s.Raised t 0 29 [pair Err.LODGE.SRAM_UNCORR 0, mem] ∧ t.out = [] ∧
          s.SameRegs t (F.LODGE_SRAM_UNCORR.COUNT :: cntFlds) [] ∧
          State.SameUnits { s with lo := { s.lo with counts := t.lo.counts }, yg := t.yg, eye := t.eye, tableBad := t.tableBad } t) ∧
        (∀ id bank grp x, tableOfRow mem id = true → bank < 2 → grp < 4 → x < tableEntries id →
          index = 2 ^ 20 * (16 + 8 * id + 4 * bank + grp) + x → (id, bank, grp, x) ∈ t.tableBad) ∧
        (mem = 1 → (getLane t index).ended = (getLane s index).ended.drop 1) ∧
        (mem = 8 → index < 1024 → index < s.ko.evq.length → s.ko.evLost + 1 ≤ t.ko.evLost) ∧
        (∀ c j, mem = 8 → index = 1024 + c → getJob s c = some j → j.answered.length < j.beats → getJob t c = some { j with bus := true })))

/-- A lane trains by Table 4-7: its signal starts the timer, its clock and its equalizer are settled within their times, each request to
its transmitter is evaluated for its time and answered or times out, a report leaves with every codeword of TX_TRAIN (R100), and the lane
then seeks its codewords (R95, R96, R101). With COLD_TRAIN the equaliser starts from its defaults, else from its last values (R102). -/
def Obligations.LanesTrain : Prop :=
  ∀ (s : State) (k : Fin 64) (ppm : Int) (ctle vga reqNum pre post status : Nat) (taps : List Int), s.held = false →
    let T := (getLane s k).train
    let only : State → Prop := fun t => (∀ j, j ≠ k.val → getLane t j = getLane s j) ∧
      State.SameUnits { s with yg := { s.yg with lanes := t.yg.lanes }, tb := t.tb, el := t.el } t
    let lane : State → LaneTrain → Prop := fun t T => getLane t k = { getLane s k with train := T }
    let reported : State → State → LaneTrain → Prop := fun u t T' =>
      let n := codewordsBy u k
      getLane t k = { getLane s k with counts := if T.sent < n then [0, 0, 0, 0, 0] else (getLane s k).counts, train := { T' with sent := max T.sent n } } ∧
      t.out.length = n - T.sent ∧ (∀ o ∈ t.out, ∃ r, o = .report k r) ∧ (T.sent < n → t.out.head? = some (.report k (trainReport u k T.sent)))
    (laneState s k = lnSIGNAL_WAIT → Completes (.signalDetect k) s fun t =>
      laneState t k = lnCDR ∧ t.rd F.YG_LANE_STATUS.LOS k = 0 ∧ lane t { T with timerAt := s.el, stateAt := s.el } ∧ s.Later t 0 ∧ t.out = [] ∧
      s.SameRegs t [] [(F.YG_LANE_STATUS.STATE, k.val), (F.YG_LANE_STATUS.LOS, k.val)] ∧ only t) ∧
    (laneState s k = lnCDR → ppm.natAbs ≤ 2000 → s.el ≤ T.timerAt + 2 * msUnits → Completes (.cdrLock k ppm) s fun t =>
      laneState t k = lnADAPT ∧ t.rd F.YG_LANE_STATUS.CDR_LOCK k = 1 ∧ t.rd F.YG_LANE_STATUS.PPM k = unsigned 16 ppm ∧
      lane t { T with stateAt := s.el } ∧ s.Later t 0 ∧ t.out = [] ∧
      (∀ e ∈ eqFields.zip ((List.range 14).map Config.eqDefault), t.rd e.1 k =
        if s.rd F.YG_LANE_CTL.COLD_TRAIN k = 1 then e.2 % 2 ^ e.1.width else s.rd e.1 k) ∧
      s.SameRegs t [] ([(F.YG_LANE_STATUS.STATE, k.val), (F.YG_LANE_STATUS.CDR_LOCK, k.val), (F.YG_LANE_STATUS.PPM, k.val)] ++
        eqFields.map fun f => (f, k.val)) ∧ only t) ∧
    (laneState s k = lnADAPT → s.el ≤ T.timerAt + 12 * msUnits → Completes (.adaptDone k ctle vga taps) s fun t =>
      laneState t k = lnTX_TRAIN ∧ t.rd F.YG_LANE_EQ.CTLE k = ctle % 16 ∧ t.rd F.YG_LANE_EQ.VGA k = vga % 256 ∧
      (∀ e ∈ tapFields.zip taps, t.rd e.1 k = unsigned 8 e.2) ∧ t.rd F.YG_LANE_STATUS.TXEQ_TIMEOUT k = 0 ∧
      lane t { T with stateAt := s.el, requests := 0, preReq := 0, postReq := 0, matchAt := s.el, reqAt := s.el,
                      fin := decide (s.rd F.YG_LANE_CTL.TXEQ_SKIP k = 1), sent := 0,
                      txFrom := if s.rd F.YG_LANE_CTL.COLD_TRAIN k = 1 then (Config.eqDefault 14, Config.eqDefault 15)
                        else (s.rd F.YG_LANE_EQ.TX_PRE k, s.rd F.YG_LANE_EQ.TX_POST k) } ∧ s.Later t 0 ∧ t.out = [] ∧
      s.SameRegs t [] ((F.YG_LANE_STATUS.STATE, k.val) :: (F.YG_LANE_STATUS.TXEQ_TIMEOUT, k.val) :: (F.YG_LANE_EQ.CTLE, k.val) ::
        (F.YG_LANE_EQ.VGA, k.val) :: tapFields.map fun f => (f, k.val)) ∧ only t) ∧
    (laneState s k = lnTX_TRAIN →
      (T.fin = false →
        let d := if T.requests = 0 then 0 else T.reqAt + 200 * usUnits - s.el
        (T.requests < 150 → Completes (.txeqRequestEval k (some (pre, post))) s fun t =>
          reported { t with yg := s.yg } t { T with reqNum := (T.reqNum + 1) % 256, preReq := pre % 4, postReq := post % 4,
                                                    requests := T.requests + 1, reqAt := t.el } ∧
          s.Later t d ∧ s.SameRegs t cntFlds [] ∧ only t) ∧
        (150 ≤ T.requests → Completes (.txeqRequestEval k (some (pre, post))) s fun t =>
          reported { t with yg := s.yg } t { T with fin := true } ∧ s.Later t d ∧ s.SameRegs t cntFlds [] ∧ only t) ∧
        (Completes (.txeqRequestEval k none) s fun t =>
          reported { t with yg := s.yg } t { T with fin := true } ∧ s.Later t d ∧ s.SameRegs t cntFlds [] ∧ only t) ∧
        (Completes (.txeqTimeout k) s fun t =>
          reported { t with yg := s.yg } t { T with fin := true } ∧ t.rd F.YG_LANE_STATUS.TXEQ_TIMEOUT k = 1 ∧ bit (t.rd F.YG_ERR.BITS 0) Err.YG.TXEQ_TIMEOUT = true ∧
          s.Later t (T.matchAt + msUnits - s.el) ∧
          s.SameRegs t (Err.YG.unit.flds ++ cntFlds) [(F.YG_LANE_STATUS.TXEQ_TIMEOUT, k.val)] ∧ only t)) ∧
      (Completes (.tstatReceive k reqNum pre post status) s fun t =>
        t.rd F.YG_LANE_EQ.TX_PRE k = pre % 16 ∧ t.rd F.YG_LANE_EQ.TX_POST k = post % 16 ∧
        lane t (if reqNum = T.reqNum then { T with matchAt := s.el } else T) ∧ s.Later t 0 ∧ t.out = [] ∧
        s.SameRegs t [] [(F.YG_LANE_EQ.TX_PRE, k.val), (F.YG_LANE_EQ.TX_POST, k.val)] ∧ only t) ∧
      (T.fin = true → s.el ≤ T.timerAt + 42 * msUnits → Completes (.txTrainDone k) s fun t =>
        laneState t k = lnCW_LOCK ∧ reported s t { T with stateAt := s.el } ∧ s.Later t 0 ∧
        s.SameRegs t [] [(F.YG_LANE_STATUS.STATE, k.val)] ∧ only t))

/-- The levels of a codeword are decoded by the line code (R82 to R84, log entry 100). Four good codewords in a row at one boundary bring a
lane UP; the codewords of an UP lane are counted and their blocks taken into its cells (R83 to R85), while its gain and taps adapt (R96). A departure from UP, by a loss or by RETRAIN, is counted and announced, with one burst; training that reaches 50 ms
fails, and is tried again after 10 ms (R101, Table 4-7). -/
def Obligations.LanesDecodeAndFall : Prop :=
  ∀ (s : State) (k : Fin 64) (boundary : Nat) (levels : List Nat) (eq : Adaptation) (cause : LaneLoss) (data : Word),
    let x := getLane s k
    let decoded := decodeLevels (decide (s.rd F.YG_LANE_CTL.PRECODE k = 1)) x.lastIn x.descr levels
    let result := decoded.1
    let blocks := decoded.2.1
    let kept : State → Prop := fun t => (getLane t k).descr = decoded.2.2 ∧ (getLane t k).lastIn = levels.getLastD 0
    let burst : State → List Byte → Prop := fun t r => ∃ l, t.out = [.burst k r l] ∧ l.map Prod.fst = [0, 2000, 10192, 10704, 11728] ∧
      l.head? = some (0, .wake) ∧ l.getLast? = some (11728, .idle)
    let uncorr := decide (result = .uncorrectable)
    let others : State → Prop := fun t => ∀ j, j ≠ k.val → getLane t j = getLane s j
    let announced : State → Prop := fun t =>
      t.rd F.YG_LANE_DOWN_CNT.COUNT k = min (s.rd F.YG_LANE_DOWN_CNT.COUNT k + 1) (2 ^ 32 - 1) ∧
      bit (t.rd F.YG_ERR.BITS 0) Err.YG.LANE_DOWN = true ∧ s.Raised t 0 16 [k] ∧
      (x.cell.isSome = true → t.rd F.YG_LANE_TRUNC.COUNT k = min (s.rd F.YG_LANE_TRUNC.COUNT k + 1) (2 ^ 32 - 1))
    let codewords := [F.YG_LANE_CW.COUNT, F.YG_LANE_CORR_CW.COUNT, F.YG_LANE_CORR_SYM.COUNT, F.YG_LANE_UNCORR_CW.COUNT, F.YG_LANE_BAD_BLOCK.COUNT]
    (s.held = false → laneState s k = lnCW_LOCK →
      let n := if uncorr = true then 0 else if x.boundary = boundary then x.good + 1 else 1
      Completes (.codewordDecode k boundary levels eq) s fun t =>
        kept t ∧ (n < 4 → laneState t k = lnCW_LOCK ∧ (getLane t k).good = n ∧ (getLane t k).boundary = boundary) ∧
        (4 ≤ n → laneState t k = laneUP ∧ t.rd F.YG_LANE_STATUS.CW_LOCK k = 1 ∧ s.Raised t 0 15 [k] ∧ (getLane t k).bad = 0 ∧
          (getLane t k).repAt = s.el ∧ (getLane t k).winAt = s.el) ∧
        t.out = [] ∧ others t ∧ s.SameRegs t (codewords ++ cntFlds) [(F.YG_LANE_STATUS.STATE, k.val), (F.YG_LANE_STATUS.CW_LOCK, k.val)] ∧
        State.SameUnits { s with yg := { s.yg with lanes := t.yg.lanes } } t) ∧
    (s.held = false → laneState s k = laneUP → x.bad < 8 →
      let q := takeBlocks uncorr x blocks
      Completes (.codewordDecode k boundary levels eq) s fun t =>
        kept t ∧ t.rd F.YG_LANE_EQ.VGA k = eq.vga % 256 ∧ (∀ e ∈ tapFields.zip eq.taps, t.rd e.1 k = unsigned 8 e.2) ∧
        t.rd F.YG_LANE_CW.COUNT k = min (s.rd F.YG_LANE_CW.COUNT k + 1) (2 ^ 64 - 1) ∧
        (uncorr = true → t.rd F.YG_LANE_UNCORR_CW.COUNT k = min (s.rd F.YG_LANE_UNCORR_CW.COUNT k + 1) (2 ^ 32 - 1)) ∧
        (∀ n, result = .good n → n ≠ 0 → t.rd F.YG_LANE_CORR_CW.COUNT k = min (s.rd F.YG_LANE_CORR_CW.COUNT k + 1) (2 ^ 32 - 1) ∧
          t.rd F.YG_LANE_CORR_SYM.COUNT k = min (s.rd F.YG_LANE_CORR_SYM.COUNT k + n) (2 ^ 64 - 1) ∧ (getLane t k).winSym = x.winSym + n) ∧
        (getLane t k).cell = q.1.cell ∧ (getLane t k).ended = q.1.ended ∧ (getLane t k).bad = (if uncorr = true then x.bad + 1 else 0) ∧
        (q.2 ≠ 0 → t.rd F.YG_LANE_BAD_BLOCK.COUNT k = min (s.rd F.YG_LANE_BAD_BLOCK.COUNT k + q.2) (2 ^ 32 - 1)) ∧
        t.out = [] ∧ others t ∧ s.SameRegs t (codewords ++ cntFlds) ((F.YG_LANE_EQ.VGA, k.val) :: tapFields.map fun f => (f, k.val)) ∧ State.SameUnits { s with yg := { s.yg with lanes := t.yg.lanes } } t) ∧
    (s.held = false → laneState s k = laneUP → (cause ≠ .codewords ∨ 8 ≤ x.bad) → Completes (.laneDown k cause) s fun t =>
      laneState t k = lnSIGNAL_WAIT ∧ announced t ∧ t.rd F.YG_LANE_STATUS.CW_LOCK k = 0 ∧ t.rd F.YG_LANE_STATUS.CDR_LOCK k = 0 ∧
      (cause = .signal → t.rd F.YG_LANE_STATUS.LOS k = 1) ∧
      (let y := { x with counts := if x.cell.isSome then x.counts.set 4 (x.counts.getD 4 0 + 1) else x.counts }
       burst t (laneReport { t with yg := { s.yg with lanes := Tab.put s.yg.lanes k y } } k)) ∧
      getLane t k = { x with cell := none, counts := [0, 0, 0, 0, 0], good := 0, bad := 0, repAt := s.el, train := { x.train with stateAt := s.el },
                             scram := (getLane t k).scram } ∧
      others t ∧ (s.rd F.BELV_EYE_STATUS.STATE k = 1 → t.rd F.BELV_EYE_STATUS.STATE k = 3 ∧ t.rd F.BELV_EYE_STATUS.CAUSE k = 2) ∧
      State.SameUnits { s with yg := { s.yg with lanes := t.yg.lanes }, sd := t.sd, acs := t.acs } t) ∧
    (s.held = false → lnCDR ≤ laneState s k → laneState s k ≤ lnCW_LOCK → Completes (.trainTimeout k) s fun t =>
      laneState t k = lnTRAIN_FAIL ∧ s.Later t (x.train.timerAt + 50 * msUnits - s.el) ∧ (getLane t k).train.stateAt = t.el ∧
      t.rd F.YG_LANE_TRAIN_FAIL.COUNT k = min (s.rd F.YG_LANE_TRAIN_FAIL.COUNT k + 1) (2 ^ 32 - 1) ∧
      bit (t.rd F.YG_ERR.BITS 0) Err.YG.TRAIN_FAIL = true ∧ s.Raised t 0 18 [k] ∧ others t ∧
      t.out.length = (if laneState s k = lnTX_TRAIN then codewordsBy { t with yg := s.yg } k - x.train.sent else 0) ∧
      (∀ o ∈ t.out, ∃ r, o = .report k r) ∧
      s.SameRegs t (F.YG_LANE_TRAIN_FAIL.COUNT :: F.YG_LANE_TRUNC.COUNT :: Err.YG.unit.flds ++ cntFlds)
        [(F.YG_LANE_STATUS.STATE, k.val), (F.YG_LANE_STATUS.CW_LOCK, k.val), (F.YG_LANE_STATUS.CDR_LOCK, k.val)] ∧
      State.SameUnits { s with yg := { s.yg with lanes := t.yg.lanes }, tb := t.tb, el := t.el } t) ∧
    (s.held = false → laneState s k = lnTRAIN_FAIL → Completes (.trainFailRetry k) s fun t =>
      laneState t k = lnSIGNAL_WAIT ∧ s.Later t (x.train.stateAt + 10 * msUnits - s.el) ∧ t.out = [] ∧
      getLane t k = { x with train := { x.train with stateAt := t.el } } ∧ others t ∧
      s.SameRegs t cntFlds [(F.YG_LANE_STATUS.STATE, k.val)] ∧
      State.SameUnits { s with yg := { s.yg with lanes := t.yg.lanes }, tb := t.tb, el := t.el } t) ∧
    (s.hostReaches → domState s (28 + k / 4) ≠ pdOFF → writeReserved s (F.YG_LANE_CTL.RETRAIN.addr + F.YG_LANE_CTL.RETRAIN.stride * k.val) (setBit data.toNat 8) = false →
      (s.dpStopped = true → Completes (.retrain k data) s fun t =>
        t.rd F.YG_LANE_CTL.ROLE k = bits data.toNat 0 2 ∧ t.rd F.YG_LANE_CTL.PRECODE k = bits data.toNat 4 1 ∧
        t.rd F.YG_LANE_CTL.TXEQ_SKIP k = bits data.toNat 5 1 ∧ t.rd F.YG_LANE_CTL.COLD_TRAIN k = bits data.toNat 6 1 ∧
        laneState t k = (if effRole t k ≠ 0 ∧ domOn s (28 + k / 4) = true then lnSIGNAL_WAIT else lnOFF) ∧
        (laneState s k = laneUP → announced t ∧ ∃ r, burst t r) ∧ (laneState s k ≠ laneUP → laneState s k ≠ lnTX_TRAIN → t.out = []) ∧
        (laneState s k ≠ lnOFF → (getLane t k).cell = none) ∧ others t ∧
        State.SameUnits { s with yg := { s.yg with lanes := t.yg.lanes }, sd := t.sd, acs := t.acs } t) ∧
      (s.dpStopped = false → laneState s k ≠ lnOFF → Completes (.retrain k data) s fun t =>
        bit (t.rd F.YG_ERR.BITS 0) Err.YG.CFG_IGNORED = true ∧ laneState t k = laneState s k ∧ t.out = [] ∧
        s.SameRegs t Err.YG.unit.flds [] ∧ s.SameUnits t))

/-- An UP lane reports at its interval with its counts, which start anew, in a burst of the wake pattern, 16 IDLE codewords, the report's
codeword, two more and electrical idle (R98, Table 4-6); each 1 ms window whose corrected symbols exceed THRESH makes it DEGRADED until
100 windows in a row do not (R103; the windows of a lane begin when it comes UP, log entry 101); its frequency offset is taken each
millisecond (R95). -/
def Obligations.LanesReport : Prop :=
  ∀ (s : State) (k : Fin 64) (values : List Int), s.held = false →
    let x := getLane s k
    let thresh := s.rd F.YG_DEGRADE.THRESH 0
    let others : State → Prop := fun t => ∀ j, j ≠ k.val → getLane t j = getLane s j
    (laneState s k = laneUP → Completes (.reportBurst k) s fun t =>
      s.Later t (x.repAt + s.rd F.YG_CFG.REPORT_INTERVAL 0 * 100 * usUnits - s.el) ∧
      (let r := laneReport { t with yg := s.yg } k
       let line := encodeCodewords x.scram (List.replicate 16 idleBlocks ++ [reportBlocks r] ++ List.replicate 2 idleBlocks)
       let l := if s.rd F.YG_LANE_CTL.PRECODE k = 1 then precode 0 line.2 else line.2
       t.out = [.burst k r [(0, .wake), (2000, .levels (l.take 43520)), (10192, .levels ((l.drop 43520).take 2720)),
         (10704, .levels (l.drop 46240)), (11728, .idle)]] ∧
       getLane t k = { x with counts := [0, 0, 0, 0, 0], repAt := t.el, scram := line.1 }) ∧ others t ∧
      s.SameRegs t cntFlds [] ∧ State.SameUnits { s with yg := { s.yg with lanes := t.yg.lanes }, tb := t.tb, el := t.el } t) ∧
    (laneState s k = laneUP → Completes (.degradeWindow k) s fun t =>
      s.Later t (x.winAt + msUnits - s.el) ∧ laneState t k = laneUP ∧
      getLane t k = { x with winSym := 0, winAt := t.el, quiet := if thresh < x.winSym then 0 else x.quiet + 1 } ∧ others t ∧
      (thresh < x.winSym → t.rd F.YG_LANE_STATUS.DEGRADED k = 1 ∧
        (s.rd F.YG_LANE_STATUS.DEGRADED k ≠ 1 → s.Raised t 0 17 [k] ∧ bit (t.rd F.YG_ERR.BITS 0) Err.YG.LANE_DEGRADED = true)) ∧
      (x.winSym ≤ thresh → t.rd F.YG_LANE_STATUS.DEGRADED k = if 99 ≤ x.quiet then 0 else s.rd F.YG_LANE_STATUS.DEGRADED k) ∧
      t.out = [] ∧ s.SameRegs t (Err.YG.unit.flds ++ cntFlds) [(F.YG_LANE_STATUS.DEGRADED, k.val)] ∧
      State.SameUnits { s with yg := { s.yg with lanes := t.yg.lanes }, tb := t.tb, el := t.el } t) ∧
    (Completes (.ppmUpdate values) s fun t =>
      t.tb = nextMultiple s msUnits ∧ s.Later t (t.tb - s.tb) ∧
      (∀ j, j < 64 → t.rd F.YG_LANE_STATUS.PPM j =
        if s.rd F.YG_LANE_STATUS.CDR_LOCK j = 1 then unsigned 16 (sat (values.getD j 0) 16) else s.rd F.YG_LANE_STATUS.PPM j) ∧
      t.out = [] ∧ s.SameRegs t (F.YG_LANE_STATUS.PPM :: cntFlds) [] ∧ State.SameUnits { s with tb := t.tb, el := t.el } t)

/-- The oldest cell that ended on a lane is checked: the first check of Table 4-4 that fails counts it (R88); one of no source is counted
(Table 5-2, check 1); a second copy is dropped by the duplicate filter, which is cleared for an entry that becomes valid (R108), and counted
as a late twin when its slice of the run is released (R90, R93); a test cell goes to the pattern checker (R122); a cell of the stream is discarded in
IDLE, and when its slice is released (checks 4, 9). -/
def Obligations.CellsAreChecked : Prop :=
  ∀ (s : State) (k : Fin 64) (cell : LaneCell) (rest : List LaneCell), s.held = false → (getLane s k).ended = cell :: rest →
    let up : Fld → Nat → State → Prop := fun f j t => t.rd f j = min (s.rd f j + 1) (2 ^ f.width - 1)
    let c := parseCell cell.bytes
    let role := effRole s k
    let filtered : State → Prop := fun t => (getLane t k).ended = rest ∧ up F.YG_LANE_CELLS.COUNT k t ∧ t.out = [] ∧
      s.SameOutside t RegMap.yargilLo RegMap.gatehouseHi
        (F.LODGE_SRAM_UNCORR.COUNT :: F.GLOBAL_DP_STATE.HORIZON_VALID :: F.ACC_BANK_FLAGS.FLAGS :: Err.PO.unit.flds) ∧
      State.SameUnits { s with yg := t.yg, acs := t.acs, glob := t.glob, lo := t.lo } t
    let dropped : State → Prop := fun t => filtered t ∧ t.gh = s.gh
    (∀ f sramBad, cellFault cell = some f → Completes (.cellReceive k sramBad) s fun t =>
      up f k t ∧ (getLane t k).ended = rest ∧ (getLane t k).counts = (getLane s k).counts.set 4 ((getLane s k).counts.getD 4 0 + 1) ∧
      (∀ j, j ≠ k.val → getLane t j = getLane s j) ∧ t.out = [] ∧ s.SameRegs t cntFlds [(f, k.val)] ∧
      State.SameUnits { s with yg := { s.yg with lanes := t.yg.lanes } } t) ∧
    (cellFault cell = none →
      (∀ sramBad, sourceOf s (sourceBank s c.csi) c.source = none → Completes (.cellReceive k sramBad) s fun t =>
        dropped t ∧ up F.GH_UNKNOWN_SOURCE.COUNT 0 t ∧ s.SameRegs t cntFlds [(F.YG_LANE_CELLS.COUNT, k.val), (F.GH_UNKNOWN_SOURCE.COUNT, 0)] ∧
        State.SameUnits { s with yg := { s.yg with lanes := t.yg.lanes } } t) ∧
      (∀ e, sourceOf s (sourceBank s c.csi) c.source = some e →
        let u := freshFilter s e c.csi
        (∀ sramBad old, (getFilter u e).established = true → Tab.find (getFilter u e).seen c.seq = some old →
          signed 32 (unsigned 32 ((c.seq : Int) - (getFilter u e).h)) ≤ 0 → -4096 < signed 32 (unsigned 32 ((c.seq : Int) - (getFilter u e).h)) →
          Completes (.cellReceive k sramBad) s fun t =>
            dropped t ∧ up F.YG_SRC_DUP.COUNT e t ∧ getFilter t e = { getFilter u e with
              seen := Tab.put (getFilter u e).seen c.seq (old ||| roleMark role), staleRun := 0 } ∧
            (∀ ch, deviceChan s c = some ch → dpARMED ≤ s.dp → s.gh.firstSlice ≤ c.csi / s.sCell → c.csi / s.sCell < frontOf s ch →
              up F.YG_SRC_LATE_TWIN.COUNT e t ∧ bit (t.rd F.YG_ERR.BITS 0) Err.YG.LATE_TWIN = true ∧ t.lo.lateTwinAt = some s.tb)) ∧
        ((dupFilter u e c role).1 = true →
          (Completes (.cellReceive k true) s fun t => dropped t ∧ up F.LODGE_SRAM_UNCORR.COUNT 0 t) ∧
          ((c.group < (sourceEntry s (sourceBank s c.csi) e).base ∨
              (sourceEntry s (sourceBank s c.csi) e).base + (sourceEntry s (sourceBank s c.csi) e).count ≤ c.group) →
            Completes (.cellReceive k false) s fun t => dropped t ∧ up F.GH_GROUP_MISMATCH.COUNT 0 t) ∧
          ((sourceEntry s (sourceBank s c.csi) e).base ≤ c.group →
            c.group < (sourceEntry s (sourceBank s c.csi) e).base + (sourceEntry s (sourceBank s c.csi) e).count →
            (c.fmt ≠ (if s.mode4 then 2 else 1) → Completes (.cellReceive k false) s fun t => dropped t ∧ up F.GH_FMT_MISMATCH.COUNT 0 t) ∧
            (c.fmt = (if s.mode4 then 2 else 1) → c.test = true → Completes (.cellReceive k false) s fun t =>
              dropped t ∧ t.glob = u.glob ∧ up F.GH_PAT_CELLS.COUNT 0 t) ∧
            (c.fmt = (if s.mode4 then 2 else 1) → c.test = false → s.dp = dpIDLE → Completes (.cellReceive k false) s fun t =>
              dropped t ∧ up F.GH_IDLE_DISCARD.COUNT 0 t ∧ t.glob = { u.glob with hCsi := some (max (c.csi + s.sCell - 1) (s.glob.hCsi.getD 0)) }) ∧
            (∀ ch, c.fmt = (if s.mode4 then 2 else 1) → c.test = false → s.dp = dpRUNNING → deviceChan s c = some ch → c.csi % s.sCell = 0 →
              s.gh.firstSlice * s.sCell ≤ c.csi → c.csi / s.sCell < frontOf s ch → Completes (.cellReceive k false) s fun t =>
                dropped t ∧ t.glob = u.glob ∧ up F.GH_LATE.COUNT 0 t ∧ up F.GH_SRC_LATE.COUNT e t)))))

/-- A cell that passes every check lands: counted, kept for its slot and written at its place in the landing ring (which place and which
4,132 bytes: log entry 60), its slice's window open, the horizon raised (R58, R110, R113, R422). The
oldest slice of a channel whose window has been open for W is released (R114). A stream that releases nothing for its time stalls, and a
stall that is filled releases the oldest slice of every channel that has one (R117). -/
def Obligations.CellsLandAndSlicesGo : Prop :=
  ∀ (s : State) (k : Fin 64) (c : Fin 32), s.held = false →
    let up : Fld → Nat → State → Prop := fun f j t => t.rd f j = min (s.rd f j + 1) (2 ^ f.width - 1)
    let flags := F.ACC_BANK_FLAGS.FLAGS :: Err.PO.unit.flds
    let released : State → Prop := fun t => t.gh.landed = s.gh.landed ∧ t.out = [] ∧
      s.SameOutside t RegMap.gatehouseLo RegMap.gatehouseHi flags ∧
      State.SameUnits { s with gh := t.gh, acs := t.acs, sd := { s.sd with untraced := t.sd.untraced }, tb := t.tb, el := t.el } t
    (∀ cell rest e ch, (getLane s k).ended = cell :: rest → cellFault cell = none →
      let x := parseCell cell.bytes
      let at_ := regionBase s (s.rd F.GH_REGIONS.LANDING_REGION 0) + 4132 * freePlace s
      let bs := landedBytes x
      let src := sourceEntry s (sourceBank s x.csi) e
      let slice := x.csi / s.sCell
      sourceOf s (sourceBank s x.csi) x.source = some e → (dupFilter (freshFilter s e x.csi) e x (effRole s k)).1 = true → src.base ≤ x.group →
      x.group < src.base + src.count → x.fmt = (if s.mode4 then 2 else 1) → x.test = false →
      (s.dp = dpARMED ∨ s.dp = dpRUNNING ∨ (s.dp = dpSTOPPING ∧ x.csi < s.glob.stopAt)) → deviceChan s x = some ch → x.csi % s.sCell = 0 →
      s.gh.firstSlice * s.sCell ≤ x.csi → frontOf s ch ≤ slice →
      x.csi - frontOf s ch * s.sCell < samplesIn s x.csi (s.inForce F.GH_WINDOW.W 0 * 100 * usUnits) → ringRoom s = true →
      slotLanded s x.group ch slice = false → Completes (.cellReceive k false) s fun t =>
        t.gh.landed = s.gh.landed ++ [{ grp := x.group, chan := ch, slice := slice, mute := x.mute, payload := if x.mute then [] else x.payload,
                                        place := freePlace s }] ∧
        (s.rd F.GLH_STATUS.STACK_FAILED 0 = 0 → Memory.wf s.hbm = true → Memory.wf t.hbm = true ∧ t.hbmRead at_ bs.length = bs ∧
          ∀ a, a < at_ ∨ at_ + bs.length ≤ a → Memory.get t.hbm a = Memory.get s.hbm a) ∧
        up F.GH_LANDED.COUNT 0 t ∧ up F.GH_SRC_LANDED.COUNT e t ∧
        t.glob = { (freshFilter s e x.csi).glob with hCsi := some (max (x.csi + s.sCell - 1) (s.glob.hCsi.getD 0)) } ∧ t.rd F.GLOBAL_DP_STATE.HORIZON_VALID 0 = 1 ∧
        (windowOf t slice).isSome = true ∧ (∀ j, frontOf s j ≤ frontOf t j) ∧ (getLane t k).ended = rest ∧ t.out = [] ∧
        s.SameOutside t RegMap.yargilLo RegMap.gatehouseHi (F.GLOBAL_DP_STATE.HORIZON_VALID :: flags) ∧
        State.SameUnits { s with yg := t.yg, gh := t.gh, acs := t.acs, glob := t.glob, sd := { s.sd with untraced := t.sd.untraced },
                                 hbm := t.hbm, gl := { s.gl with bad := t.gl.bad } } t) ∧
    (∀ w, dpARMED ≤ s.dp → sliceExists s c (frontOf s c) = true → windowOf s (frontOf s c) = some w → Completes (.sliceWindowExpire c) s fun t =>
      frontOf s c < frontOf t c ∧ (∀ j, j ≠ c.val → frontOf t j = frontOf s j) ∧ s.Later t (w.at_ + w.w - s.el) ∧ t.gh.lastRelease = t.el ∧
      t.rd F.GH_FRONT.FRONT 0 = frontMin t % 2 ^ 64 ∧ released t) ∧
    (s.dp = dpRUNNING → s.rd F.GH_STATUS.STALLED 0 = 0 → Completes .ingestStall s fun t =>
      t.rd F.GH_STATUS.STALLED 0 = 1 ∧ bit (t.rd F.GH_ERR.BITS 0) Err.GH.STALL = true ∧ s.Raised t 0 12 [] ∧
      s.Later t (s.gh.lastRelease + s.rd F.GH_STALL.TIMEOUT 0 * msUnits - s.el) ∧ t.out = [] ∧
      s.SameRegs t (Err.GH.unit.flds ++ cntFlds) [(F.GH_STATUS.STALLED, 0)] ∧ State.SameUnits { s with tb := t.tb, el := t.el } t) ∧
    (s.rd F.GH_STATUS.STALLED 0 = 1 → s.rd F.GH_CFG.STALL_FILL 0 = 1 → s.dp = dpRUNNING → waitingChans s ≠ [] → Completes .stallFillRelease s fun t =>
      let slice := minOf ((waitingChans s).map (frontOf s))
      let due := timeOf s ((slice + 1) * s.sCell : Nat) + (s.inForce F.GH_WINDOW.W 0 * 100 * usUnits : Nat)
      t.rd F.GH_STATUS.FILLING 0 = 1 ∧ t.tb = max s.tb due.toNat ∧ s.Later t (t.tb - s.tb) ∧
      (∀ j, frontOf t j = if j ∈ waitingChans s ∧ frontOf s j = slice then slice + 1 else frontOf s j) ∧ released t)

/-- One fine spectrum is computed from the released samples and written to the corner-turn buffer with its valid bit (R137, R142, R146,
R147); it is counted, suppressed while the history settles, and invalid when an input was missing (R120, R143) or a table word that it uses
is uncorrectable (R285); where nothing spoils it the samples written are those of the transform. -/
def Obligations.SpectraAreWritten : Prop :=
  ∀ (s : State) (i : Fin 4096) (c : Fin 32) (sramBad : Bool), s.held = false →
    let q := nextSpectrum s i c
    let x := spectrumAt s q
    let settling := decide (q < x.s0 + x.P * x.M)
    let gv := (List.range x.P).all fun p => decide (p * x.M ≤ q) && gvalid s i c x.M x.hist (q - p * x.M)
    let lost := sramBad || prismWordBad s x i c
    let ok := gv && !settling && !lost
    let joined := (connected s q).any fun ge => decide (ge.1 = i / 16)
    let vb := vbAddr s x c i
    let ct := fun kk => ctAddr s x (c * x.M + kk) i
    let up : Fld → State → Prop := fun f t => t.rd f 0 = min (s.rd f 0 + 1) (2 ^ f.width - 1)
    spectrumReady s i c q = true → Completes (.prismSpectrum i c sramBad) s fun t =>
      nextSpectrum t i c = q + x.M ∧ (∀ j d, (j, d) ≠ (i.val, c.val) → nextSpectrum t j d = nextSpectrum s j d) ∧
      up F.PR_SPECTRA.COUNT t ∧ (settling = true → up F.PR_SETTLE_SUPP.COUNT t) ∧
      (settling = false → joined = true → gv = false → up F.PR_INVALID.COUNT t) ∧
      (lost = true → up F.PR_INVALID.COUNT t) ∧ (sramBad = true → up F.LODGE_SRAM_UNCORR.COUNT t) ∧
      (s.rd F.GLH_STATUS.STACK_FAILED 0 = 0 → Memory.wf s.hbm = true →
        Memory.wf t.hbm = true ∧ bit (Memory.get t.hbm vb).toNat (i % 8) = ok ∧
        (∀ b, b < 8 → b ≠ i % 8 → (∀ kk, kk < x.M → vb < ct kk ∨ ct kk + s.hBytes ≤ vb) →
          bit (Memory.get t.hbm vb).toNat b = bit (Memory.get s.hbm vb).toNat b) ∧
        ((∀ kk, kk < x.M → vb < ct kk ∨ ct kk + s.hBytes ≤ vb) → ∀ kk, kk < x.M →
          t.hbmRead (ct kk) s.hBytes = sampleBytes s.mode4 (if ok then (fineSpectrum s x i c q).1.getD kk (0, 0) else (0, 0))) ∧
        (∀ a, a ≠ vb → (∀ kk, kk < x.M → a < ct kk ∨ ct kk + s.hBytes ≤ a) → Memory.get t.hbm a = Memory.get s.hbm a)) ∧
      t.out = [] ∧ s.SameOutside t RegMap.prismLo RegMap.prismHi (F.LODGE_SRAM_UNCORR.COUNT :: F.ACC_BANK_FLAGS.FLAGS :: Err.PO.unit.flds) ∧
      State.SameUnits { s with px := t.px, gh := { s.gh with freed := t.gh.freed, landed := t.gh.landed }, acs := t.acs,
                               lo := { s.lo with counts := t.lo.counts }, hbm := t.hbm, gl := { s.gl with bad := t.gl.bad } } t

/-- A channel block is fetched into the released half of the Orangery with the bytes of the corner-turn and valid-bitmap halves (R146, R147,
R157); its read completes, with the blocks of poisoned words marked, and frees the corner-turn half after the last (R29); it begins, with
its window of the Lens (R157, R230); its block slots begin in order with a live run of every block (R161, R166; that a command carries the
clocks waited for the broadcast of the slot before is log entry 57); and a tail is streamed when a run needs one (R168). -/
def Obligations.BlocksAreFetchedAndRun : Prop :=
  ∀ (s : State) (h : Nat) (o : Orangery) (poison : List Nat) (met : StreamMet), s.held = false →
    let up : Fld → State → Prop := fun f t => t.rd f 0 = min (s.rd f 0 + 1) (2 ^ f.width - 1)
    let n := s.N * s.hBytes * s.T
    let m := s.T * s.N / 8
    let a := regionBase s (s.rd F.PR_REGIONS.CT_REGION 0) + s.acs.cyc % 2 * (n * s.F) + s.pv.nextF * n
    let b := regionBase s (s.rd F.PR_REGIONS.VB_REGION 0) + s.acs.cyc % 2 * (s.C * m) + s.pv.nextF / s.M * m
    let u := settleSlot (bcastWaits { s with out := [] } met.waits)
    let busy := (s.pv.runs.filter fun r => r.late).map fun r => r.pav
    let blocked := tileHeld (startSlot u s.pv.order busy met.faults) o.cyc o.f s.pv.order
    let kept : State → Prop := fun t => t.out = [] ∧ t.hbm = s.hbm ∧ t.tables = s.tables ∧ t.act = s.act ∧ t.tb = s.tb ∧ t.el = s.el ∧
      t.glob = s.glob ∧ t.gh = s.gh ∧ t.le = s.le ∧ t.dp = s.dp ∧ t.pv.halves = s.pv.halves ∧ t.pv.cur = s.pv.cur ∧
      t.rd F.PAV_BLOCK_SLOT.G 0 = (if s.pv.settled then s.rd F.PAV_BLOCK_SLOT.G 0 else (s.rd F.PAV_BLOCK_SLOT.G 0 + 1) % 2 ^ 64) ∧
      s.SameOutside t RegMap.pavilionLo RegMap.pavilionHi ([F.LODGE_AUDIT_MISM.COUNT, F.LODGE_AUDIT_FAULT.COUNT, F.LODGE_AUDIT.G,
        F.LODGE_STATUS.SUSPECT_OPEN, F.LODGE_REFEREE.COUNT, F.LODGE_SRAM_UNCORR.COUNT, F.ACC_BANK_FLAGS.FLAGS] ++ Err.PO.unit.flds)
    (fetchReady s = true → Completes .channelBlockFetch s fun t =>
      t.out = [] ∧ s.SameRegs t [] [] ∧ State.SameUnits { s with pv := t.pv } t ∧
      ∃ r : Orangery, r.cyc = s.acs.cyc ∧ r.f = s.pv.nextF ∧ r.ready = false ∧ r.bad = [] ∧
        (∀ j, j < n → Memory.get r.samples j = Memory.get s.hbm (a + j)) ∧ (∀ j, j < m → Memory.get r.valids j = Memory.get s.hbm (b + j)) ∧
        t.pv = { s.pv with fetch := some (s.pv.nextF % 2), nextF := s.pv.nextF + 1, halves := Tab.put s.pv.halves (s.pv.nextF % 2) r }) ∧
    (s.pv.fetch = some h → Tab.find s.pv.halves h = some o → hung s 3 = false → Completes (.fetchComplete poison) s fun t =>
      let bad := poison ++ badBlocks s o
      t.pv = { s.pv with fetch := none, halves := Tab.put s.pv.halves h { o with ready := true, bad := bad } } ∧
      (quiet s = true → up F.PAV_FETCH_WAIT.COUNT t) ∧
      (bad ≠ [] → bit (t.rd F.LODGE_ERR.BITS 0) Err.LODGE.DRAM_UNCORR = true ∧ s.Raised t 0 29 [pair Err.LODGE.DRAM_UNCORR 0]) ∧
      t.px = (if o.f + 1 = s.F then { s.px with fetched := o.cyc + 1 } else s.px) ∧ t.out = [] ∧
      s.SameRegs t (F.PAV_FETCH_WAIT.COUNT :: cntFlds) [] ∧ State.SameUnits { s with pv := t.pv, px := t.px } t) ∧
    (nextHalf s = some h → Tab.find s.pv.halves h = some o → quiet s = true → dpRUNNING ≤ s.dp → Completes .channelBlockBegin s fun t =>
      t.pv.cur = some h ∧ t.pv.halves = [(h, o)] ∧ t.pv.order = 0 ∧ t.pv.settled = true ∧ t.pv.waited = false ∧
      (o.f % s.M = 0 → t.pv.held = []) ∧ t.le.isOpen = true ∧ t.le.cyc = o.cyc ∧ t.le.f = o.f ∧ t.le.act = s.act ∧
      t.le.fsi = s.E + (o.cyc - s.acs.epochCyc) * s.T ∧ t.dp = s.dp ∧ t.act = s.act ∧ t.tables = s.tables ∧ t.tb = s.tb ∧ t.gh = s.gh ∧
      (s.le.isOpen = false → s.le.ahead = [] → o.f ≠ 0 → s.pv.settled = true →
        t.out = [] ∧ s.SameRegs t [] [] ∧ State.SameUnits { s with pv := t.pv, le := t.le } t)) ∧
    (dpRUNNING ≤ s.dp → s.pv.order < s.q → curHalf s = some o →
      (blocked ≠ [] → Completes (.blockSlotBegin met) s fun t =>
        kept t ∧ t.pv.settled = true ∧ t.pv.order = s.pv.order ∧ t.pv.waited = true ∧
        (s.pv.waited = false → up F.PAV_COMMIT_WAIT.COUNT t ∧ bit (t.rd F.PAV_ERR.BITS 0) Err.PAV.COMMIT_WAIT = true)) ∧
      (blocked = [] → Completes (.blockSlotBegin met) s fun t =>
        kept t ∧ t.pv.settled = false ∧ t.pv.order = s.pv.order + 1 ∧ t.pv.waited = false ∧
        (∀ x ∈ blocksAt s s.pv.order,
          let own := met.faults.filter fun f => decide (f.pav = hostOf s x.1)
          { duty := .live, pav := hostOf s x.1, logical := x.1, beta := x.2, order := s.pv.order, faults := own } ∈ t.pv.runs))) ∧
    (dpRUNNING ≤ s.dp → s.pv.order = s.q → curHalf s = some o → (s.pv.settled = false ∨ s.pv.runs ≠ [] ∨ s.pv.tail ≠ []) →
      Completes (.tailStream met) s fun t =>
        kept t ∧ t.pv.settled = true ∧ t.pv.order = s.pv.order ∧ t.pv.runs = [] ∧
        (u.pv.runs = [] ∧ u.pv.tail = [] → t.rd F.PAV_TAILS.COUNT 0 = s.rd F.PAV_TAILS.COUNT 0) ∧
        (u.pv.runs ≠ [] ∨ u.pv.tail ≠ [] → t.pv.waiting = [] ∧ up F.PAV_TAILS.COUNT t))

/-- The commit unit adds the tile image at the head of its queue: each value of the block becomes the sum of the old one, or 0 for an
untouched block, and the image's, with saturation codes (R180, R184), and a tally count its saturated sum (R186); the block is touched and
the image waits for its writes (R178, R181). The oldest of those retires (R161). -/
def Obligations.ImagesAreCommitted : Prop :=
  ∀ (s : State) (img : Img) (rest : List Img) (poison tally : List Nat) (touchBad : Bool), s.held = false →
    let x := img.bank
    let key := touchKey img.beta img.f
    let va := fun b => bankBase s x + (img.f * s.Nb + b) * s.wBytes
    let up : Fld → State → Prop := fun f t => t.rd f 0 = min (s.rd f 0 + 1) (2 ^ f.width - 1)
    (s.pv.queue = img :: rest → hung s 4 = false →
      (Completes (.commitImage poison tally touchBad) s fun t =>
        t.pv.queue = rest ∧ img ∈ t.pv.issued ∧ up F.ACC_IMAGES.COUNT t ∧ (getBank t x).touched.contains key = true ∧
        (img.withTally = true → (getBank t x).touchedTally.contains (touchKey img.beta (img.f / s.M)) = true) ∧
        ((overlapping s img).isSome = true → up F.ACC_ADDR_WAIT.COUNT t) ∧
        (touchBad = true → bit (t.rd F.ACC_ERR.BITS 0) Err.ACC.UNCORR = true ∧ up F.LODGE_SRAM_UNCORR.COUNT t) ∧
        t.out = [] ∧ s.SameOutside t RegMap.accumLo RegMap.accumHi (F.LODGE_SRAM_UNCORR.COUNT :: Err.PO.unit.flds) ∧
        State.SameUnits { s with pv := { s.pv with queue := t.pv.queue, issued := t.pv.issued }, acs := t.acs, hbm := t.hbm,
                                 gl := { s.gl with bad := t.gl.bad }, lo := { s.lo with counts := t.lo.counts } } t) ∧
      (img.beta < 8256 → s.sound = true → Memory.wf s.hbm = true → ((getBank s x).touched.contains key = true ∨ (getBank s x).preload = none) →
        img.withTally = false → Completes (.commitImage [] [] false) s fun t =>
          Memory.wf t.hbm = true ∧
          (∀ e ∈ committedCells img.beta, readValue t (bankBase s x) img.f e.2 =
            (addComp s.cwBits (oldValue s x img.beta img.f e.2).1 ((Tab.find img.cells e.1).getD (0, 0)).1,
             addComp s.cwBits (oldValue s x img.beta img.f e.2).2 ((Tab.find img.cells e.1).getD (0, 0)).2)) ∧
          (∀ a, (∀ e ∈ committedCells img.beta, a < va e.2 ∨ va e.2 + s.wBytes ≤ a) → Memory.get t.hbm a = Memory.get s.hbm a)) ∧
      (img.beta < 8256 → s.sound = true → Memory.wf s.hbm = true → img.withTally = true → (getBank s x).preTally = none →
        (getBank s x).touchedTally.contains (touchKey img.beta (img.f / s.M)) = false → Completes (.commitImage [] [] false) s fun t =>
          ∀ e ∈ committedCells img.beta, t.hbmNat (tallyBase s x + (img.f / s.M * s.Nb + e.2) * 4) 4 = tallyAdd 0 (Tab.getD img.counts e.1 0))) ∧
    (s.pv.issued = img :: rest → Completes .commitRetire s fun t =>
      t.pv = { s.pv with issued := rest } ∧ getBank t x = { getBank s x with outstanding := (getBank s x).outstanding - 1 } ∧
      (∀ y, y ≠ x → getBank t y = getBank s y) ∧ t.out = [] ∧ s.SameRegs t [] [] ∧
      State.SameUnits { s with pv := t.pv, acs := { s.acs with banks := t.acs.banks } } t)

/-- The run starts (R63, Table 3-3): ARMED to RUNNING, the captured configuration in force from the target, EPOCH_NUM counted, and the first
integration begun in bank A. A cycle ends (R31, Table 1-5): an integration that is not due goes on; a due one closes when the other bank
is free, which begins the next, and is stretched when it is not (R189 to R191); an epoch whose target it is comes in force (R59; the FSI
its event carries is log entry 102); a STOP ends the run; in a gap the cycle is counted until a bank is free (R196). -/
def Obligations.RunsStartAndCyclesEnd : Prop :=
  ∀ (s : State), s.held = false →
    let num := (s.rd F.GLOBAL_EPOCH_NUM.EPOCH_NUM 0 + 1) % 2 ^ 32
    let len := min (s.rd F.ACC_INTEG_LEN.LEN 0 + 1) (2 ^ 32 - 1)
    let due := decide (len % max 1 (s.ac F.ACC_INTEG.K 0) = 0) || decide (s.rd F.ACC_STATUS.DUMP_PENDING 0 = 1)
    let kept : State → Prop := fun t => t.tables = s.tables ∧ t.tb = s.tb ∧ t.el = s.el ∧ t.yg.lanes = s.yg.lanes ∧ t.eth = s.eth
    let next : State → Prop := fun t => kept t ∧ t.dp = dpRUNNING ∧ t.acs.cyc = s.acs.cyc + 1 ∧ t.pv.nextF = 0
    (∀ a, s.dp = dpARMED → s.glob.armed = some a → a.start = true → s.gh.started = true → Completes .runStart s fun t =>
      t.dp = dpRUNNING ∧ t.act = a.capt ∧ t.glob = { s.glob with armed := none, fresh := [] } ∧ t.rd F.GLOBAL_DP_STATE.ARMED 0 = 0 ∧
      t.rd F.GLOBAL_EPOCH_NUM.EPOCH_NUM 0 = num ∧ t.E = a.target % 2 ^ 64 ∧ t.acs.cyc = 0 ∧ t.acs.epochCyc = 0 ∧
      bankState t 0 = bkINTEG ∧ (getBank t 0).firstCycle = 0 ∧ t.rd F.ACC_BANK_START.FSI 0 = t.E ∧ t.rd F.ACC_INTEG_LEN.LEN 0 = 0 ∧
      t.rd F.ACC_STATUS.GAP 0 = 0 ∧ t.rd F.PAV_BLOCK_SLOT.G 0 = 0 ∧ bankState t 1 = bankState s 1 ∧ t.gh = s.gh ∧
      (s.le.isOpen = false → s.eye.pend = none → s.Raised t 0 1 [num, a.target] ∧ t.hbm = s.hbm ∧ kept t)) ∧
    (boundaryReady s = true →
      (∀ x, integBank s = some x → atTarget s = false →
        (due = false → Completes .cycleBoundary s fun t =>
          next t ∧ bankState t x = bkINTEG ∧ bankState t (1 - x) = bankState s (1 - x) ∧ t.rd F.ACC_INTEG_LEN.LEN 0 = len ∧
          t.rd F.ACC_BANK_CYCLES.COUNT x = len ∧ t.act = s.act ∧ t.glob = s.glob ∧
          t.rd F.GLOBAL_EPOCH_NUM.EPOCH_NUM 0 = s.rd F.GLOBAL_EPOCH_NUM.EPOCH_NUM 0 ∧ t.rd F.ACC_INTEG_NUM.NUM 0 = s.rd F.ACC_INTEG_NUM.NUM 0) ∧
        (due = true → bankState s (1 - x) = bkFREE → Completes .cycleBoundary s fun t =>
          next t ∧ bankState t x = bkCLOSED ∧ bankState t (1 - x) = bkINTEG ∧ t.rd F.ACC_INTEG_LEN.LEN 0 = 0 ∧
          t.rd F.ACC_INTEG_NUM.NUM 0 = (s.rd F.ACC_INTEG_NUM.NUM 0 + 1) % 2 ^ 32 ∧ t.rd F.ACC_BANK_END.FSI x = nextBoundary s % 2 ^ 64 ∧
          t.rd F.ACC_BANK_CYCLES.COUNT x = len ∧ (getBank t (1 - x)).firstCycle = s.acs.cyc + 1 ∧ t.rd F.ACC_STATUS.DUMP_PENDING 0 = 0 ∧
          t.act = s.act ∧ t.glob = s.glob) ∧
        (due = true → bankState s (1 - x) ≠ bkFREE → Completes .cycleBoundary s fun t =>
          next t ∧ bankState t x = bkINTEG ∧ bankState t (1 - x) = bankState s (1 - x) ∧ t.rd F.ACC_INTEG_LEN.LEN 0 = len ∧
          t.rd F.ACC_STRETCHES.COUNT 0 = min (s.rd F.ACC_STRETCHES.COUNT 0 + 1) (2 ^ 32 - 1) ∧
          bit (t.rd F.ACC_ERR.BITS 0) Err.ACC.STRETCH = true ∧ t.rd F.ACC_STATUS.STRETCHING 0 = 1 ∧ t.act = s.act ∧ t.glob = s.glob)) ∧
      (∀ a, atTarget s = true → s.glob.armed = some a → a.stop = false → Completes .cycleBoundary s fun t =>
        next t ∧ t.act = a.capt ∧ t.glob.armed = none ∧ t.rd F.GLOBAL_EPOCH_NUM.EPOCH_NUM 0 = num ∧ t.acs.epochCyc = s.acs.cyc + 1) ∧
      (∀ a, atTarget s = true → s.glob.armed = some a → a.stop = true → Completes .cycleBoundary s fun t =>
        kept t ∧ t.dp = (if bankState t 0 = bkFREE ∧ bankState t 1 = bkFREE then dpIDLE else dpSTOPPING) ∧ t.act = s.act ∧ t.glob.armed = none ∧
        t.glob.stopAt = a.target * s.M ∧ t.acs.cyc = s.acs.cyc ∧ t.rd F.GLOBAL_EPOCH_NUM.EPOCH_NUM 0 = s.rd F.GLOBAL_EPOCH_NUM.EPOCH_NUM 0 ∧
        (∀ x, integBank s = some x → bankState t x = bkCLOSED)) ∧
      (integBank s = none → inGap s = true → atTarget s = false → Completes .cycleBoundary s fun t =>
        next t ∧ t.rd F.ACC_GAP_CYCLES.COUNT 0 = min (s.rd F.ACC_GAP_CYCLES.COUNT 0 + 1) (2 ^ 32 - 1) ∧
        (bankState s (1 - s.acs.lastClosed) = bkFREE → t.rd F.ACC_STATUS.GAP 0 = 0 ∧
          bankState t (1 - s.acs.lastClosed) = bkINTEG ∧ t.rd F.ACC_INTEG_LEN.LEN 0 = 0) ∧
        (bankState s (1 - s.acs.lastClosed) ≠ bkFREE → t.rd F.ACC_STATUS.GAP 0 = 1 ∧ t.acs.gapCycles = s.acs.gapCycles + 1)))

/-- A closed bank whose adds have retired starts to drain (R193): its enabled streams begin with their headers fixed (R211), and with none
enabled the bank is free at once. The ports that can take the current frame of a stream take it, and when all of them have, the stream moves
on and counts it (R213, R214). A stream dump that is delivered ends, announcing what was amended, and the last one frees the bank (R203,
R211, R216). -/
def Obligations.PorticoExportsDumps : Prop :=
  ∀ (s : State) (i : Fin 4) (bad badTally : List Nat), s.held = false →
    let x := if drainable s 0 then 0 else 1
    let v : State := { s with po := { s.po with bank := x } }
    let st := getStream s i
    let len := frameLen s i
    let up : Fld → Nat → State → Prop := fun f j t => t.rd f j = min (s.rd f j + 1) (2 ^ f.width - 1)
    let states := [F.ACC_STATUS.A_STATE, F.ACC_STATUS.B_STATE, F.GLOBAL_DP_STATE.STATE, F.EYE_CAP_STATUS.STATE]
    let ends : State → Prop := fun t => (s.dp ≠ dpSTOPPING → t.dp = s.dp ∧ capState t = capState s ∧ t.eye = s.eye) ∧
      State.SameUnits { s with po := t.po, eye := { s.eye with cap := t.eye.cap } } t
    ((drainable s 0 = true ∨ drainable s 1 = true) →
      ((∃ j, j < 4 ∧ v.tag F.PO_STREAM_CTL.EN j = 1) → Completes .bankDrainStart s fun t =>
        bankState t x = bkDRAINING ∧ bankState t (1 - x) = bankState s (1 - x) ∧ t.po.bank = x ∧ t.po.seq = s.po.seq ∧
        (∀ j, j < 4 → v.tag F.PO_STREAM_CTL.EN j = 1 → t.rd F.PO_STREAM_STATUS.BUSY j = 1 ∧
          Tab.find t.po.streams j = some { header := dumpHeader v j, size := 128 + valueBytes v j + tallyBytes v j + rowBytes v j }) ∧
        (∀ j, j < 4 → v.tag F.PO_STREAM_CTL.EN j ≠ 1 → Tab.find t.po.streams j = none) ∧ t.out = [] ∧
        s.SameRegs t (F.ACC_STATUS.A_STATE :: F.ACC_STATUS.B_STATE :: F.PO_STREAM_STATUS.BUSY :: Err.PO.unit.flds) [] ∧
        State.SameUnits { s with po := t.po } t) ∧
      ((∀ j, j < 4 → v.tag F.PO_STREAM_CTL.EN j ≠ 1) → Completes .bankDrainStart s fun t =>
        bankState t x = bkFREE ∧ bankState t (1 - x) = bankState s (1 - x) ∧ t.po.streams = [] ∧ up F.PO_DUMPS.COUNT 0 t ∧
        s.Raised t 0 4 [(getBank s x).num] ∧ t.out = [] ∧ s.SameRegs t (F.PO_DUMPS.COUNT :: cntFlds ++ states) [] ∧ ends t)) ∧
    (streamLeft s i = true → (takers s i).isEmpty = false → Completes (.porticoFrameSend i bad badTally) s fun t =>
      let all := (streamPorts s i).all fun e => st.taken.contains e.1 || (takers s i).any fun q => decide (q.1 = e.1)
      (all = true → (getStream t i).off = st.off + len ∧ (getStream t i).taken = [] ∧ up F.PO_STREAM_FRAMES.COUNT i t ∧
        t.rd F.PO_STREAM_BYTES.COUNT i = min (s.rd F.PO_STREAM_BYTES.COUNT i + len) (2 ^ 64 - 1) ∧
        Tab.getD t.po.seq i 0 = (Tab.getD s.po.seq i 0 + 1) % 2 ^ 32) ∧
      (all = false → (getStream t i).off = st.off ∧ (∀ e ∈ takers s i, (getStream t i).taken.contains e.1 = true) ∧ t.po.seq = s.po.seq) ∧
      (∀ p h, takers s i = [(p, h)] → linkUp s p = true → portIdle s p = true → (getPort s p).ready = [] → s.sound = true → bad = [] → badTally = [] →
        ∃ f, (getPort t p).cur = some f ∧ f.sender = .portico i ∧ f.bytes = buildFrame s h (porticoPayload s i) ∧ f.stamp = s.tb) ∧
      (∀ p, (∀ e ∈ takers s i, e.1 ≠ p) → getPort t p = getPort s p) ∧ (∀ j, j ≠ i.val → getStream t j = getStream s j) ∧ t.out = [] ∧
      s.SameOutside t RegMap.porticoLo RegMap.porticoHi [F.ETH_TX_DISCARD.COUNT, F.ETH_PREEMPTIONS.COUNT, F.ETH_TX_THRESH.CUR] ∧
      State.SameUnits { s with po := t.po, eth := t.eth, force := t.force, tr := { s.tr with seqRoot := t.tr.seqRoot } } t) ∧
    (streamDelivered s i = true → Completes (.streamDumpComplete i) s fun t =>
      let num := (getBank s s.po.bank).num
      let fin := Tab.put s.po.streams i.val { st with fin := true }
      let amended := decide (st.bad ≠ [] ∨ st.badTally ≠ [])
      t.rd F.PO_STREAM_STATUS.BUSY i = 0 ∧
      (amended = true → s.Raised t 0 5 [num, flOVERFLOW_PRESENT, st.bad.length, i] ∧ bit (t.rd F.PO_ERR.BITS 0) Err.PO.AMEND = true) ∧
      ((fin.all fun e => e.2.fin) = true → bankState t s.po.bank = bkFREE ∧ t.po.streams = [] ∧ up F.PO_DUMPS.COUNT 0 t ∧
        s.Raised t (b2n amended) 4 [num]) ∧
      ((fin.all fun e => e.2.fin) = false → t.po.streams = fin ∧ bankState t 0 = bankState s 0 ∧ bankState t 1 = bankState s 1 ∧ t.dp = s.dp) ∧
      t.out = [] ∧ s.SameOutside t RegMap.porticoLo RegMap.porticoHi states ∧ ends t)

/-- The Lens: data arrives for a context, or loses it when poisoned (R232); a context whose turn it is is served and its record enters
its HBM ring or is dropped (R230, R234), or is lost for a word of its tables (R285). The Eyepiece: a cycle closes (R241); a capture is forced and released (R255, R256). The Trellis: at its deadline
a unit is forwarded with its absent children counted (R266, R267). -/
def Obligations.BeamsAreServedAndReduced : Prop :=
  ∀ (s : State) (k : Fin 16384) (poisoned : Bool) (full : Bool × Bool) (wait f fsi : Nat) (data : Word),
    let up : Fld → Nat → State → Prop := fun g n t => t.rd g 0 = min (s.rd g 0 + n) (2 ^ g.width - 1)
    let lost : State → Nat → Prop := fun t j => t.le.lost.contains j = true ∧
      (s.le.lost.contains j = false → up F.LENS_OVERRUN.COUNT (servedWith s s.le.act j).length t ∧ t.le.dropped = true ∧
        bit (t.rd F.LENS_ERR.BITS 0) Err.LENS.OVERRUN = true)
    let kept : State → Prop := fun t => t.tables = s.tables ∧ t.act = s.act ∧ t.tb = s.tb ∧ t.el = s.el ∧ t.dp = s.dp ∧ t.glob = s.glob ∧
      t.acs = s.acs ∧ t.pv = s.pv ∧ t.gh = s.gh
    (s.held = false → s.le.isOpen = true → (s.le.ahead.any fun e => decide (e.1 = k.val)) = false → Completes (.lensFetchReturn k poisoned true wait) s fun t =>
      t.le = { s.le with ahead := (k.val, poisoned || fetchBad s (nextBlock s).1 k (nextBlock s).2) :: s.le.ahead } ∧ t.out = [] ∧ s.SameRegs t [] [] ∧
      State.SameUnits { s with le := t.le } t) ∧
    (s.held = false → fetchDue s k = true → Completes (.lensFetchReturn k poisoned false wait) s fun t =>
      let bad := poisoned || fetchBad s s.le.act k s.le.f
      t.le.fetched = (k.val, bad) :: s.le.fetched ∧ t.le.wait = s.le.wait + wait ∧ up F.LENS_FETCH_WAIT.COUNT wait t ∧
      (bad = false → t.le.lost = s.le.lost ∧
        t.le.cache = (if lensWsrc s s.le.act k = true ∨ 64 ≤ s.le.cache.length then s.le.cache else lensTaper s s.le.act k :: s.le.cache) ∧
        t.out = [] ∧ s.SameRegs t (F.LENS_FETCH_WAIT.COUNT :: cntFlds) [] ∧ State.SameUnits { s with le := t.le } t) ∧
      (bad = true → lost t (if lensPair s s.le.act k = 2 then k - 1 else k)) ∧ kept t ∧ t.hbm = s.hbm) ∧
    (∀ o, s.held = false → serveReady s k = true → curHalf s = some o →
      let wordBad := (servedWith s s.le.act k).any fun j => lensWordBad s s.le.act j s.le.f
      (Completes (.lensContextDone k true full) s fun t => lost t k ∧ up F.LODGE_SRAM_UNCORR.COUNT 1 t ∧ kept t) ∧
      (wordBad = true → Completes (.lensContextDone k false full) s fun t => lost t k ∧ kept t) ∧
      (wordBad = false → Completes (.lensContextDone k false full) s fun t =>
        let b := (beamOf s o k).2
        let rec_ := recordBytes s s.le.act k s.le.f s.le.fsi s.le.epochNum (s.le.discont.contains k.val) b (formatOut s s.le.act k b.sums).1
        let r := lensDir s s.le.act k 40 1 % 16
        let size := lensRingSize s s.le.act
        let place := if hung s 6 then (false, none) else ringPlace size (s.rd F.LENS_RING_WR.WR r) (s.rd F.LENS_RING_RD.RD r) rec_.length
        t.le.nextK = k + 1 ∧ up F.LENS_SAMPLES.COUNT ((servedWith s s.le.act k).length * actT s.le.act) t ∧ t.le.lost = s.le.lost ∧ kept t ∧
        (lensPair s s.le.act k ≠ 1 → lensRoute s s.le.act k = 2 → s.eye.pend = none →
          (∀ at_, s.rd F.GLH_STATUS.STACK_FAILED 0 = 0 → Memory.wf s.hbm = true → place.2 = some at_ →
            t.hbmRead (lensRingBase s s.le.act r + at_) rec_.length = rec_ ∧
            t.rd F.LENS_RING_WR.WR r = (if at_ + rec_.length = size then 0 else at_ + rec_.length) % 2 ^ 32) ∧
          (place.2 = none → up F.LENS_RING_DROP.COUNT 1 t ∧ bit (t.rd F.LENS_ERR.BITS 0) Err.LENS.RING_DROP = true ∧
            t.rd F.LENS_RING_WR.WR r = if place.1 then 0 else s.rd F.LENS_RING_WR.WR r)))) ∧
    (s.held = false → (s.eye.pend.isSome = true ∨ lastWindow s = true) → Completes .eyeCycleClose s fun t =>
      t.eye.pend = none ∧ (s.eye.pend = none → t.le.isOpen = false) ∧ t.hbm = s.hbm ∧ kept t) ∧
    (s.hostReaches → domState s 22 ≠ pdOFF →
      (capState s = cpROLLING → Completes (.captureForce data) s fun t =>
        capState t = cpCOLLECTING ∧ up F.EYE_CAPTURES.COUNT 1 t ∧ t.eye.cap.count = s.eye.cap.count + 1 ∧
        (∃ c, t.eye.cap.cap = some c ∧ c.u = s.le.fsi ∧ c.forced = true ∧ c.last = s.le.cyc + Regs.rd s.act F.EYE_CAP_CFG.POST 0) ∧
        t.out = [] ∧ s.SameRegs t (F.EYE_CAPTURES.COUNT :: Err.EYE.unit.flds ++ cntFlds) [(F.EYE_CAP_STATUS.STATE, 0), (F.EYE_CAP_STATUS.TRUNCATED, 0)] ∧
        State.SameUnits { s with eye := { s.eye with cap := t.eye.cap } } t) ∧
      (capState s = cpOFF → Completes (.captureForce data) s fun t => t.out = [] ∧ s.SameRegs t [] [] ∧ s.SameUnits t) ∧
      (capState s = cpFROZEN → Completes (.captureRelease data) s fun t =>
        t.eye.cap.released = true ∧ capState t = cpFROZEN ∧ t.eye.cap.recs = s.eye.cap.recs ∧ t.out = [] ∧
        s.SameRegs t (F.EYE_CAP_COVERED.COUNT :: F.EYE_CAP_MISSED.COUNT :: Err.EYE.unit.flds ++ cntFlds) [] ∧
        State.SameUnits { s with eye := { s.eye with cap := t.eye.cap } } t) ∧
      (capState s ≠ cpFROZEN → bit data.toNat 0 = false → Completes (.captureRelease data) s fun t =>
        t.out = [] ∧ s.SameRegs t [] [] ∧ s.SameUnits t)) ∧
    (∀ u, s.held = false → heldUnit s k f fsi = some u → u.ready = true → Completes (.trellisDeadline k f fsi) s fun t =>
      let act := u.ep.act
      let port := Regs.rd act F.TR_LINK.ROOT_PORT 0
      let missing := b2n (hasLeft act && u.left.isNone) + b2n (hasRight act && u.right.isNone)
      t.tb = max s.tb (unitDeadline s u.ep f fsi).toNat ∧ s.Later t (t.tb - s.tb) ∧ findUnit t u.ep k f fsi = none ∧ up F.TR_UNITS.COUNT 1 t ∧
      (missing ≠ 0 → up F.TR_CHILD_MISS.COUNT missing t ∧ bit (t.rd F.TR_ERR.BITS 0) Err.TR.CHILD_MISS = true) ∧
      (nodeId act = 0 → linkUp s port = false → t.tr.seqRoot = (s.tr.seqRoot + 1) % 2 ^ 32) ∧
      (nodeId act = 0 → linkUp s port = true → portIdle s port = true → (getPort s port).ready = [] → t.tr.seqRoot = (s.tr.seqRoot + 1) % 2 ^ 32 ∧
        ∃ g, (getPort t port).cur = some g ∧ g.sender = .root ∧ g.ctx = k) ∧
      (nodeId act ≠ 0 → linkUp s (Regs.rd act F.TR_LINK.UP_PORT 0) = false → t.tr.seqUp = (s.tr.seqUp + 1) % 2 ^ 32) ∧ t.hbm = s.hbm ∧ t.tables = s.tables ∧ t.act = s.act ∧ t.dp = s.dp ∧ t.le = s.le ∧ t.pv = s.pv)

/-- A received frame is checked in the order of R327 and R328 and counted; one that passes is kept for its buffers (R329), a Trellis frame is
the Trellis'. A frame that ends leaves the port, counted, and one that underruns is cut and stays to be sent again (R322, R325). A link
goes down, keeps only the frames that wait, and comes up with its events (R318, R326); preemption follows its verification (R324); each
millisecond the express allowance begins anew (R323). The codewords that the receiver found are counted (R337, log entry 57). A port whose
link is down goes on reporting the parts of its link (R318). -/
def Obligations.EthernetPortsRun : Prop :=
  ∀ (s : State) (p : Fin 4) (f : List Byte) (sramBad ok localFault remoteFault hiSer : Bool) (corr uncorr : Nat), s.held = false →
    let up : Fld → Nat → Nat → State → Prop := fun g j n t => t.rd g j = min (s.rd g j + n) (2 ^ g.width - 1)
    let len := f.length + 4
    let err : State → Nat → Prop := fun t i => bit (t.rd F.ETH_ERR.BITS p) i = true
    let sends : State → Prop := fun t => State.SameUnits { s with eth := t.eth, force := t.force, tr := { s.tr with seqRoot := t.tr.seqRoot } } t
    let good : Instr := .ethFrameReceive p f ⟨true, corr, uncorr⟩
    let fec : State → Prop := fun t => up F.ETH_FEC_CORR_CW.COUNT p corr t ∧ up F.ETH_FEC_UNCORR_CW.COUNT p uncorr t
    let fecs : List (Fld × Nat) := [(F.ETH_FEC_CORR_CW.COUNT, p.val), (F.ETH_FEC_UNCORR_CW.COUNT, p.val)]
    let seen : State → Prop := fun t => fec t ∧ up F.ETH_RX_FRAMES.COUNT p 1 t ∧ up F.ETH_RX_BYTES.COUNT p len t
    let counted : Fld → State → Prop := fun g t => seen t ∧ up g p 1 t ∧ t.out = [] ∧
      s.SameRegs t ((Err.ETH.unit p).flds ++ cntFlds) ([(F.ETH_RX_FRAMES.COUNT, p.val), (F.ETH_RX_BYTES.COUNT, p.val), (g, p.val)] ++ fecs) ∧ s.SameUnits t
    (linkUp s p = true →
      (Completes (.ethFrameReceive p f ⟨false, corr, uncorr⟩) s fun t =>
        fec t ∧ up F.ETH_RX_FCS_ERR.COUNT p 1 t ∧ t.out = [] ∧ s.SameRegs t cntFlds ((F.ETH_RX_FCS_ERR.COUNT, p.val) :: fecs) ∧ s.SameUnits t) ∧
      (9600 < len → Completes good s (counted F.ETH_RX_OVERSIZE.COUNT)) ∧
      (len < 64 → Completes good s (counted F.ETH_RX_UNDERSIZE.COUNT)) ∧
      (64 ≤ len → len ≤ 9600 →
        (262144 < rxFill s p + len → Completes good s fun t => counted F.ETH_RX_OVERFLOW.COUNT t ∧ err t Err.ETH.RX_OVERFLOW) ∧
        (rxFill s p + len ≤ 262144 →
          (beAt f (typeAt f) 2 = 0x8808 → Completes good s (counted F.ETH_RX_CTRL.COUNT)) ∧
          (beAt f (typeAt f) 2 ≠ 0x8808 → forTrellis s f = true →
            (fold16 (wordSum ((f.drop (typeAt f + 2)).take 20)) = 65535 → Completes good s fun t =>
              seen t ∧ up F.ETH_RX_TRELLIS.COUNT p 1 t ∧ (getPort t p).rx = (getPort s p).rx) ∧
            (fold16 (wordSum ((f.drop (typeAt f + 2)).take 20)) ≠ 65535 → Completes good s (counted F.ETH_RX_IP_ERR.COUNT))) ∧
          (beAt f (typeAt f) 2 ≠ 0x8808 → forTrellis s f = false →
            ((addressPass s p f = false ∨ s.rd F.ETH_CFG.HOST_EN p = 0) →
              Completes good s (counted F.ETH_RX_FILTERED.COUNT)) ∧
            (addressPass s p f = true → s.rd F.ETH_CFG.HOST_EN p = 1 →
              ((hasDescriptor s (4 + p) = true ∨ (getJob s (7 + p)).isSome = true) → Completes good s fun t =>
                seen t ∧ t.eth = Tab.put s.eth p { getPort s p with
                  rx := (getPort s p).rx ++ [{ bytes := f, stamp := s.tb, holdover := !traceable s.sdState }] } ∧ t.out = [] ∧
                s.SameRegs t cntFlds ([(F.ETH_RX_FRAMES.COUNT, p.val), (F.ETH_RX_BYTES.COUNT, p.val)] ++ fecs) ∧ State.SameUnits { s with eth := t.eth } t) ∧
              (hasDescriptor s (4 + p) = false → getJob s (7 + p) = none → (getPort s p).rx = [] → Completes good s fun t =>
                seen t ∧ up F.ETH_RX_RING_DROP.COUNT p 1 t ∧ err t Err.ETH.RX_RING_DROP ∧ (getPort t p).rx = [] ∧ t.out = []))))) ∧
      ((localFault || remoteFault || hiSer) = true → Completes (.ethLinkDown p localFault remoteFault hiSer) s fun t =>
        let x := getPort s p
        linkUp t p = false ∧ t.rd F.ETH_STATUS.LOCAL_FAULT p = b2n localFault ∧ t.rd F.ETH_STATUS.REMOTE_FAULT p = b2n remoteFault ∧
        t.rd F.ETH_STATUS.HI_SER p = b2n hiSer ∧ t.rd F.ETH_STATUS.PREEMPT_ACTIVE p = 0 ∧ up F.ETH_LINK_DOWN_CNT.COUNT p 1 t ∧
        err t Err.ETH.LINK_DOWN ∧ (hiSer = true → s.rd F.ETH_STATUS.HI_SER p = 0 → err t Err.ETH.HI_SER) ∧ s.Raised t 0 22 [p] ∧
        (getPort t p).cur = none ∧ (getPort t p).exp = none ∧
        (getPort t p).ready = (x.exp.toList ++ x.cur.toList ++ x.ready).filter (fun g => g.waits) ∧
        t.hbm = s.hbm ∧ t.tables = s.tables ∧ t.act = s.act ∧ t.tb = s.tb ∧ t.glob = s.glob)) ∧
    (linkUp s p = false → domOn s (24 + p) = true → Completes (.ethLinkDown p localFault remoteFault hiSer) s fun t =>
      t.rd F.ETH_STATUS.LOCAL_FAULT p = b2n localFault ∧ t.rd F.ETH_STATUS.REMOTE_FAULT p = b2n remoteFault ∧
      t.rd F.ETH_STATUS.HI_SER p = b2n hiSer ∧ (hiSer = true → s.rd F.ETH_STATUS.HI_SER p = 0 → err t Err.ETH.HI_SER) ∧ t.out = [] ∧
      s.SameRegs t (Err.ETH.unit p).flds [(F.ETH_STATUS.LOCAL_FAULT, p.val), (F.ETH_STATUS.REMOTE_FAULT, p.val), (F.ETH_STATUS.HI_SER, p.val)] ∧
      s.SameUnits t) ∧
    (linkUp s p = false → domOn s (24 + p) = true → Completes (.ethLinkUp p) s fun t =>
      linkUp t p = true ∧ t.rd F.ETH_STATUS.LOCAL_FAULT p = 0 ∧ t.rd F.ETH_STATUS.REMOTE_FAULT p = 0 ∧ t.rd F.ETH_STATUS.HI_SER p = 0 ∧
      s.Raised t 0 21 [p] ∧ (s.rd F.ETH_CFG.PREEMPT_EN p = 1 → s.rd F.ETH_CFG.VERIFY_DIS p = 1 → t.rd F.ETH_STATUS.PREEMPT_ACTIVE p = 1) ∧
      (s.rd F.ETH_CFG.PREEMPT_EN p = 0 → t.rd F.ETH_STATUS.PREEMPT_ACTIVE p = 0) ∧ t.out = [] ∧
      s.SameRegs t (F.ETH_PREEMPTIONS.COUNT :: F.ETH_TX_THRESH.CUR :: cntFlds) [(F.ETH_STATUS.LINK_UP, p.val), (F.ETH_STATUS.LOCAL_FAULT, p.val),
        (F.ETH_STATUS.REMOTE_FAULT, p.val), (F.ETH_STATUS.HI_SER, p.val), (F.ETH_STATUS.VERIFY, p.val), (F.ETH_STATUS.PREEMPT_ACTIVE, p.val)] ∧
      sends t) ∧
    (s.rd F.ETH_STATUS.VERIFY p = 1 → Completes (.ethVerifyDone p ok) s fun t =>
      t.rd F.ETH_STATUS.VERIFY p = (if ok then 2 else 3) ∧ (ok = true → t.rd F.ETH_STATUS.PREEMPT_ACTIVE p = 1) ∧
      (ok = false → t.rd F.ETH_STATUS.PREEMPT_ACTIVE p = s.rd F.ETH_STATUS.PREEMPT_ACTIVE p ∧ err t Err.ETH.VERIFY_FAIL ∧ s.SameUnits t) ∧ t.out = [] ∧
      (∀ q, q ≠ p.val → getPort t q = getPort s q) ∧
      s.SameRegs t (F.ETH_PREEMPTIONS.COUNT :: F.ETH_TX_THRESH.CUR :: (Err.ETH.unit p).flds ++ cntFlds)
        [(F.ETH_STATUS.VERIFY, p.val), (F.ETH_STATUS.PREEMPT_ACTIVE, p.val)] ∧ sends t) ∧
    (∀ g, (linkUp s p = true ∨ domState s (24 + p) = pdDRAIN) →
      ((getPort s p).exp = some g ∨ ((getPort s p).exp = none ∧ (getPort s p).cur = some g)) → Completes (.ethTxFrameEnd p sramBad) s fun t =>
        .frame p g.bytes (!sramBad) ∈ t.out ∧ (g.sender = .eye → up F.EYE_FRAMES.COUNT 0 1 t) ∧
        (sramBad = false → up F.ETH_TX_FRAMES.COUNT p 1 t ∧ up F.ETH_TX_BYTES.COUNT p (g.bytes.length + 4) t ∧
          (g.express = true → up F.ETH_TX_EXPRESS.COUNT p 1 t)) ∧
        (sramBad = true → up F.LODGE_SRAM_UNCORR.COUNT 0 1 t ∧ t.rd F.ETH_TX_FRAMES.COUNT p = s.rd F.ETH_TX_FRAMES.COUNT p) ∧
        t.hbm = s.hbm ∧ t.tables = s.tables ∧ t.act = s.act ∧ t.tb = s.tb ∧ t.glob = s.glob ∧ t.acs = s.acs) ∧
    (∀ g, linkUp s p = true → (getPort s p).exp = none → (getPort s p).cur = some g → s.rd F.ETH_TX_THRESH.CUR p * 256 < g.bytes.length + 4 →
      Completes (.ethTxUnderrun p) s fun t =>
        t.out = [.frameCut p] ∧ up F.ETH_TX_UNDERRUN.COUNT p 1 t ∧ err t Err.ETH.TX_UNDERRUN ∧ frameAt t p g.sender = true ∧
        ((getPort s p).basePend = false → t.rd F.ETH_TX_THRESH.CUR p = min 38 (s.rd F.ETH_TX_THRESH.CUR p + 1)) ∧
        (∀ q, q ≠ p.val → getPort t q = getPort s q) ∧
        s.SameRegs t (F.ETH_PREEMPTIONS.COUNT :: (Err.ETH.unit p).flds ++ cntFlds) [(F.ETH_TX_UNDERRUN.COUNT, p.val), (F.ETH_TX_THRESH.CUR, p.val)] ∧
        sends t) ∧
    (Completes .expressRateWindow s fun t =>
      t.tb = nextMultiple s (1000000 * nsUnits) ∧ s.Later t (t.tb - s.tb) ∧
      (∀ q, q < 4 → (getPort t q).expressSent ≤ 1 ∧ ((getPort s q).ready = [] → getPort t q = { getPort s q with expressSent := 0 })) ∧ t.out = [] ∧
      s.SameRegs t (F.ETH_PREEMPTIONS.COUNT :: F.ETH_TX_THRESH.CUR :: cntFlds) [] ∧
      State.SameUnits { s with eth := t.eth, force := t.force, tr := { s.tr with seqRoot := t.tr.seqRoot }, tb := t.tb, el := t.el } t)

/-- Initialisation runs from GLH_CTL.EN, and ends with the HBM zero and READY (R369); CLEAR_FAIL leaves the declarations of bad stacks alone
(R374); a region entry is written in one step when it breaks no rule of R366. A refresh that falls due is made with those owed, postponed
under panic up to 4 intervals, then forced (R373). The scrub reads the beat granted to it, counts what it meets and leaves an
uncorrectable codeword for its owner's next read; its period ends (R371, R372, log entry 80). -/
def Obligations.GlasshouseRuns : Prop :=
  ∀ s : State, s.held = false →
    let up : Fld → State → Prop := fun f t => t.rd f 0 = min (s.rd f 0 + 1) (2 ^ f.width - 1)
    let failed : State → Nat → Bool := fun x st => bit (x.rd F.GLH_STATUS.STACK_FAILED 0) st
    (∀ data : Word, s.hostReaches → s.dpStopped = true → s.rd F.GLH_CTL.EN 0 = 0 → bit data.toNat 8 = false →
      Completes (.glhEnable data) s fun t =>
        t.rd F.GLH_CTL.EN 0 = 1 ∧ t.rd F.GLH_STATUS.INIT_BUSY 0 = 1 ∧ t.out = [] ∧
        s.SameRegs t [] [(F.GLH_CTL.EN, 0), (F.GLH_STATUS.INIT_BUSY, 0)] ∧ s.SameUnits t) ∧
    (∀ bad, s.rd F.GLH_STATUS.INIT_BUSY 0 = 1 → Completes (.glhInitComplete bad) s fun t =>
      t.rd F.GLH_STATUS.INIT_BUSY 0 = 0 ∧ t.rd F.GLH_STATUS.READY 0 = 1 ∧ t.hbm = [] ∧ t.rd F.GLH_STATUS.STACK_BAD 0 = bad % 256 ∧
      (∀ st, st < 8 → failed t st = (failed s st || bit bad st)) ∧
      (bad % 256 ≠ 0 → bit (t.rd F.GLH_ERR.BITS 0) Err.GLH.STACK = true) ∧
      t.gl = { s.gl with bad := [], recent := [], scrubPos := [], scrubAt := [], scrubs := [], scrubStart := s.el } ∧ t.out = [] ∧
      s.SameRegs t Err.GLH.unit.flds
        [(F.GLH_STATUS.INIT_BUSY, 0), (F.GLH_STATUS.READY, 0), (F.GLH_STATUS.STACK_BAD, 0), (F.GLH_STATUS.STACK_FAILED, 0)] ∧
      State.SameUnits { s with hbm := [], gl := t.gl } t) ∧
    (∀ data : Word, s.hostReaches →
      (s.dpStopped = true → s.rd F.GLH_CTL.EN 0 = bits data.toNat 0 1 → Completes (.glhClearFail data) s fun t =>
        (∀ st, st < 8 → failed t st = (failed s st && bit (s.rd F.GLH_STATUS.STACK_BAD 0) st)) ∧ t.gl = { s.gl with recent := [] } ∧ t.out = [] ∧
        s.SameRegs t [] [(F.GLH_STATUS.STACK_FAILED, 0)] ∧ State.SameUnits { s with gl := t.gl } t) ∧
      (s.dpStopped = false → Completes (.glhClearFail data) s fun t =>
        bit (t.rd F.GLH_ERR.BITS 0) Err.GLH.CFG_IGNORED = true ∧ t.out = [] ∧ s.SameRegs t Err.GLH.unit.flds [] ∧ s.SameUnits t)) ∧
    (∀ (e : Fin 32) (data : Word), s.hostReaches →
      let lo := F.GLH_REGION.VALID.addr + 8 * e.val
      let v := data.toNat * 2 ^ 32 + (Tab.find s.ko.holdWr lo).getD (presentLo s lo)
      let left : State → Prop := fun t => Tab.find t.ko.holdWr lo = none ∧ t.out = [] ∧
        State.SameUnits { s with ko := { s.ko with holdWr := t.ko.holdWr } } t
      ((regionBad s e v = true ∨ regionNamed s e = true) → Completes (.glhRegionWrite e data) s fun t =>
        left t ∧ bit (t.rd F.GLH_ERR.BITS 0) Err.GLH.CFG_IGNORED = true ∧ s.SameRegs t Err.GLH.unit.flds []) ∧
      (regionBad s e v = false → regionNamed s e = false → s.dpStopped = true → Completes (.glhRegionWrite e data) s fun t =>
        left t ∧ t.rd F.GLH_REGION.BASE_MIB e = bits v 0 18 ∧ t.rd F.GLH_REGION.SIZE_MIB e = bits v 32 18 ∧ t.rd F.GLH_REGION.VALID e = bits v 63 1 ∧
        s.SameRegs t [] [(F.GLH_REGION.BASE_MIB, e.val), (F.GLH_REGION.SIZE_MIB, e.val), (F.GLH_REGION.VALID, e.val)]) ∧
      (regionBad s e v = false → regionNamed s e = false → s.dpStopped = false → Completes (.glhRegionWrite e data) s fun t =>
        left t ∧ s.SameRegs t Err.GLH.unit.flds [])) ∧
    (∀ (st : Fin 8) (busy : Bool), s.rd F.GLH_STATUS.READY 0 = 1 →
      let n := Tab.getD s.gl.postponed st.val 0
      let waits := busy = true ∧ s.cl.panic ≠ [] ∧ st.val ∉ s.gl.forced
      let others : State → Prop := fun t => (∀ j, j ≠ st.val → Tab.find t.gl.postponed j = Tab.find s.gl.postponed j ∧
          (j ∈ t.gl.forced ↔ j ∈ s.gl.forced)) ∧ State.SameUnits { s with gl := { s.gl with postponed := t.gl.postponed, forced := t.gl.forced } } t
      (¬ waits → Completes (.hbmRefresh st busy) s fun t =>
        t.out = List.replicate (n + 1) (.refresh st) ∧ Tab.find t.gl.postponed st.val = none ∧ st.val ∉ t.gl.forced ∧ others t ∧ s.SameRegs t [] []) ∧
      (waits → n < 4 → Completes (.hbmRefresh st busy) s fun t =>
        t.out = [] ∧ Tab.find t.gl.postponed st.val = some (n + 1) ∧ st.val ∉ t.gl.forced ∧ others t ∧ s.SameRegs t [] []) ∧
      (waits → 4 ≤ n → Completes (.hbmRefresh st busy) s fun t =>
        t.out = [] ∧ st.val ∈ t.gl.forced ∧ up F.GLH_REFRESH_FORCED.COUNT t ∧ others t ∧ s.SameRegs t cntFlds [(F.GLH_REFRESH_FORCED.COUNT, 0)])) ∧
    (∀ a rest, s.rd F.GLH_STATUS.READY 0 = 1 → s.gl.scrubs = a :: rest →
      let next : State → Prop := fun t => t.out = [] ∧ t.gl.scrubs = rest ∧ t.gl.scrubPos = s.gl.scrubPos ∧ t.gl.scrubAt = s.gl.scrubAt
      let sound := a / 32 ∉ s.gl.bad ∧ a / 32 + 1 ∉ s.gl.bad
      let units : State → Prop := fun t => State.SameUnits { s with gl := t.gl, lo := { s.lo with counts := t.lo.counts } } t
      (∀ errs, stackDead s a = true → Completes (.hbmScrubAccess errs) s fun t => next t ∧ t.gl.bad = s.gl.bad ∧ s.SameRegs t [] [] ∧ units t) ∧
      (stackDead s a = false → sound → Completes (.hbmScrubAccess [0, 0]) s fun t =>
        next t ∧ t.gl.bad = s.gl.bad ∧ s.SameRegs t [] [] ∧ units t) ∧
      (stackDead s a = false → sound → Completes (.hbmScrubAccess [1, 0]) s fun t =>
        next t ∧ t.gl.bad = s.gl.bad ∧ up F.GLH_SCRUB_CORR.COUNT t ∧ up F.GLH_CORR_SYM.COUNT t ∧ units t ∧
        s.SameRegs t cntFlds [(F.GLH_SCRUB_CORR.COUNT, 0), (F.GLH_CORR_SYM.COUNT, 0)]) ∧
      (∀ n, stackDead s a = false → sound → 2 ≤ n → Completes (.hbmScrubAccess [n, 0]) s fun t =>
        next t ∧ t.gl.bad = a / 32 :: s.gl.bad ∧ up F.GLH_SCRUB_UNCORR.COUNT t ∧ bit (t.rd F.GLH_ERR.BITS 0) Err.GLH.SCRUB_UNCORR = true ∧ units t ∧
        s.SameRegs t (Err.GLH.unit.flds ++ cntFlds) [(F.GLH_SCRUB_UNCORR.COUNT, 0), (F.GLH_STATUS.STACK_FAILED, 0)])) ∧
    (s.rd F.GLH_STATUS.READY 0 = 1 → Completes .scrubPeriodEnd s fun t =>
      s.Later t (s.gl.scrubStart + s.rd F.GLH_SCRUB.PERIOD 0 * secUnits - s.el) ∧ t.gl.scrubStart = t.el ∧
      (((∃ g, g < 256 ∧ scrubLeft s g = true) ∨ s.gl.scrubs ≠ []) → t.gl.scrubPos = s.gl.scrubPos ∧ up F.GLH_SCRUB_LATE.COUNT t) ∧
      ((∀ g, g < 256 → scrubLeft s g = false) → s.gl.scrubs = [] →
        t.gl.scrubPos = [] ∧ t.rd F.GLH_SCRUB_LATE.COUNT 0 = s.rd F.GLH_SCRUB_LATE.COUNT 0) ∧ t.out = [] ∧
      s.SameRegs t cntFlds [(F.GLH_SCRUB_LATE.COUNT, 0)] ∧
      State.SameUnits { s with gl := { s.gl with scrubStart := t.gl.scrubStart, scrubPos := t.gl.scrubPos }, tb := t.tb, el := t.el } t)

/-- A free path goes to the one ready request of its port: a read is issued, a write written whole leaves no codeword of its burst
uncorrectable (R370, R379); with none ready it goes to the scrub, and a forced refresh goes before both (R373). Which beat is scrubbed
next, and that a refresh goes with those owed, is log entry 80; that the requests are operands, log entry 75. A request outside every
region hangs its master (R381). A read is answered, and its uncorrectable beats are counted (R370). A master reset releases a hung master
and discards its reads (R383). -/
def Obligations.CloisterGrantsAndAnswers : Prop :=
  ∀ s : State, s.held = false → s.rd F.BELV_TS_CFG.EN 0 = 0 →
    let calm : List Nat → List Nat → Prop := fun fills empties => s.cl.panic = [] ∧ ∀ i, i < 4 → max (fills.getD i 0) (empties.getD i 0) < s.rd F.GLH_PANIC_CFG.ON i
    (∀ (p : Fin 66) (q : PortRequest) (fills empties : List Nat) (full : Bool), calm fills empties → forcedAt s p = none → presented s p q = true →
      ((p.val < 64 → inRegion s q.addr (64 * q.beats) = true ∧ heldBack s q = false ∧ (rungOfMaster q.master ≤ 2 ∨ scrubNext s p true = none)) →
        Completes (.cloisterGrant p [q] [] fills empties full) s fun t =>
          t.out = [.grant p q.master q.addr] ∧ Tab.find t.cl.turn (p.val, rungOfMaster q.master) = some q.master ∧
          t.cl.issued = (if p.val < 64 ∧ q.write = false then s.cl.issued ++ [asReq s p q] else s.cl.issued) ∧
          (p.val < 64 → q.write = true → stackDead s q.addr = false → (∀ i, i < 2 * q.beats → enablesOf q i = 2 ^ 32 - 1) →
            (∀ w, w ∈ t.gl.bad ↔ w ∈ s.gl.bad ∧ ¬ (q.addr / 32 ≤ w ∧ w < q.addr / 32 + 2 * q.beats)) ∧ s.SameRegs t [] [] ∧
            State.SameUnits { s with cl := t.cl, gl := { s.gl with bad := t.gl.bad } } t) ∧
          ((64 ≤ p.val ∨ q.write = false) → s.SameRegs t [] [] ∧ State.SameUnits { s with cl := t.cl } t)) ∧
      (p.val < 64 → inRegion s q.addr (64 * q.beats) = false → (∀ first, scrubNext s p first = none) →
        ∀ l : List PortRequest × List PortRequest, l = ([q], []) ∨ l = ([], [q]) → Completes (.cloisterGrant p l.1 l.2 fills empties full) s fun t =>
        Tab.find t.cl.hung q.master = some (asReq s p q) ∧ bit (t.rd F.CL_ERR.BITS 0) Err.CL.DECODE_HANG = true ∧
        t.rd F.CL_HANG_MASK.MASK 0 = setBit (s.rd F.CL_HANG_MASK.MASK 0) q.master % 2 ^ 11 ∧
        t.rd F.CL_HANG_ADDR.ADDR q.master = q.addr ∧ t.rd F.CL_HANG_ADDR.WRITE q.master = b2n q.write ∧ t.out = [] ∧
        s.SameRegs t Err.CL.unit.flds [(F.CL_HANG_MASK.MASK, 0), (F.CL_HANG_ADDR.ADDR, q.master), (F.CL_HANG_ADDR.WRITE, q.master)] ∧
        State.SameUnits { s with cl := { s.cl with hung := t.cl.hung } } t) ∧
      ((64 ≤ p.val ∨ inRegion s q.addr (64 * q.beats) = true) → (64 ≤ p.val ∨ ∀ first, scrubNext s p first = none) →
        Completes (.cloisterGrant p [] [q] fills empties full) s fun t => t.out = [] ∧ s.SameRegs t [] [] ∧ s.SameUnits t)) ∧
    (∀ (p : Fin 66) (fills empties : List Nat) (full : Bool), calm fills empties →
      (∀ st, forcedAt s p = some st → Completes (.cloisterGrant p [] [] fills empties full) s fun t =>
        t.out = List.replicate (Tab.getD s.gl.postponed st 0) (.refresh st) ∧ Tab.find t.gl.postponed st = none ∧ st ∉ t.gl.forced ∧ s.SameRegs t [] [] ∧ State.SameUnits { s with gl := t.gl } t) ∧
      (∀ g, forcedAt s p = none → p.val < 64 → (scrubNext s p true <|> scrubNext s p false) = some g → Completes (.cloisterGrant p [] [] fills empties full) s fun t =>
        let i := Tab.getD s.gl.scrubPos g 0
        t.out = [.scrub (beatAddr g i)] ∧ t.gl.scrubPos = Tab.put s.gl.scrubPos g (i + 1) ∧ t.gl.scrubAt = Tab.put s.gl.scrubAt g s.el ∧
        t.gl.scrubs = s.gl.scrubs ++ [beatAddr g i] ∧ t.gl.bad = s.gl.bad ∧ t.gl.postponed = s.gl.postponed ∧ t.gl.forced = s.gl.forced ∧
        s.SameRegs t [] [] ∧ State.SameUnits { s with gl := t.gl } t) ∧
      (forcedAt s p = none → (64 ≤ p.val ∨ ∀ first, scrubNext s p first = none) → Completes (.cloisterGrant p [] [] fills empties full) s fun t =>
        t.out = [] ∧ s.SameRegs t [] [] ∧ s.SameUnits t)) ∧
    (∀ (m : Fin 11) (rid : Nat) (errs : List Nat) (latency : Nat) (full : Bool) (q : Req),
      let clean := stackDead s q.addr = true ∨ ∀ i, i < 2 * q.beats → errs.getD i 0 = 0 ∧ q.addr / 32 + i ∉ s.gl.bad
      let n := ((readBad s q errs).map fun i => i / 2).dedup.length
      (oldestRead s.cl.discard m rid = none → oldestRead s.cl.issued m rid = some q →
        (clean → Completes (.hbmReadResponse m rid errs latency full) s fun t =>
          t.cl = { s.cl with issued := s.cl.issued.erase q } ∧ t.out = [] ∧ s.SameRegs t [] [] ∧ State.SameUnits { s with cl := t.cl } t) ∧
        (stackDead s q.addr = false → readBad s q errs ≠ [] → Completes (.hbmReadResponse m rid errs latency full) s fun t =>
          t.cl = { s.cl with issued := s.cl.issued.erase q } ∧ t.rd F.GLH_UNCORR.COUNT 0 = min (s.rd F.GLH_UNCORR.COUNT 0 + n) (2 ^ 32 - 1) ∧
          bit (t.rd F.GLH_ERR.BITS 0) Err.GLH.UNCORR = true ∧ t.out = [] ∧
          s.SameRegs t (Err.GLH.unit.flds ++ cntFlds) [(F.GLH_UNCORR.COUNT, 0), (F.GLH_CORR_SYM.COUNT, 0), (F.GLH_STATUS.STACK_FAILED, 0)] ∧
          State.SameUnits { s with cl := t.cl, gl := { s.gl with recent := t.gl.recent }, lo := { s.lo with counts := t.lo.counts } } t)) ∧
      (oldestRead s.cl.discard m rid = some q → clean → Completes (.hbmReadResponse m rid errs latency full) s fun t =>
        t.cl.discard = s.cl.discard.erase q ∧ t.cl.issued = s.cl.issued ∧ (tagsOf t m = 0 → m.val ∉ t.cl.resetting) ∧ t.out = [] ∧
        s.SameRegs t [] [] ∧ State.SameUnits { s with cl := { s.cl with discard := t.cl.discard, resetting := t.cl.resetting } } t)) ∧
    (∀ data : Word, s.hostReaches → (bit data.toNat 0 = true → ∀ c, c < 32 → getJob s c = none) → Completes (.masterReset data) s fun t =>
      let acts : Nat → Prop := fun m => bit data.toNat m = true ∧ (m = 0 ∨ m = 10 ∨ s.dpStopped = true)
      (∀ m, m < 11 → acts m → hung t m = false ∧ ∀ q ∈ s.cl.issued, q.master = m → q ∉ t.cl.issued ∧ q ∈ t.cl.discard) ∧
      (∀ m, m < 11 → ¬ acts m → Tab.find t.cl.hung m = Tab.find s.cl.hung m ∧ ∀ q ∈ s.cl.issued, q.master = m → q ∈ t.cl.issued) ∧
      (s.dpStopped = false → (∃ m, 1 ≤ m ∧ m ≤ 9 ∧ bit data.toNat m = true) → bit (t.rd F.CL_ERR.BITS 0) Err.CL.CFG_IGNORED = true) ∧ t.out = [] ∧
      s.SameRegs t Err.CL.unit.flds [] ∧ State.SameUnits { s with cl := t.cl } t)

/-- A selection that is not reserved is written, and a changed one, or CLEAR, sets its counter and SATURATED to 0 (R387, R388); CLEAR_ALL
clears every counter; a freeze and its end are reported (R389). The sampler starts only on a valid region of at most 1 GiB, with WR at 0
and its numbering at 0 (R392, R394). An eye scan starts on a lane that is UP, and ends with its counts, or ABORTED (R396, R397). -/
def Obligations.BelvedereCountsTracesAndScans : Prop :=
  ∀ s : State, s.held = false →
    let cleared : Nat → State → Prop := fun n t => t.rd F.BELV_CNT.VALUE n = 0 ∧ t.rd F.BELV_CNT.SATURATED n = 0
    let ignored : State → Prop := fun t => bit (t.rd F.BELV_ERR.BITS 0) Err.BELV.CFG_IGNORED = true
    let plain : List Fld → List (Fld × Nat) → State → Prop := fun l c t => t.out = [] ∧ s.SameRegs t l c ∧ s.SameUnits t
    let cnt : Nat → List (Fld × Nat) := fun n => [(F.BELV_CNT_SEL.MODE, n), (F.BELV_CNT_SEL.SRC, n), (F.BELV_CNT.VALUE, n), (F.BELV_CNT.SATURATED, n)]
    (∀ (n : Fin 1024) (data : Word), s.hostReaches →
      let v := data.toNat
      let taken : State → Prop := fun t => t.rd F.BELV_CNT_SEL.MODE n = bits v 30 2 ∧ t.rd F.BELV_CNT_SEL.SRC n = bits v 0 24 ∧ plain [] (cnt n) t
      (selOk (bits v 30 2) (bits v 0 24) = true →
        (Completes (.cntSelWrite n data) s fun t =>
          taken t ∧
          ((bit v 29 = true ∨ bits v 30 2 ≠ s.rd F.BELV_CNT_SEL.MODE n ∨ bits v 0 24 ≠ s.rd F.BELV_CNT_SEL.SRC n) → cleared n t) ∧
          (bit v 29 = false → bits v 30 2 = s.rd F.BELV_CNT_SEL.MODE n → bits v 0 24 = s.rd F.BELV_CNT_SEL.SRC n → s.SameRegs t [] [])) ∧
        (Completes (.cntClear n data) s fun t => taken t ∧ cleared n t)) ∧
      (selOk (bits v 30 2) (bits v 0 24) = false → Completes (.cntSelWrite n data) s fun t => ignored t ∧ plain Err.BELV.unit.flds [] t)) ∧
    (∀ data : Word, s.hostReaches →
      let fr : Nat → State → Prop := fun x t => t.rd F.BELV_CTL.FREEZE 0 = x ∧ t.rd F.BELV_STATUS.FROZEN 0 = x
      let frs := [(F.BELV_CTL.FREEZE, 0), (F.BELV_STATUS.FROZEN, 0)]
      (Completes (.clearAll data) s fun t => fr (bits data.toNat 1 1) t ∧ (∀ n, n < 1024 → cleared n t) ∧ plain cntFlds frs t) ∧
      (bit data.toNat 0 = false →
        (Completes (.counterFreeze data) s fun t => fr 1 t ∧ plain [] frs t) ∧ (Completes (.counterResume data) s fun t => fr 0 t ∧ plain [] frs t)) ∧
      (bit data.toNat 0 = true →
        (Completes (.counterFreeze data) s fun t => fr 1 t ∧ (∀ n, n < 1024 → cleared n t) ∧ plain cntFlds frs t) ∧
        (Completes (.counterResume data) s fun t => fr 0 t ∧ (∀ n, n < 1024 → cleared n t) ∧ plain cntFlds frs t))) ∧
    (∀ data : Word, s.hostReaches →
      let e := bits data.toNat 24 5
      (s.rd F.BELV_TS_CFG.EN 0 = 0 → regionSize s e ≠ 0 → regionSize s e ≤ 2 ^ 30 → Completes (.traceEnable data) s fun t =>
        t.rd F.BELV_TS_CFG.EN 0 = 1 ∧ t.rd F.BELV_TS_CFG.REGION 0 = e ∧ t.rd F.BELV_TS_CFG.MASTERS 0 = bits data.toNat 0 11 ∧
        t.rd F.BELV_TRACE_WR.WR 0 = 0 ∧ t.bv.ordinal = 0 ∧ t.bv.dropped = 0 ∧ t.out = [] ∧
        s.SameRegs t [] [(F.BELV_TS_CFG.EN, 0), (F.BELV_TS_CFG.REGION, 0), (F.BELV_TS_CFG.MASTERS, 0), (F.BELV_TRACE_WR.WR, 0)] ∧
        State.SameUnits { s with bv := { s.bv with ordinal := t.bv.ordinal, dropped := t.bv.dropped } } t) ∧
      (s.rd F.BELV_TS_CFG.EN 0 = 0 → (regionSize s e = 0 ∨ 2 ^ 30 < regionSize s e) → Completes (.traceEnable data) s fun t =>
        ignored t ∧ plain Err.BELV.unit.flds [] t) ∧
      (s.rd F.BELV_TS_CFG.EN 0 = 1 → traceRegionOk s (traceRegion s) = true → Completes (.traceEnable data) s fun t =>
        t.rd F.BELV_TRACE_WR.WR 0 = 0 ∧ ((e ≠ traceRegion s ∨ bits data.toNat 0 11 ≠ s.rd F.BELV_TS_CFG.MASTERS 0) → ignored t) ∧
        plain Err.BELV.unit.flds [(F.BELV_TRACE_WR.WR, 0)] t)) ∧
    (∀ (k : Fin 64) (data : Word) (errs : Nat),
      let v := data.toNat
      let n := 2 ^ (10 + s.rd F.BELV_EYE_CTL.DWELL k)
      let settings := [(F.BELV_EYE_CTL.EYE, k.val), (F.BELV_EYE_CTL.DWELL, k.val), (F.BELV_EYE_CTL.PHASE, k.val), (F.BELV_EYE_CTL.VOFS, k.val)]
      let results := [(F.BELV_EYE_STATUS.STATE, k.val), (F.BELV_EYE_STATUS.CAUSE, k.val), (F.BELV_EYE_ERRS.ERRS, k.val), (F.BELV_EYE_SYMS.SYMS, k.val)]
      let legal := bits v 26 2 ≠ 3 ∧ bits v 16 5 ≠ 31 ∧ bits v 0 7 ≠ 64
      let set : State → Prop := fun t => t.rd F.BELV_EYE_CTL.EYE k = bits v 26 2 ∧ t.rd F.BELV_EYE_CTL.DWELL k = bits v 16 5 ∧
        t.rd F.BELV_EYE_CTL.PHASE k = bits v 8 6 ∧ t.rd F.BELV_EYE_CTL.VOFS k = bits v 0 7
      (s.hostReaches → legal → eyeRunning s k = false → laneState s k = laneUP → Completes (.eyeScanStart k data) s fun t =>
        set t ∧ t.rd F.BELV_EYE_STATUS.STATE k = 1 ∧ t.rd F.BELV_EYE_STATUS.CAUSE k = 0 ∧ t.rd F.BELV_EYE_ERRS.ERRS k = 0 ∧
        t.rd F.BELV_EYE_SYMS.SYMS k = 0 ∧ Tab.find t.bv.eyeAt k.val = some s.el ∧ (∀ j, j ≠ k.val → Tab.find t.bv.eyeAt j = Tab.find s.bv.eyeAt j) ∧
        t.out = [] ∧ s.SameRegs t [] (settings ++ results) ∧ State.SameUnits { s with bv := { s.bv with eyeAt := t.bv.eyeAt } } t) ∧
      (s.hostReaches → legal → eyeRunning s k = false → laneState s k ≠ laneUP → Completes (.eyeScanStart k data) s fun t =>
        set t ∧ ignored t ∧ plain Err.BELV.unit.flds settings t) ∧
      (s.hostReaches → legal → eyeRunning s k = true → bit v 30 = false → Completes (.eyeScanStart k data) s fun t =>
        ignored t ∧ plain Err.BELV.unit.flds [] t) ∧
      (s.hostReaches → legal → eyeRunning s k = true → bit v 31 = false → Completes (.eyeScanAbort k data errs) s fun t =>
        t.rd F.BELV_EYE_STATUS.STATE k = 3 ∧ t.rd F.BELV_EYE_STATUS.CAUSE k = 1 ∧ t.rd F.BELV_EYE_SYMS.SYMS k = eyeSymbols s k % 2 ^ 64 ∧
        t.rd F.BELV_EYE_ERRS.ERRS k = min errs (t.rd F.BELV_EYE_SYMS.SYMS k) ∧ plain Err.BELV.unit.flds results t) ∧
      (s.hostReaches → legal → eyeRunning s k = false → bit v 31 = false → Completes (.eyeScanAbort k data errs) s fun t =>
        set t ∧ plain [] settings t) ∧
      (eyeRunning s k = true → Completes (.eyeScanDone k errs) s fun t =>
        t.rd F.BELV_EYE_STATUS.STATE k = 2 ∧ t.rd F.BELV_EYE_ERRS.ERRS k = min errs n % 2 ^ 64 ∧ t.rd F.BELV_EYE_SYMS.SYMS k = n % 2 ^ 64 ∧
        s.Later t (eyeDue s k - s.el) ∧ t.out = [] ∧ s.SameRegs t cntFlds results ∧ State.SameUnits { s with tb := t.tb, el := t.el } t))

/-- The SMBus target answers each read of Table 18-3 with its data and PEC; a write whose PEC is absent or wrong is not executed while
PEC_REQ = 1 (R399); alerts are masked, cleared and answered (R402); MGMT_RESET starts the Lodge and Belvedere anew, and until it ends no
transaction is acknowledged (R400); REG_READ reads as BAR0 does (R401). The PEC is the model's CRC-8 (log entry 89). -/
def Obligations.SmbusAnswers : Prop :=
  ∀ s : State, s.held = false →
    let pec : Nat → List Byte → List Byte → Byte := fun cmd sent data =>
      pecOf ([smbAddr s false, BitVec.ofNat 8 cmd] ++ sent ++ [smbAddr s true] ++ data)
    let reads : Instr → Nat → List Byte → Prop := fun c cmd data => Completes c s fun t =>
      t.out = [.smb (data ++ [pec cmd [] data])] ∧ s.SameRegs t [] [] ∧ s.SameUnits t
    let block : Instr → Nat → List Byte → Prop := fun c cmd data => reads c cmd (BitVec.ofNat 8 data.length :: data)
    let up : Fld → State → Prop := fun f t => t.rd f 0 = min (s.rd f 0 + 1) (2 ^ f.width - 1)
    let status := s.rd F.BELV_ALERT_STATUS.STATUS 0
    let taken : Option Bool → Prop := fun p => s.rd F.BELV_SMB_CFG.PEC_REQ 0 = 1 → p = some true
    (s.glob.mgmtBusy = false →
      block .smbDeviceId 0x01 (leBytes 4 (viewReg s 0) ++ leBytes 4 (viewReg s 4)) ∧
      reads .smbStatus 0x02 (leBytes 2 (s.dp + 8 * s.sdState + 64 * s.rd F.LODGE_STATUS.COVERED 0 + 128 * b2n (faultLow s) +
        256 * s.rd F.SD_STATUS.ALARM 0 + 512 * b2n (alertAsserted s))) ∧
      reads .smbAlertStatus 0x03 (leBytes 2 status) ∧
      (∀ p, reads (.smbAlertMask none p) 0x05 (leBytes 2 (s.rd F.BELV_ALERT_MASK.MASK 0))) ∧
      block .smbHealth 0x10 (if s.lo.latest = [] then List.replicate 64 0 else s.lo.latest) ∧
      block .smbTemp 0x11 (((List.range 8).map fun i => BitVec.ofNat 8 (s.rd F.BELV_DIE_TEMP.TEMP i)) ++
        (List.range 8).map fun i => BitVec.ofNat 8 (s.rd F.GLH_STACK_TEMP.TEMP i)) ∧
      block .smbVoltage 0x12 ((List.range 8).flatMap fun v => leBytes 2 (s.rd F.BELV_VMON.MV v)) ∧
      block .smbErrSummary 0x13 (leBytes 4 (errSummary s)) ∧
      (∀ off, off % 4 = 0 → off < 0x4000000 → isDecoded s off = true → msixOffset off = false → isHi off = false → isLo off = false →
        off ≠ F.SD_TIME_NS.NS.addr → off ≠ F.SD_CAPQ_NS.NS.addr → off ≠ F.FC_WIN_DATA.DATA.addr → copyAt F.ETH_TSQ_NS.NS off = none →
        Completes (.smbRegRead off) s fun t =>
          t.out = [.smb (4 :: leBytes 4 (viewReg s off) ++ [pec 0x30 (4 :: leBytes 4 off) (4 :: leBytes 4 (viewReg s off))])] ∧
          (∀ e ∈ fieldsAt off, e.1.acc = .RC → t.rd e.1 e.2 = e.1.rst e.2 % 2 ^ e.1.width) ∧
          s.SameRegs t [] ((fieldsAt off).filter fun e => decide (e.1.acc = .RC)) ∧ s.SameUnits t) ∧
      (∀ off, (off % 4 ≠ 0 ∨ 0x4000000 ≤ off) → Completes (.smbRegRead off) s fun t =>
        t.out = [.smb (4 :: leBytes 4 0 ++ [pec 0x30 (4 :: leBytes 4 off) (4 :: leBytes 4 0)])] ∧ up F.BELV_SMB_REJECT.COUNT t ∧
        s.SameRegs t cntFlds [(F.BELV_SMB_REJECT.COUNT, 0)] ∧ s.SameUnits t) ∧
      (∀ data p, taken p → s.coverageSettled → Completes (.smbAlertClear data p) s fun t =>
        t.rd F.BELV_ALERT_STATUS.STATUS 0 = (status - (status &&& data)) % 2 ^ 7 ∧ t.out = [] ∧ s.SameRegs t [] [] ∧ s.SameUnits t) ∧
      (∀ data p, taken p → Completes (.smbAlertMask (some data) p) s fun t =>
        t.rd F.BELV_ALERT_MASK.MASK 0 = data % 2 ^ 7 ∧ t.out = [] ∧ s.SameRegs t [] [(F.BELV_ALERT_MASK.MASK, 0)] ∧ s.SameUnits t) ∧
      (∀ data key p, ¬ taken p → ∀ c ∈ [Instr.smbAlertClear data p, .smbAlertMask (some data) p, .smbDataReset key p, .smbMgmtReset key p],
        Completes c s fun t => t.out = [.smbNack] ∧ up F.BELV_SMB_PEC_ERR.COUNT t ∧ s.SameRegs t cntFlds [(F.BELV_SMB_PEC_ERR.COUNT, 0)] ∧
          s.SameUnits t) ∧
      (∀ p, taken p → Completes (.smbMgmtReset 0x3C p) s fun t =>
        t.glob = { s.glob with mgmtBusy := true } ∧ t.rd F.GLOBAL_RESET_CAUSE.MGMT 0 = 1 ∧ t.out = [] ∧
        t.rd F.LODGE_STATUS.SUSPECT_OPEN 0 = s.pv.suspect.length % 2 ^ F.LODGE_STATUS.SUSPECT_OPEN.width ∧
        (∀ g k, (∀ e ∈ endFlds, e.id ≠ g.id) → g.id ≠ F.GLOBAL_RESET_CAUSE.MGMT.id → g.id ≠ F.LODGE_STATUS.SUSPECT_OPEN.id → t.rd g k =
          if g.id < RegMap.lodgeLo ∨ RegMap.powerLo ≤ g.id ∨ g.id = F.BELV_SMB_CFG.ADDR.id then s.rd g k else g.rst k) ∧
        State.SameUnits { s with act := t.act, force := t.force, lo := { lateTwinAt := s.lo.lateTwinAt }, bv := {}, glob := t.glob,
                                 ko := { s.ko with bar2 := [], holdRd := t.ko.holdRd, holdWr := t.ko.holdWr, holdSmb := t.ko.holdSmb } } t) ∧
      (∀ key p, taken p → key ≠ 0x3C → Completes (.smbMgmtReset key p) s fun t =>
        up F.BELV_SMB_REJECT.COUNT t ∧ t.out = [] ∧ s.SameRegs t cntFlds [(F.BELV_SMB_REJECT.COUNT, 0)] ∧ s.SameUnits t) ∧
      (alertAsserted s = true → s.coverageSettled → Completes .smbAlertResponse s fun t =>
        t.out = [.smb [smbAddr s false, pecOf [0x19, smbAddr s false]]] ∧ alertAsserted t = false ∧ s.SameRegs t [] [] ∧ s.SameUnits t) ∧
      (alertAsserted s = false → Completes .smbAlertResponse s fun t => t.out = [.smbNack] ∧ s.SameRegs t [] [] ∧ s.SameUnits t)) ∧
    (s.glob.mgmtBusy = true →
      (∀ c ∈ [Instr.smbDeviceId, .smbStatus, .smbAlertStatus, .smbHealth, .smbTemp, .smbVoltage, .smbErrSummary, .smbAlertResponse],
        Completes c s fun t => t.out = [.smbNack] ∧ s.SameRegs t [] [] ∧ s.SameUnits t) ∧
      (Completes .mgmtResetComplete s fun t => t.out = [] ∧ s.SameRegs t [] [] ∧ State.SameUnits { s with glob := { s.glob with mgmtBusy := false } } t)) ∧
    (Completes .smbTimeout s fun t => t.out = [] ∧ s.SameRegs t [] [] ∧ s.SameUnits t)

/-- The test logic answers at any time, a held cold reset included (R421): a clock of TCK moves the controller as IEEE 1149.1 draws it
(log entry 92), shifts TDI in and TDO out, BYPASS captures one 0 bit, and UPDATE-IR takes the instruction; from any state five clocks with
TMS high, or TRST_N, reset the test logic with BYPASS selected. -/
def Obligations.TestLogicShifts : Prop :=
  ∀ (s : State) (tms tdi : Bool),
    let frame : State → Prop := fun t => t.out = [] ∧ s.SameRegs t [] [] ∧ State.SameUnits { s with tap := t.tap } t
    (Completes (.tapClock tms tdi) s fun t =>
      t.tap.state = tapNext tms s.tap.state ∧ frame t ∧
      ((s.tap.state = .shiftDr ∨ s.tap.state = .shiftIr) → t.tap.shift = s.tap.shift.drop 1 ++ [tdi]) ∧
      (s.tap.state = .captureDr → tapBypass s = true → t.tap.shift = [false]) ∧
      (s.tap.state = .captureIr → t.tap.shift.take 2 = [true, false] ∧ t.tap.shift.length = irLen) ∧
      ((t.tap.state = .shiftDr ∨ t.tap.state = .shiftIr) → t.tap.tdo = t.tap.shift.head?) ∧
      (t.tap.state ≠ .shiftDr → t.tap.state ≠ .shiftIr → t.tap.tdo = none) ∧
      (t.tap.state = .updateIr → t.tap.ir = some (bitsNat t.tap.shift)) ∧
      (t.tap.state = .testLogicReset → t.tap.ir = none ∧ tapBypass t = true) ∧
      (t.tap.state ≠ .updateIr → t.tap.state ≠ .testLogicReset → t.tap.ir = s.tap.ir)) ∧
    ((tapNext true) (tapNext true (tapNext true (tapNext true (tapNext true s.tap.state)))) = .testLogicReset) ∧
    (Completes .testLogicReset s fun t => t.tap = {} ∧ tapBypass t = true ∧ frame t)
end

