-- ==== Sys2Proof/Laws/State.lean ====
section
/-! SUPPORT. What the accessors and the plain updates of the state do, one lemma per field and update. -/
namespace Sys2Proof.Machine

@[simp] theorem State.wr_pending (s : State) (f : Fld) (k v : Nat) : (s.wr f k v).pending = s.pending := rfl
@[simp] theorem State.wr_out (s : State) (f : Fld) (k v : Nat) : (s.wr f k v).out = s.out := rfl
@[simp] theorem State.wr_act (s : State) (f : Fld) (k v : Nat) : (s.wr f k v).act = s.act := rfl
@[simp] theorem State.wr_force (s : State) (f : Fld) (k v : Nat) : (s.wr f k v).force = s.force := rfl
@[simp] theorem State.wr_tb (s : State) (f : Fld) (k v : Nat) : (s.wr f k v).tb = s.tb := rfl
@[simp] theorem State.wr_el (s : State) (f : Fld) (k v : Nat) : (s.wr f k v).el = s.el := rfl
@[simp] theorem State.wr_free (s : State) (f : Fld) (k v : Nat) : (s.wr f k v).free = s.free := rfl
@[simp] theorem State.wr_tables (s : State) (f : Fld) (k v : Nat) : (s.wr f k v).tables = s.tables := rfl
@[simp] theorem State.wr_tableBad (s : State) (f : Fld) (k v : Nat) : (s.wr f k v).tableBad = s.tableBad := rfl
@[simp] theorem State.wr_hbm (s : State) (f : Fld) (k v : Nat) : (s.wr f k v).hbm = s.hbm := rfl
@[simp] theorem State.wr_glob (s : State) (f : Fld) (k v : Nat) : (s.wr f k v).glob = s.glob := rfl
@[simp] theorem State.wr_ko (s : State) (f : Fld) (k v : Nat) : (s.wr f k v).ko = s.ko := rfl
@[simp] theorem State.wr_sd (s : State) (f : Fld) (k v : Nat) : (s.wr f k v).sd = s.sd := rfl
@[simp] theorem State.wr_lo (s : State) (f : Fld) (k v : Nat) : (s.wr f k v).lo = s.lo := rfl
@[simp] theorem State.wr_cl (s : State) (f : Fld) (k v : Nat) : (s.wr f k v).cl = s.cl := rfl
@[simp] theorem State.wr_gl (s : State) (f : Fld) (k v : Nat) : (s.wr f k v).gl = s.gl := rfl
@[simp] theorem State.wr_bv (s : State) (f : Fld) (k v : Nat) : (s.wr f k v).bv = s.bv := rfl
@[simp] theorem State.wr_tap (s : State) (f : Fld) (k v : Nat) : (s.wr f k v).tap = s.tap := rfl
@[simp] theorem State.wr_pins (s : State) (f : Fld) (k v : Nat) : (s.wr f k v).pins = s.pins := rfl
@[simp] theorem State.wr_yg (s : State) (f : Fld) (k v : Nat) : (s.wr f k v).yg = s.yg := rfl
@[simp] theorem State.wr_gh (s : State) (f : Fld) (k v : Nat) : (s.wr f k v).gh = s.gh := rfl
@[simp] theorem State.wr_acs (s : State) (f : Fld) (k v : Nat) : (s.wr f k v).acs = s.acs := rfl
@[simp] theorem State.wr_px (s : State) (f : Fld) (k v : Nat) : (s.wr f k v).px = s.px := rfl
@[simp] theorem State.wr_pv (s : State) (f : Fld) (k v : Nat) : (s.wr f k v).pv = s.pv := rfl
@[simp] theorem State.wr_po (s : State) (f : Fld) (k v : Nat) : (s.wr f k v).po = s.po := rfl
@[simp] theorem State.wr_eth (s : State) (f : Fld) (k v : Nat) : (s.wr f k v).eth = s.eth := rfl
@[simp] theorem State.wr_le (s : State) (f : Fld) (k v : Nat) : (s.wr f k v).le = s.le := rfl
@[simp] theorem State.wr_eye (s : State) (f : Fld) (k v : Nat) : (s.wr f k v).eye = s.eye := rfl
@[simp] theorem State.wr_tr (s : State) (f : Fld) (k v : Nat) : (s.wr f k v).tr = s.tr := rfl
@[simp] theorem State.emit_pending (s : State) (o : Output) : (s.emit o).pending = s.pending := rfl
@[simp] theorem State.emit_regs (s : State) (o : Output) : (s.emit o).regs = s.regs := rfl
@[simp] theorem State.emit_act (s : State) (o : Output) : (s.emit o).act = s.act := rfl
@[simp] theorem State.emit_force (s : State) (o : Output) : (s.emit o).force = s.force := rfl
@[simp] theorem State.emit_tb (s : State) (o : Output) : (s.emit o).tb = s.tb := rfl
@[simp] theorem State.emit_el (s : State) (o : Output) : (s.emit o).el = s.el := rfl
@[simp] theorem State.emit_free (s : State) (o : Output) : (s.emit o).free = s.free := rfl
@[simp] theorem State.emit_tables (s : State) (o : Output) : (s.emit o).tables = s.tables := rfl
@[simp] theorem State.emit_tableBad (s : State) (o : Output) : (s.emit o).tableBad = s.tableBad := rfl
@[simp] theorem State.emit_hbm (s : State) (o : Output) : (s.emit o).hbm = s.hbm := rfl
@[simp] theorem State.emit_glob (s : State) (o : Output) : (s.emit o).glob = s.glob := rfl
@[simp] theorem State.emit_ko (s : State) (o : Output) : (s.emit o).ko = s.ko := rfl
@[simp] theorem State.emit_sd (s : State) (o : Output) : (s.emit o).sd = s.sd := rfl
@[simp] theorem State.emit_lo (s : State) (o : Output) : (s.emit o).lo = s.lo := rfl
@[simp] theorem State.emit_cl (s : State) (o : Output) : (s.emit o).cl = s.cl := rfl
@[simp] theorem State.emit_gl (s : State) (o : Output) : (s.emit o).gl = s.gl := rfl
@[simp] theorem State.emit_bv (s : State) (o : Output) : (s.emit o).bv = s.bv := rfl
@[simp] theorem State.emit_tap (s : State) (o : Output) : (s.emit o).tap = s.tap := rfl
@[simp] theorem State.emit_pins (s : State) (o : Output) : (s.emit o).pins = s.pins := rfl
@[simp] theorem State.emit_yg (s : State) (o : Output) : (s.emit o).yg = s.yg := rfl
@[simp] theorem State.emit_gh (s : State) (o : Output) : (s.emit o).gh = s.gh := rfl
@[simp] theorem State.emit_acs (s : State) (o : Output) : (s.emit o).acs = s.acs := rfl
@[simp] theorem State.emit_px (s : State) (o : Output) : (s.emit o).px = s.px := rfl
@[simp] theorem State.emit_pv (s : State) (o : Output) : (s.emit o).pv = s.pv := rfl
@[simp] theorem State.emit_po (s : State) (o : Output) : (s.emit o).po = s.po := rfl
@[simp] theorem State.emit_eth (s : State) (o : Output) : (s.emit o).eth = s.eth := rfl
@[simp] theorem State.emit_le (s : State) (o : Output) : (s.emit o).le = s.le := rfl
@[simp] theorem State.emit_eye (s : State) (o : Output) : (s.emit o).eye = s.eye := rfl
@[simp] theorem State.emit_tr (s : State) (o : Output) : (s.emit o).tr = s.tr := rfl
@[simp] theorem State.emit_out (s : State) (o : Output) : (s.emit o).out = s.out ++ [o] := rfl
@[simp] theorem State.emit_rd (s : State) (o : Output) (f : Fld) (k : Nat) : (s.emit o).rd f k = s.rd f k := rfl
/-- A read of a field looks at the register file alone. -/
@[simp] theorem State.rd_mk (x_pending : List Instr) (x_out : List Output) (x_regs : Regs) (x_act : Regs) (x_force : Regs) (x_tb : Nat) (x_el : Nat) (x_free : Nat) (x_tables : Tab (Nat × Nat × Nat × Nat) Byte) (x_tableBad : List (Nat × Nat × Nat × Nat)) (x_hbm : List Host.Cell) (x_glob : GlobSt) (x_ko : KioskSt) (x_sd : SundialSt) (x_lo : LodgeSt) (x_cl : CloisterSt) (x_gl : GlassSt) (x_bv : BelvSt) (x_tap : TapSt) (x_pins : PinSt) (x_yg : YargilSt) (x_gh : GatehouseSt) (x_acs : AccSt) (x_px : PrismSt) (x_pv : PavSt) (x_po : PorticoSt) (x_eth : Tab Nat EthPort) (x_le : LensSt) (x_eye : EyeSt) (x_tr : TrellisSt)
    (g : Fld) (k : Nat) : State.rd (State.mk x_pending x_out x_regs x_act x_force x_tb x_el x_free x_tables x_tableBad x_hbm x_glob x_ko x_sd x_lo x_cl x_gl x_bv x_tap x_pins x_yg x_gh x_acs x_px x_pv x_po x_eth x_le x_eye x_tr) g k = Regs.rd x_regs g k := rfl

/-- Reads of a state's register file are reads of the state. -/
@[simp] theorem State.regs_rd (s : State) (g : Fld) (k : Nat) : Regs.rd s.regs g k = s.rd g k := rfl

/-- A read after a put of the same key. -/
theorem Tab.find_put_same {κ α : Type} [DecidableEq κ] (t : Tab κ α) (k : κ) (v : α) : Tab.find (Tab.put t k v) k = some v := by
  induction t with
  | nil => simp [Tab.put, Tab.find]
  | cons e t ih =>
    obtain ⟨k', v'⟩ := e
    by_cases h : k' = k <;> simp [Tab.put, Tab.find, h, ih]

/-- A read of another key than the one put. -/
theorem Tab.find_put_other {κ α : Type} [DecidableEq κ] (t : Tab κ α) (k j : κ) (v : α) (h : k ≠ j) :
    Tab.find (Tab.put t k v) j = Tab.find t j := by
  induction t with
  | nil => simp [Tab.put, Tab.find, h]
  | cons e t ih =>
    obtain ⟨k', v'⟩ := e
    by_cases hk : k' = k
    · subst hk; simp [Tab.put, Tab.find, h]
    · simp only [Tab.put, if_neg hk, Tab.find, ih]

/-- Everything that a put does to the reads. -/
@[simp] theorem Tab.getD_put {κ α : Type} [DecidableEq κ] (t : Tab κ α) (k j : κ) (v d : α) :
    Tab.getD (Tab.put t k v) j d = if k = j then v else Tab.getD t j d := by
  by_cases h : k = j
  · subst h; simp [Tab.getD, Tab.find_put_same]
  · simp [Tab.getD, Tab.find_put_other _ _ _ _ h, h]

/-- Everything that a write of a copy of a field does to the reads: the copy holds the value cut to its width, every other copy
and field what it held. -/
theorem State.rd_wr (s : State) (f g : Fld) (k j v : Nat) :
    (s.wr f k v).rd g j = if f.id = g.id ∧ k = j then v % 2 ^ f.width else s.rd g j := by
  by_cases h : f.id = g.id ∧ k = j
  · rw [if_pos h]
    simp [State.rd, State.wr, Regs.rd, Regs.wr, Tab.getD, h.1, h.2, Tab.find_put_same]
  · rw [if_neg h]
    have hk : (f.id, k) ≠ (g.id, j) := fun e => h ⟨congrArg Prod.fst e, congrArg Prod.snd e⟩
    simp [State.rd, State.wr, Regs.rd, Regs.wr, Tab.getD, Tab.find_put_other _ _ _ _ hk]

/-- A read of the copy written. -/
@[simp] theorem State.rd_wr_same (s : State) (f : Fld) (k v : Nat) : (s.wr f k v).rd f k = v % 2 ^ f.width := by
  simp [State.rd_wr]

/-- A read of another field than the one written. -/
theorem State.rd_wr_other (s : State) (f g : Fld) (k j v : Nat) (h : f.id ≠ g.id) : (s.wr f k v).rd g j = s.rd g j := by
  simp [State.rd_wr, h]

end Sys2Proof.Machine
end

