-- ==== Sys2Proof/Laws/Run.lean ====
section
/-! SUPPORT. What the shared operations do (errors, alerts, events, counters, time), and what the end of every command and the
frame of a run leave. -/
namespace Sys2Proof.Machine

/-- The relation is reflexive. -/
theorem State.SameUnits.refl (s : State) : s.SameUnits s := rfl

/-- The relation is transitive. -/
theorem State.SameUnits.trans {s t u : State} (h : s.SameUnits t) (h' : t.SameUnits u) : s.SameUnits u := by
  unfold State.SameUnits at *; rw [h'] ; rw [h]

theorem State.SameUnits.out_set (s : State) (o : List Output) : s.SameUnits { s with out := o } := rfl

theorem State.SameUnits.pending {s t : State} (h : s.SameUnits t) : t.pending = s.pending := by rw [h]
theorem State.SameUnits.act {s t : State} (h : s.SameUnits t) : t.act = s.act := by rw [h]
theorem State.SameUnits.force {s t : State} (h : s.SameUnits t) : t.force = s.force := by rw [h]
theorem State.SameUnits.tb {s t : State} (h : s.SameUnits t) : t.tb = s.tb := by rw [h]
theorem State.SameUnits.el {s t : State} (h : s.SameUnits t) : t.el = s.el := by rw [h]
theorem State.SameUnits.tables {s t : State} (h : s.SameUnits t) : t.tables = s.tables := by rw [h]
theorem State.SameUnits.tableBad {s t : State} (h : s.SameUnits t) : t.tableBad = s.tableBad := by rw [h]
theorem State.SameUnits.hbm {s t : State} (h : s.SameUnits t) : t.hbm = s.hbm := by rw [h]
theorem State.SameUnits.glob {s t : State} (h : s.SameUnits t) : t.glob = s.glob := by rw [h]
theorem State.SameUnits.sd {s t : State} (h : s.SameUnits t) : t.sd = s.sd := by rw [h]
theorem State.SameUnits.lo {s t : State} (h : s.SameUnits t) : t.lo = s.lo := by rw [h]
theorem State.SameUnits.cl {s t : State} (h : s.SameUnits t) : t.cl = s.cl := by rw [h]
theorem State.SameUnits.gl {s t : State} (h : s.SameUnits t) : t.gl = s.gl := by rw [h]
theorem State.SameUnits.tap {s t : State} (h : s.SameUnits t) : t.tap = s.tap := by rw [h]
theorem State.SameUnits.pins {s t : State} (h : s.SameUnits t) : t.pins = s.pins := by rw [h]
theorem State.SameUnits.yg {s t : State} (h : s.SameUnits t) : t.yg = s.yg := by rw [h]
theorem State.SameUnits.gh {s t : State} (h : s.SameUnits t) : t.gh = s.gh := by rw [h]
theorem State.SameUnits.acs {s t : State} (h : s.SameUnits t) : t.acs = s.acs := by rw [h]
theorem State.SameUnits.px {s t : State} (h : s.SameUnits t) : t.px = s.px := by rw [h]
theorem State.SameUnits.pv {s t : State} (h : s.SameUnits t) : t.pv = s.pv := by rw [h]
theorem State.SameUnits.po {s t : State} (h : s.SameUnits t) : t.po = s.po := by rw [h]
theorem State.SameUnits.eth {s t : State} (h : s.SameUnits t) : t.eth = s.eth := by rw [h]
theorem State.SameUnits.le {s t : State} (h : s.SameUnits t) : t.le = s.le := by rw [h]
theorem State.SameUnits.eye {s t : State} (h : s.SameUnits t) : t.eye = s.eye := by rw [h]
theorem State.SameUnits.tr {s t : State} (h : s.SameUnits t) : t.tr = s.tr := by rw [h]

theorem State.wr_sameUnits (s : State) (f : Fld) (k v : Nat) : s.SameUnits (s.wr f k v) := rfl
theorem State.emit_sameUnits (s : State) (o : Output) : s.SameUnits (s.emit o) := rfl

/-- An alert touches the alert status alone among the registers. -/
theorem setAlert_sameUnits (s : State) (i : Nat) : s.SameUnits (setAlert s i) := by
  unfold setAlert; dsimp only; split <;> rfl

theorem setErr_sameUnits (s : State) (u : ErrUnit) (i info : Nat) : s.SameUnits (setErr s u i info) := by
  unfold setErr; dsimp only; split <;> rfl

theorem raise_sameUnits (s : State) (code : Nat) (args : List Nat) : s.SameUnits (raise s code args) := by
  unfold raise pushEvent; split <;> rfl

/-- Both branches of a choice keep the units. -/
theorem ite_sameUnits {c : Prop} [Decidable c] {s t u : State} (h : s.SameUnits t) (h' : s.SameUnits u) :
    s.SameUnits (if c then t else u) := by split <;> assumption

theorem lodgeBit_sameUnits (s : State) (i info : Nat) : s.SameUnits (lodgeBit s i info) :=
  have h1 := setErr_sameUnits s Err.LODGE.unit i info
  have h2 := ite_sameUnits (c := (!faultLow s && faultLow (setErr s Err.LODGE.unit i info)) = true)
    (h1.trans (setAlert_sameUnits _ 0)) h1
  ite_sameUnits (h2.trans (setAlert_sameUnits _ 5)) h2

theorem lodgeErr_sameUnits (s : State) (i info item : Nat) (args : List Nat) : s.SameUnits (lodgeErr s i info item args) :=
  (lodgeBit_sameUnits s i info).trans (raise_sameUnits _ _ _)

/-- A fold of a function that keeps the units keeps them. -/
theorem foldl_sameUnits {α : Type} (f : State → α → State) (h : ∀ (s : State) a, s.SameUnits (f s a)) (l : List α) (s : State) :
    s.SameUnits (l.foldl f s) := by
  induction l generalizing s with
  | nil => exact State.SameUnits.refl s
  | cons a t ih => exact (h s a).trans (ih (f s a))

theorem cntAdd_sameUnits (s : State) (k n : Nat) : s.SameUnits (cntAdd s k n) := by
  unfold cntAdd; dsimp only; split <;> rfl

theorem belvAdd_sameUnits (s : State) (w n : Nat) : s.SameUnits (belvAdd s w n) := by
  unfold belvAdd
  split
  · rfl
  · refine foldl_sameUnits _ (fun s k => ?_) _ _
    exact ite_sameUnits (cntAdd_sameUnits _ _ _) (State.SameUnits.refl _)

theorem bump_sameUnits (s : State) (f : Fld) (k n : Nat) : s.SameUnits (bump s f k n) :=
  (State.wr_sameUnits s f k _).trans (belvAdd_sameUnits _ _ _)

theorem settleCoverage_sameUnits (s : State) : s.SameUnits (settleCoverage s) := by
  unfold settleCoverage
  dsimp only
  split
  · rfl
  · refine State.SameUnits.trans ?_ (foldl_sameUnits _ (fun s c => ?_) _ _)
    · split
      · exact ((State.wr_sameUnits s _ _ _).trans (State.wr_sameUnits _ _ _ _)).trans (setAlert_sameUnits _ _)
      · exact (State.wr_sameUnits s _ _ _).trans (State.wr_sameUnits _ _ _ _)
    · exact (lodgeErr_sameUnits _ _ _ _ _).trans (raise_sameUnits _ _ _)

theorem settleFirstUnit_sameUnits (s : State) : s.SameUnits (settleFirstUnit s) := by
  unfold settleFirstUnit
  dsimp only
  repeat' split
  all_goals rfl

/-- The end of a command leaves every unit, and writes only the fields of `endFlds`. -/
theorem finish_sameUnits (s : State) : s.SameUnits (finish s) := by
  unfold finish
  split
  · rfl
  · exact (settleCoverage_sameUnits s).trans (settleFirstUnit_sameUnits _)

/-- A read of another field than the alert status after an alert. -/
theorem setAlert_rd (s : State) (i : Nat) (g : Fld) (k : Nat) (h : F.BELV_ALERT_STATUS.STATUS.id ≠ g.id) :
    (setAlert s i).rd g k = s.rd g k := by
  unfold setAlert
  dsimp only
  split
  · exact State.rd_wr_other _ _ _ _ _ _ h
  · exact State.rd_wr_other _ _ _ _ _ _ h

/-- A read of another field than those of the unit after an error. -/
theorem setErr_rd (s : State) (u : ErrUnit) (i info : Nat) (g : Fld) (k : Nat) (hb : u.bits.id ≠ g.id) (hf : u.first.id ≠ g.id)
    (ht : u.ts.id ≠ g.id) : (setErr s u i info).rd g k = s.rd g k := by
  unfold setErr
  dsimp only
  rw [State.rd_wr_other _ _ _ _ _ _ hb]
  split
  · rw [State.rd_wr_other _ _ _ _ _ _ ht, State.rd_wr_other _ _ _ _ _ _ hf]
  · rfl

/-- The error bits after an error (R24). -/
theorem setErr_bits (s : State) (u : ErrUnit) (i info : Nat) :
    (setErr s u i info).rd u.bits u.k = setBit (s.rd u.bits u.k) i % 2 ^ u.bits.width := by
  unfold setErr
  simp

/-- An event changes no register. -/
@[simp] theorem raise_rd (s : State) (code : Nat) (args : List Nat) (g : Fld) (k : Nat) : (raise s code args).rd g k = s.rd g k := by
  unfold raise pushEvent
  split <;> rfl

theorem ite_rd {c : Prop} [Decidable c] {s t u : State} {g : Fld} {k : Nat} (h : t.rd g k = s.rd g k) (h' : u.rd g k = s.rd g k) :
    (if c then t else u).rd g k = s.rd g k := by split <;> assumption

/-- The fields that a fault of the Lodge may write. -/
def lodgeFlds : List Fld := [F.LODGE_ERR.BITS, F.LODGE_ERR_FIRST.WORD, F.LODGE_ERR_FIRST_TS.TS, F.BELV_ALERT_STATUS.STATUS]

/-- A read of a field outside LODGE_ERR and the alert status after a fault of the Lodge. -/
theorem lodgeErr_rd (s : State) (i info item : Nat) (args : List Nat) (g : Fld) (k : Nat) (h : ∀ e ∈ lodgeFlds, e.id ≠ g.id) :
    (lodgeErr s i info item args).rd g k = s.rd g k := by
  have ha : F.BELV_ALERT_STATUS.STATUS.id ≠ g.id := h _ (by simp [lodgeFlds])
  have h1 : (setErr s Err.LODGE.unit i info).rd g k = s.rd g k :=
    setErr_rd s _ i info g k (h F.LODGE_ERR.BITS (by simp [lodgeFlds])) (h F.LODGE_ERR_FIRST.WORD (by simp [lodgeFlds]))
      (h F.LODGE_ERR_FIRST_TS.TS (by simp [lodgeFlds]))
  have h2 : (if (!faultLow s && faultLow (setErr s Err.LODGE.unit i info)) = true then setAlert (setErr s Err.LODGE.unit i info) 0
      else setErr s Err.LODGE.unit i info).rd g k = s.rd g k := ite_rd ((setAlert_rd _ 0 g k ha).trans h1) h1
  rw [lodgeErr, raise_rd]
  exact ite_rd ((setAlert_rd _ 5 g k ha).trans h2) h2

theorem lodgeFlds_end {g : Fld} (h : ∀ e ∈ endFlds, e.id ≠ g.id) : ∀ e ∈ lodgeFlds, e.id ≠ g.id := fun e he =>
  h e (by simp only [lodgeFlds, List.mem_cons, List.not_mem_nil, or_false] at he; rcases he with rfl | rfl | rfl | rfl <;> simp [endFlds])

theorem foldl_rd {α : Type} (f : State → α → State) (g : Fld) (k : Nat) (h : ∀ (s : State) a, (f s a).rd g k = s.rd g k) (l : List α)
    (s : State) : (l.foldl f s).rd g k = s.rd g k := by
  induction l generalizing s with
  | nil => rfl
  | cons a t ih => rw [List.foldl_cons, ih, h]

theorem cntAdd_rd (s : State) (c n : Nat) (g : Fld) (k : Nat) (h : ∀ e ∈ cntFlds, e.id ≠ g.id) : (cntAdd s c n).rd g k = s.rd g k := by
  have hv := h F.BELV_CNT.VALUE (by simp [cntFlds])
  have hs := h F.BELV_CNT.SATURATED (by simp [cntFlds])
  unfold cntAdd
  dsimp only
  split
  · rw [State.rd_wr_other _ _ _ _ _ _ hv]
  · rw [State.rd_wr_other _ _ _ _ _ _ hs, State.rd_wr_other _ _ _ _ _ _ hv]

theorem belvAdd_rd (s : State) (w n : Nat) (g : Fld) (k : Nat) (h : ∀ e ∈ cntFlds, e.id ≠ g.id) : (belvAdd s w n).rd g k = s.rd g k := by
  unfold belvAdd
  split
  · rfl
  · exact foldl_rd _ g k (fun s c => ite_rd (cntAdd_rd s c n g k h) rfl) _ _

/-- A read of another field than the counter and Belvedere's counters after a count. -/
theorem bump_rd (s : State) (f : Fld) (c n : Nat) (g : Fld) (k : Nat) (hf : f.id ≠ g.id) (h : ∀ e ∈ cntFlds, e.id ≠ g.id) :
    (bump s f c n).rd g k = s.rd g k := by
  rw [bump, belvAdd_rd _ _ _ g k h, State.rd_wr_other _ _ _ _ _ _ hf]

/-- The counter after a count stands at the sum or at its greatest value. -/
theorem bump_rd_same (s : State) (f : Fld) (k n : Nat) (h : ∀ e ∈ cntFlds, e.id ≠ f.id) :
    (bump s f k n).rd f k = min (s.rd f k + n) (2 ^ f.width - 1) := by
  rw [bump, belvAdd_rd _ _ _ f k h, State.rd_wr_same]
  exact Nat.mod_eq_of_lt (lt_of_le_of_lt (min_le_right _ _) (Nat.sub_lt (Nat.two_pow_pos _) (by decide)))

theorem settleCoverage_rd (s : State) (g : Fld) (k : Nat) (h : ∀ e ∈ endFlds, e.id ≠ g.id) : (settleCoverage s).rd g k = s.rd g k := by
  have hc := h F.LODGE_STATUS.COVERAGE (by simp [endFlds])
  have hd := h F.LODGE_STATUS.COVERED (by simp [endFlds])
  unfold settleCoverage
  dsimp only
  split
  · rfl
  · rw [foldl_rd _ g k (fun s c => by rw [coverageFall, raise_rd, lodgeErr_rd _ _ _ _ _ g k (lodgeFlds_end h)])]
    have hw : ∀ a b, ((s.wr F.LODGE_STATUS.COVERAGE 0 a).wr F.LODGE_STATUS.COVERED 0 b).rd g k = s.rd g k := fun a b => by
      rw [State.rd_wr_other _ _ _ _ _ _ hd, State.rd_wr_other _ _ _ _ _ _ hc]
    exact ite_rd ((setAlert_rd _ 2 g k (h _ (by simp [endFlds]))).trans (hw _ _)) (hw _ _)

theorem settleFirstUnit_rd (s : State) (g : Fld) (k : Nat) (h : F.BELV_ERR_FIRST_UNIT.UNIT.id ≠ g.id) :
    (settleFirstUnit s).rd g k = s.rd g k := by
  unfold settleFirstUnit
  dsimp only
  repeat' split
  all_goals first
    | rfl
    | exact State.rd_wr_other _ _ _ _ _ _ h

/-- A read of a field outside `endFlds` after the end of a command. -/
theorem finish_rd (s : State) (g : Fld) (k : Nat) (h : ∀ e ∈ endFlds, e.id ≠ g.id) : (finish s).rd g k = s.rd g k := by
  unfold finish
  split
  · rfl
  · rw [settleFirstUnit_rd _ g k (h _ (by simp [endFlds])), settleCoverage_rd _ g k h]

/-- What the coverage conditions look at is outside what the end of a command writes. -/
theorem coverage_congr {s t : State} (hu : s.SameUnits t) (hr : ∀ (g : Fld) (k : Nat), (∀ e ∈ endFlds, e.id ≠ g.id) → t.rd g k = s.rd g k) :
    coverage t = coverage s := by
  have hact : t.act = s.act := by rw [hu]
  have hlo : t.lo = s.lo := by rw [hu]
  have htb : t.tb = s.tb := by rw [hu]
  have hd : ∀ g : Fld, (endFlds.all fun e => decide (e.id ≠ g.id)) = true → ∀ k, t.rd g k = s.rd g k := fun g h k =>
    hr g k fun e he => by simpa using List.all_eq_true.mp h e he
  have h1 := hd F.PAV_STATUS.ROLE (by decide)
  have h2 := hd F.POWER_DOM.STATE (by decide)
  have h3 := hd F.YG_CFG.MIRROR_EN (by decide)
  have h4 := hd F.YG_LANE_CTL.ROLE (by decide)
  have h5 := hd F.YG_LANE_STATUS.STATE (by decide)
  have h6 := hd F.SD_STATUS.STATE (by decide)
  have h7 := hd F.SD_STATUS.SELECTED (by decide)
  have h8 := hd F.SD_STATUS.QUALIFIED (by decide)
  have h9 := hd F.GLH_CTL.EN (by decide)
  have h10 := hd F.GLH_STATUS.STACK_FAILED (by decide)
  have h11 := hd F.ETH_STATUS.LINK_UP (by decide)
  have hfs : freeSpare t = freeSpare s := funext fun k => by unfold freeSpare domOn domState; rw [h1, h2]
  have hrole : effRole t = effRole s := funext fun k => by simp only [effRole, h3, h4]
  have hb : ∀ c, coverageBit t c = coverageBit s c := fun c => by
    simp only [coverageBit, spareCount, freeSpares, hfs, hrole, State.sdState, qualified, State.ac,
      hact, hlo, htb, h3, h5, h6, h7, h8, h9, h10, h11]
    congr!
  simp only [coverage, hb]

theorem b2n_le (b : Bool) : b2n b ≤ 1 := by cases b <;> decide

theorem coverage_lt (s : State) : coverage s < 64 := by
  have := b2n_le (coverageBit s 0); have := b2n_le (coverageBit s 1); have := b2n_le (coverageBit s 2)
  have := b2n_le (coverageBit s 3); have := b2n_le (coverageBit s 4); have := b2n_le (coverageBit s 5)
  unfold coverage; omega

/-- The fall of a class writes neither COVERAGE nor COVERED. -/
theorem coverageFall_rd (s : State) (c : Nat) (g : Fld) (k : Nat) (h : ∀ e ∈ lodgeFlds, e.id ≠ g.id) :
    (coverageFall s c).rd g k = s.rd g k := by
  rw [coverageFall, raise_rd, lodgeErr_rd _ _ _ _ _ g k h]

/-- After the coverage is settled its register and COVERED tell the conditions. -/
theorem settleCoverage_settled (s : State) : (settleCoverage s).coverageSettled := by
  have hc : coverage (settleCoverage s) = coverage s :=
    coverage_congr (settleCoverage_sameUnits s) fun g k h => settleCoverage_rd s g k h
  unfold State.coverageSettled
  rw [hc]
  have hf : ∀ (g : Fld) (l : List Nat) (u : State), (∀ e ∈ lodgeFlds, e.id ≠ g.id) → (l.foldl coverageFall u).rd g 0 = u.rd g 0 :=
    fun g l u h => foldl_rd coverageFall g 0 (fun s c => coverageFall_rd s c g 0 h) l u
  have hlt := coverage_lt s
  by_cases h : coverage s = s.rd F.LODGE_STATUS.COVERAGE 0 ∧ s.rd F.LODGE_STATUS.COVERED 0 = b2n (decide (coverage s = 63))
  · have : settleCoverage s = s := by unfold settleCoverage; exact if_pos h
    rw [this]; exact ⟨h.1.symm, h.2⟩
  · have e : settleCoverage s = ((List.range 6).filter fun c => bit (s.rd F.LODGE_STATUS.COVERAGE 0) c && !bit (coverage s) c).foldl coverageFall
        (if s.rd F.LODGE_STATUS.COVERAGE 0 = 63 ∧ coverage s ≠ 63 then
          setAlert ((s.wr F.LODGE_STATUS.COVERAGE 0 (coverage s)).wr F.LODGE_STATUS.COVERED 0 (b2n (decide (coverage s = 63)))) 2
         else (s.wr F.LODGE_STATUS.COVERAGE 0 (coverage s)).wr F.LODGE_STATUS.COVERED 0 (b2n (decide (coverage s = 63)))) := by
      unfold settleCoverage; exact if_neg h
    rw [e, hf _ _ _ (by decide), hf _ _ _ (by decide)]
    rw [ite_rd (s := (s.wr F.LODGE_STATUS.COVERAGE 0 (coverage s)).wr F.LODGE_STATUS.COVERED 0 (b2n (decide (coverage s = 63))))
      (setAlert_rd _ _ _ _ (by decide)) rfl,
      ite_rd (s := (s.wr F.LODGE_STATUS.COVERAGE 0 (coverage s)).wr F.LODGE_STATUS.COVERED 0 (b2n (decide (coverage s = 63))))
      (setAlert_rd _ _ _ _ (by decide)) rfl]
    constructor
    · rw [State.rd_wr_other _ _ _ _ _ _ (by decide), State.rd_wr_same]
      exact Nat.mod_eq_of_lt hlt
    · rw [State.rd_wr_same]
      exact Nat.mod_eq_of_lt (lt_of_le_of_lt (b2n_le _) (by decide))

theorem lowestBit_le (v : Nat) : lowestBit v < 32 := by
  unfold lowestBit
  cases h : (List.range 32).find? (bit v) with
  | none => simp
  | some a => simpa using List.mem_range.mp (List.mem_of_find?_eq_some h)

/-- The summary looks at the error registers of the units alone. -/
theorem errSummary_wr_first (s : State) (v : Nat) : errSummary (s.wr F.BELV_ERR_FIRST_UNIT.UNIT 0 v) = errSummary s := by
  have h : ∀ u ∈ Err.units, ∀ a, (if (s.wr F.BELV_ERR_FIRST_UNIT.UNIT 0 v).rd u.bits u.k = 0 then a else setBit a u.sum) =
      if s.rd u.bits u.k = 0 then a else setBit a u.sum := fun u hu a => by
    rw [State.rd_wr_other _ _ _ _ _ _]
    have hall : (Err.units.all fun u => decide (F.BELV_ERR_FIRST_UNIT.UNIT.id ≠ u.bits.id)) = true := by decide
    simpa using List.all_eq_true.mp hall u hu
  exact List.foldl_ext _ _ _ fun a u hu => h u hu a

theorem settleFirstUnit_settled (s : State) : (settleFirstUnit s).summarySettled := by
  unfold State.summarySettled settleFirstUnit
  dsimp only
  have hl := lowestBit_le (errSummary s)
  have hm : (lowestBit (errSummary s) + 1) % 2 ^ F.BELV_ERR_FIRST_UNIT.UNIT.width = lowestBit (errSummary s) + 1 :=
    Nat.mod_eq_of_lt (by show _ < 256; omega)
  split
  · rename_i h0
    split
    · rename_i h1; simp [h0, h1]
    · rw [errSummary_wr_first, State.rd_wr_same]; simp [h0]
  · rename_i h0
    split
    · rw [errSummary_wr_first, State.rd_wr_same, hm]; simp [h0]
    · rename_i h1; simp [h0, h1]

/-- Every command ends in a settled state, or in one in which a cold reset is held. -/
theorem finish_settled (s : State) : (finish s).Settled := by
  unfold finish
  split
  · rename_i h; exact Or.inl h
  · right
    refine ⟨?_, settleFirstUnit_settled _⟩
    have hc : coverage (settleFirstUnit (settleCoverage s)) = coverage (settleCoverage s) :=
      coverage_congr (settleFirstUnit_sameUnits _) fun g k h => settleFirstUnit_rd _ g k (h _ (by simp [endFlds]))
    have h := settleCoverage_settled s
    unfold State.coverageSettled at h ⊢
    rw [hc, settleFirstUnit_rd _ _ _ (by decide), settleFirstUnit_rd _ _ _ (by decide)]
    exact h

/-- The end of a command sends nothing out. -/
theorem finish_out (s : State) : (finish s).out = s.out := by
  have ha : ∀ (s : State) i, (setAlert s i).out = s.out := fun s i => by unfold setAlert; dsimp only; split <;> rfl
  have he : ∀ (s : State) u i n, (setErr s u i n).out = s.out := fun s u i n => by unfold setErr; dsimp only; split <;> rfl
  have hr : ∀ (s : State) c l, (raise s c l).out = s.out := fun s c l => by unfold raise pushEvent; split <;> rfl
  have hi : ∀ {c : Prop} [Decidable c] {s t u : State}, t.out = s.out → u.out = s.out → (if c then t else u).out = s.out :=
    fun {c} _ {s t u} h h' => by split <;> assumption
  have hl : ∀ (s : State) i a b l, (lodgeErr s i a b l).out = s.out := fun s i a b l => by
    have h2 : (if (!faultLow s && faultLow (setErr s Err.LODGE.unit i a)) = true then setAlert (setErr s Err.LODGE.unit i a) 0
      else setErr s Err.LODGE.unit i a).out = s.out := hi ((ha _ 0).trans (he _ _ _ _)) (he _ _ _ _)
    rw [lodgeErr, hr]
    exact hi ((ha _ 5).trans h2) h2
  have hf : ∀ (l : List Nat) (s : State), (l.foldl coverageFall s).out = s.out := fun l => by
    induction l with
    | nil => intro s; rfl
    | cons c t ih => intro s; rw [List.foldl_cons, ih, coverageFall, hr, hl]
  have hc : (settleCoverage s).out = s.out := by
    unfold settleCoverage
    dsimp only
    split
    · rfl
    · rw [hf]; exact hi (s := s) ((ha _ _).trans rfl) rfl
  unfold finish
  split
  · rfl
  · rw [← hc]
    unfold settleFirstUnit
    dsimp only
    repeat' split
    all_goals rfl

/-- Events that wait go on waiting at the end of a command. -/
theorem finish_evq (s : State) : s.ko.evq <+: (finish s).ko.evq := by
  have hr : ∀ (s : State) c l, s.ko.evq <+: (raise s c l).ko.evq := fun s c l => by
    unfold raise pushEvent
    split
    · exact List.prefix_append _ _
    · exact List.prefix_refl _
  have ha : ∀ (s : State) i, (setAlert s i).ko = s.ko := fun s i => by unfold setAlert; dsimp only; split <;> rfl
  have he : ∀ (s : State) u i n, (setErr s u i n).ko = s.ko := fun s u i n => by unfold setErr; dsimp only; split <;> rfl
  have hi : ∀ {c : Prop} [Decidable c] {s t u : State}, t.ko = s.ko → u.ko = s.ko → (if c then t else u).ko = s.ko :=
    fun {c} _ {s t u} h h' => by split <;> assumption
  have hb : ∀ (s : State) i a, (lodgeBit s i a).ko = s.ko := fun s i a => by
    have h2 : (if (!faultLow s && faultLow (setErr s Err.LODGE.unit i a)) = true then setAlert (setErr s Err.LODGE.unit i a) 0
      else setErr s Err.LODGE.unit i a).ko = s.ko := hi ((ha _ 0).trans (he _ _ _ _)) (he _ _ _ _)
    exact hi ((ha _ 5).trans h2) h2
  have hf : ∀ (l : List Nat) (s : State), s.ko.evq <+: (l.foldl coverageFall s).ko.evq := fun l => by
    induction l with
    | nil => intro s; exact List.prefix_refl _
    | cons c t ih =>
      intro s
      refine List.IsPrefix.trans ?_ (ih _)
      refine List.IsPrefix.trans ?_ (hr _ _ _)
      refine List.IsPrefix.trans ?_ (hr _ _ _)
      rw [hb]
  have hc : s.ko.evq <+: (settleCoverage s).ko.evq := by
    unfold settleCoverage
    dsimp only
    split
    · exact List.prefix_refl _
    · refine List.IsPrefix.trans ?_ (hf _ _)
      split
      · rw [ha]; exact List.prefix_refl _
      · exact List.prefix_refl _
  unfold finish
  split
  · exact List.prefix_refl _
  · refine hc.trans ?_
    unfold settleFirstUnit
    dsimp only
    repeat' split
    all_goals exact List.prefix_refl _

/-- A command leaves the queue of the commands that wait. -/
@[simp] theorem perform_pending (f : State → State) (s : State) : (perform f s).pending = s.pending := rfl

/-- What a command sent out is what its effect sent. -/
theorem perform_out (f : State → State) (s : State) : (perform f s).out = (f { s with out := [] }).out := finish_out _

/-- A register field outside `endFlds` reads after a command as its effect left it. -/
theorem perform_rd (f : State → State) (s : State) (g : Fld) (k : Nat) (h : ∀ e ∈ endFlds, e.id ≠ g.id) :
    (perform f s).rd g k = (f { s with out := [] }).rd g k := finish_rd _ g k h

/-- Events that the effect of a command raised wait after it. -/
theorem perform_evq (f : State → State) (s : State) : (f { s with out := [] }).ko.evq <+: (perform f s).ko.evq := finish_evq _

/-- The units after a command are those its effect left. -/
theorem perform_sameUnits (f : State → State) (s : State) :
    State.SameUnits { f { s with out := [] } with pending := s.pending } (perform f s) := by
  have h := finish_sameUnits (f { s with out := [] })
  unfold State.SameUnits at h ⊢
  unfold perform
  rw [h]

/-- A command ends in a settled state, whatever state it starts from, or leaves a cold reset held. -/
theorem perform_settled (f : State → State) (s : State) : (perform f s).Settled := finish_settled _

theorem run_settled (cond : State → Bool) (f : State → State) (s : State) (h : s.Settled) : (run cond f s).Settled := by
  unfold run
  split
  · exact h
  · split
    · exact perform_settled f s
    · exact h

theorem runAlways_settled (cond : State → Bool) (f : State → State) (s : State) (h : s.Settled) : (runAlways cond f s).Settled := by
  unfold runAlways
  split
  · exact perform_settled f s
  · exact h

theorem run_pending (cond : State → Bool) (f : State → State) (s : State) : (run cond f s).pending = s.pending := by
  unfold run
  repeat' split
  all_goals rfl

theorem runAlways_pending (cond : State → Bool) (f : State → State) (s : State) : (runAlways cond f s).pending = s.pending := by
  unfold runAlways
  split <;> rfl

/-- A command whose condition holds, with no cold reset held, has its effect. -/
theorem run_eq (cond : State → Bool) (f : State → State) (s : State) (h : s.held = false) (hc : cond s = true) :
    run cond f s = perform f s := by
  simp [run, h, hc]

/-- With a cold reset held, such a command changes nothing. -/
theorem run_held (cond : State → Bool) (f : State → State) (s : State) (h : s.held = true) : run cond f s = s := by simp [run, h]

/-- A transfer that starts with no beat answered stays as it started. -/
@[simp] theorem beatsAnswered_nil (c : Nat) (s : State) : beatsAnswered c [] s = s := rfl

/-- A beat answered with the command is taken before those after it, when it is due. -/
theorem beatsAnswered_cons (c : Nat) (a : BeatAnswer) (l : List BeatAnswer) (s : State) :
    beatsAnswered c (a :: l) s = beatsAnswered c l (if beatDue s c a.beat then beatAnswered s c a.beat a.err a.bytes [] [] else s) := rfl

/-- A beat that is not due, as on a channel that moves nothing, changes nothing. -/
theorem beatsAnswered_idle (c : Nat) (l : List BeatAnswer) (s : State) (h : ∀ b, beatDue s c b = false) : beatsAnswered c l s = s := by
  induction l with
  | nil => rfl
  | cons a l ih => rw [beatsAnswered_cons, h, if_neg Bool.false_ne_true, ih]

end Sys2Proof.Machine
end

