-- ==== Sys2Proof/Laws/Time.lean ====
section
/-! SUPPORT. What the passing of time does: the timebase, the elapsed time and Belvedere's counters of clocks move, nothing else. -/
namespace Sys2Proof.Machine

theorem takeFree_sameUnits (s : State) : s.SameUnits s.takeFree.2 := rfl

theorem countClocks_sameUnits (s : State) (dt : Nat) : s.SameUnits (countClocks s dt) :=
  ite_sameUnits (State.SameUnits.refl s) (foldl_sameUnits _ (fun u _ => ite_sameUnits (cntAdd_sameUnits _ _ _)
    ((takeFree_sameUnits u).trans (cntAdd_sameUnits _ _ _))) _ _)

theorem countClocks_rd (s : State) (dt : Nat) (g : Fld) (k : Nat) (h : ∀ e ∈ cntFlds, e.id ≠ g.id) :
    (countClocks s dt).rd g k = s.rd g k :=
  ite_rd rfl (foldl_rd _ g k (fun u c => ite_rd (cntAdd_rd u c _ g k h) ((cntAdd_rd u.takeFree.2 c _ g k h).trans rfl)) _ _)

/-- The timebase after the advance. -/
theorem advanceTo_tb (s : State) (x : Nat) : (advanceTo s x).tb = max s.tb x := by
  unfold advanceTo
  split
  · omega
  · show x = _; omega

/-- The elapsed time after the advance. -/
theorem advanceTo_el (s : State) (x : Nat) : (advanceTo s x).el = s.el + (x - s.tb) := by
  unfold advanceTo
  split
  · omega
  · rfl

theorem advanceTo_rd (s : State) (x : Nat) (g : Fld) (k : Nat) (h : ∀ e ∈ cntFlds, e.id ≠ g.id) : (advanceTo s x).rd g k = s.rd g k := by
  unfold advanceTo
  split
  · rfl
  · exact countClocks_rd s _ g k h

theorem advanceTo_sameUnits (s : State) (x : Nat) :
    State.SameUnits { s with tb := max s.tb x, el := s.el + (x - s.tb) } (advanceTo s x) := by
  unfold advanceTo
  split
  · have h1 : max s.tb x = s.tb := by omega
    have h2 : s.el + (x - s.tb) = s.el := by omega
    rw [h1, h2]; rfl
  · have h := countClocks_sameUnits s (x - s.tb)
    have h1 : max s.tb x = x := by omega
    rw [h1]
    unfold State.SameUnits at h ⊢
    rw [h]

theorem advanceEl_el (s : State) (e : Nat) : (advanceEl s e).el = max s.el e := by
  unfold advanceEl
  rw [advanceTo_el]; omega

theorem advanceEl_rd (s : State) (e : Nat) (g : Fld) (k : Nat) (h : ∀ e ∈ cntFlds, e.id ≠ g.id) : (advanceEl s e).rd g k = s.rd g k :=
  advanceTo_rd s _ g k h

theorem advanceEl_sameUnits (s : State) (e : Nat) :
    State.SameUnits { s with tb := s.tb + (e - s.el), el := max s.el e } (advanceEl s e) := by
  have h := advanceTo_sameUnits s (s.tb + (e - s.el))
  have h1 : max s.tb (s.tb + (e - s.el)) = s.tb + (e - s.el) := by omega
  have h2 : s.el + (s.tb + (e - s.el) - s.tb) = max s.el e := by omega
  rw [h1, h2] at h
  exact h

end Sys2Proof.Machine
end

