-- ==== Sys2Proof/Laws/Map.lean ====
section
/-! SUPPORT. The register map decodes without overlap, and what a write at the address of one register reaches. -/
namespace Sys2Proof.Machine

/-- Two fields of one register. -/
def Fld.same (f g : Fld) : Bool := decide (f.addr = g.addr) && decide (f.stride = g.stride) && decide (f.count = g.count)

/-- No copy of f's register, less d bytes, lies at a copy of g's: the ranges are apart, or the strides are equal and the offsets within
them differ. -/
def Fld.far (d : Nat) (f g : Fld) : Bool :=
  decide (f.addr + f.stride * (f.count - 1) < g.addr + d) || decide (g.addr + g.stride * (g.count - 1) + d < f.addr) ||
    (decide (f.stride = g.stride) && decide (f.stride ≠ 0) && decide (f.addr % f.stride ≠ (g.addr + d) % f.stride))

/-- A register with one copy has no stride, or is the only one at its stride. -/
def Fld.sized (f : Fld) : Bool := decide (f.stride ≠ 0) || decide (f.count = 1)

theorem copyAt_same (f g : Fld) (k : Nat) (hk : k < f.count) (hs : f.sized = true) (h : f.same g = true) :
    copyAt g (f.addr + f.stride * k) = some k := by
  simp only [Fld.same, Fld.sized, Bool.and_eq_true, Bool.or_eq_true, decide_eq_true_eq] at h hs
  obtain ⟨⟨ha, hb⟩, hc⟩ := h
  unfold copyAt
  rw [← ha, ← hb, ← hc, if_neg (by omega)]
  split
  · have : k = 0 := by omega
    subst this; simp
  · rename_i h0
    have h1 : f.addr + f.stride * k - f.addr = f.stride * k := by omega
    rw [h1, Nat.mul_mod_right, Nat.mul_div_cancel_left _ (Nat.pos_of_ne_zero h0), if_pos ⟨rfl, hk⟩]

theorem copyAt_range (g : Fld) (off : Nat) (h : off < g.addr ∨ g.addr + g.stride * (g.count - 1) < off) : copyAt g off = none := by
  unfold copyAt
  split
  · rfl
  · split
    · rename_i h1 h2
      rw [h2] at h
      rw [if_neg (by omega)]
    · rename_i h1 h2
      rw [if_neg]
      rintro ⟨hm, hd⟩
      have hx : g.addr + g.stride * (g.count - 1) < off := by omega
      have h3 : g.stride * ((off - g.addr) / g.stride) = off - g.addr := by
        have := Nat.div_add_mod (off - g.addr) g.stride; omega
      have h4 : g.stride * ((off - g.addr) / g.stride) ≤ g.stride * (g.count - 1) := Nat.mul_le_mul_left _ (by omega)
      omega

theorem copyAt_far (d : Nat) (f g : Fld) (k : Nat) (hk : k < f.count) (hd : d ≤ f.addr) (h : f.far d g = true) :
    copyAt g (f.addr + f.stride * k - d) = none := by
  have hm : f.stride * k ≤ f.stride * (f.count - 1) := Nat.mul_le_mul_left _ (by omega)
  simp only [Fld.far, Bool.or_eq_true, Bool.and_eq_true, decide_eq_true_eq] at h
  rcases h with (h | h) | ⟨⟨h1, h2⟩, h3⟩
  · exact copyAt_range g _ (Or.inl (by omega))
  · exact copyAt_range g _ (Or.inr (by omega))
  · unfold copyAt
    split
    · rfl
    · rename_i hlt
      rw [if_neg (h1 ▸ h2), if_neg]
      rintro ⟨hz, -⟩
      apply h3
      rw [← h1] at hz
      have h5 := Nat.div_add_mod (f.addr + f.stride * k - d - g.addr) f.stride
      rw [hz] at h5
      have h6 : f.addr + f.stride * k = g.addr + d + f.stride * ((f.addr + f.stride * k - d - g.addr) / f.stride) := by omega
      have h7 := congrArg (· % f.stride) h6
      simpa [Nat.add_mul_mod_self_left] using h7

/-- Which copy of a field lies at the address of copy k of f, for fields of the same register or of registers apart. -/
theorem copyAt_eq (f g : Fld) (k : Nat) (hk : k < f.count) (hs : f.sized = true) (h : (f.same g || f.far 0 g) = true) :
    copyAt g (f.addr + f.stride * k) = if f.same g then some k else none := by
  split
  · exact copyAt_same f g k hk hs (by assumption)
  · rename_i hn
    have := copyAt_far 0 f g k hk (Nat.zero_le _) (by simpa [hn] using h)
    simpa using this

/-- The fields of one register. -/
theorem fieldsAt_eq (f : Fld) (blk : List Fld) (k : Nat) (hk : k < f.count) (hs : f.sized = true)
    (hb : regBlock (f.addr + f.stride * k) = blk) (h : (blk.all fun g => f.same g || f.far 0 g) = true) :
    fieldsAt (f.addr + f.stride * k) = (blk.filter f.same).map fun g => (g, k) := by
  rw [fieldsAt, hb]
  clear hb
  induction blk with
  | nil => rfl
  | cons g t ih =>
    simp only [List.all_cons, Bool.and_eq_true] at h
    rw [List.filterMap_cons, copyAt_eq f g k hk hs h.1, ih h.2]
    by_cases hg : f.same g = true <;> simp [hg]

/-- What a write at the address of one register sets off. -/
theorem writeHook_eq (f : Fld) (k v : Nat) (s0 s : State) (hk : k < f.count) (hs : f.sized = true)
    (h : (writeHooks.all fun e => f.same e.1 || f.far 0 e.1) = true) :
    writeHook s0 s (f.addr + f.stride * k) v = match writeHooks.find? fun e => f.same e.1 with
      | some e => e.2 s0 s k v
      | none => s := by
  have : ∀ l : List (Fld × (State → State → Nat → Nat → State)), (l.all fun e => f.same e.1 || f.far 0 e.1) = true →
      l.findSome? (fun e => (copyAt e.1 (f.addr + f.stride * k)).map fun j => (e.2, j)) =
        (l.find? fun e => f.same e.1).map fun e => (e.2, k) := by
    intro l hl
    induction l with
    | nil => rfl
    | cons e t ih =>
      simp only [List.all_cons, Bool.and_eq_true] at hl
      rw [List.findSome?_cons, copyAt_eq f e.1 k hk hs hl.1, ih hl.2, List.find?_cons]
      by_cases hg : f.same e.1 = true <;> simp [hg]
  unfold writeHook
  rw [this writeHooks h]
  cases writeHooks.find? fun e => f.same e.1 <;> rfl

/-- The rules over several fields that a write at the address of one register meets. -/
theorem crossRules_eq (f : Fld) (k v : Nat) (s : State) (hk : k < f.count) (hs : f.sized = true)
    (h : (crossRules.all fun e => f.same e.1 || f.far 0 e.1) = true) :
    (crossRules.any fun r => match copyAt r.1 (f.addr + f.stride * k) with | some j => r.2 s j v | none => false) =
      (crossRules.filter fun e => f.same e.1).any fun r => r.2 s k v := by
  have : ∀ l : List (Fld × (State → Nat → Nat → Bool)), (l.all fun e => f.same e.1 || f.far 0 e.1) = true →
      (l.any fun r => match copyAt r.1 (f.addr + f.stride * k) with | some j => r.2 s j v | none => false) =
        (l.filter fun e => f.same e.1).any fun r => r.2 s k v := by
    intro l hl
    induction l with
    | nil => rfl
    | cons e t ih =>
      simp only [List.all_cons, Bool.and_eq_true] at hl
      rw [List.any_cons, copyAt_eq f e.1 k hk hs hl.1, ih hl.2, List.filter_cons]
      by_cases hg : f.same e.1 = true <;> simp [hg]
  exact this crossRules h

/-- The block of an offset, between the bounds of Table 0-10. -/
theorem regBlock_range (f : Fld) (k lo hi : Nat) (blk : List Fld) (hk : k < f.count) (hl : lo ≤ f.addr)
    (hh : f.addr + f.stride * (f.count - 1) < hi) (h : ∀ off, lo ≤ off → off < hi → regBlock off = blk) :
    regBlock (f.addr + f.stride * k) = blk := by
  have hm : f.stride * k ≤ f.stride * (f.count - 1) := Nat.mul_le_mul_left _ (by omega)
  exact h _ (by omega) (by omega)

/-- A register whose addresses keep clear of the MSI-X structures. -/
theorem msixOffset_false (f : Fld) (k : Nat) (hk : k < f.count)
    (h : (decide (f.addr + f.stride * (f.count - 1) < 0x108000) || decide (0x109004 < f.addr) ||
      (decide (0x108400 ≤ f.addr) && decide (f.addr + f.stride * (f.count - 1) < 0x109000))) = true) :
    msixOffset (f.addr + f.stride * k) = false := by
  have hm : f.stride * k ≤ f.stride * (f.count - 1) := Nat.mul_le_mul_left _ (by omega)
  simp only [Bool.or_eq_true, Bool.and_eq_true, decide_eq_true_eq] at h
  simp only [msixOffset, Bool.or_eq_false_iff, Bool.and_eq_false_iff, decide_eq_false_iff_not]
  omega

/-- A register that no 64-bit quantity precedes is no _HI register. -/
theorem isHi_false (f : Fld) (blk : List Fld) (k : Nat) (hk : k < f.count) (hd : 4 ≤ f.addr)
    (hb : regBlock (f.addr + f.stride * k - 4) = blk) (h : (blk.all fun g => !g.wide || f.far 4 g) = true) :
    isHi (f.addr + f.stride * k) = false := by
  have hall : ∀ e ∈ fieldsAt (f.addr + f.stride * k - 4), e.1.wide = false := by
    intro e he
    rw [fieldsAt, hb, List.mem_filterMap] at he
    obtain ⟨g, hg, hge⟩ := he
    have hx := List.all_eq_true.mp h g hg
    by_cases hw : g.wide = true
    · rw [hw] at hx
      have := copyAt_far 4 f g k hk hd (by simpa using hx)
      rw [this] at hge; simp at hge
    · cases hc : copyAt g (f.addr + f.stride * k - 4) with
      | none => rw [hc] at hge; simp at hge
      | some j => rw [hc] at hge; simp at hge; subst hge; simpa using hw
  have hnil : hiFieldsAt (f.addr + f.stride * k) = [] := by
    rw [hiFieldsAt, if_neg (by omega), List.filter_eq_nil_iff]
    intro e he; simp [hall e he]
  simp [isHi, hnil]

/-- A register outside the units whose registers go with their domain. -/
theorem regDomain_none (f : Fld) (k : Nat) (hk : k < f.count)
    (h : (decide (f.addr + f.stride * (f.count - 1) < 0x800000) || decide (0x2840000 ≤ f.addr)) = true) :
    regDomain (f.addr + f.stride * k) = none := by
  have hm : f.stride * k ≤ f.stride * (f.count - 1) := Nat.mul_le_mul_left _ (by omega)
  simp only [Bool.or_eq_true, decide_eq_true_eq] at h
  unfold regDomain
  repeat rw [if_neg (by omega)]

/-- A field that is no sticky error register releases nothing. -/
theorem releaseFirst_plain (s : State) (e : Fld × Nat) (h : (Err.units.all fun u => decide (u.bits.id ≠ e.1.id)) = true) :
    releaseFirst s e = s := by
  have : (Err.units.find? fun u => decide (u.bits.id = e.1.id) && decide (u.k = e.2)) = none := by
    rw [List.find?_eq_none]
    intro u hu
    have := List.all_eq_true.mp h u hu
    simp only [decide_eq_true_eq] at this
    simp [this]
  unfold releaseFirst
  rw [this]

theorem releaseFirst_foldl (l : List (Fld × Nat)) (s : State)
    (h : (l.all fun e => Err.units.all fun u => decide (u.bits.id ≠ e.1.id)) = true) : l.foldl releaseFirst s = s := by
  induction l generalizing s with
  | nil => rfl
  | cons e t ih =>
    simp only [List.all_cons, Bool.and_eq_true] at h
    rw [List.foldl_cons, releaseFirst_plain s e h.1, ih s h.2]

end Sys2Proof.Machine
end

