-- ==== Sys2Proof/Laws/Memory.lean ====
section
/-! SUPPORT. The canonical form of the memory and the read-after-write laws of the HBM. -/
namespace Sys2Proof.Machine

/-- The canonical form holds from a lower address too. -/
theorem Memory.wfFrom_mono {lo lo' : Nat} (h : lo' ≤ lo) : ∀ {m : List Host.Cell}, Memory.wfFrom lo m = true → Memory.wfFrom lo' m = true
  | [], _ => rfl
  | (k, v) :: t, hm => by
    simp only [Memory.wfFrom, Bool.and_eq_true, decide_eq_true_eq] at hm ⊢
    exact ⟨⟨by omega, hm.1.2⟩, hm.2⟩

/-- A write of one byte keeps the canonical form. -/
theorem Memory.put_wfFrom : ∀ (m : List Host.Cell) (lo a : Nat) (b : Byte), lo ≤ a → Memory.wfFrom lo m = true →
    Memory.wfFrom lo (Memory.put m a b) = true
  | [], lo, a, b, hl, _ => by
    unfold Memory.put
    split
    · rfl
    · simp_all [Memory.wfFrom]
  | (k, v) :: t, lo, a, b, hl, hm => by
    have hm' := hm
    simp only [Memory.wfFrom, Bool.and_eq_true, decide_eq_true_eq] at hm'
    obtain ⟨⟨h1, h2⟩, h3⟩ := hm'
    unfold Memory.put
    split
    · split
      · exact hm
      · simp only [Memory.wfFrom, Bool.and_eq_true, decide_eq_true_eq]
        exact ⟨⟨hl, by assumption⟩, ⟨by omega, h2⟩, h3⟩
    · split
      · split
        · exact Memory.wfFrom_mono (by omega) h3
        · simp only [Memory.wfFrom, Bool.and_eq_true, decide_eq_true_eq]
          subst_vars
          exact ⟨⟨h1, by assumption⟩, h3⟩
      · simp only [Memory.wfFrom, Bool.and_eq_true, decide_eq_true_eq]
        exact ⟨⟨h1, h2⟩, Memory.put_wfFrom t (k + 1) a b (by omega) h3⟩

theorem Memory.put_wf (m : List Host.Cell) (a : Nat) (b : Byte) (h : Memory.wf m = true) : Memory.wf (Memory.put m a b) = true :=
  Memory.put_wfFrom m 0 a b (Nat.zero_le a) h

theorem Memory.putAll_wf : ∀ (bs : List Byte) (m : List Host.Cell) (a : Nat), Memory.wf m = true → Memory.wf (Memory.putAll m a bs) = true
  | [], _, _, h => h
  | b :: t, m, a, h => Memory.putAll_wf t _ (a + 1) (Memory.put_wf m a b h)

theorem Memory.putLive_wf (s : State) : ∀ (bs : List Byte) (m : List Host.Cell) (a : Nat), Memory.wf m = true →
    Memory.wf (Memory.putLive s m a bs) = true
  | [], _, _, h => h
  | b :: t, m, a, h => Memory.putLive_wf s t _ (a + 1) (by split; exact h; exact Memory.put_wf m a b h)

/-- A write to the HBM keeps its canonical form. -/
theorem State.hbmWrite_wf (s : State) (a : Nat) (bs : List Byte) (h : Memory.wf s.hbm = true) : Memory.wf (s.hbmWrite a bs).hbm = true := by
  unfold State.hbmWrite
  dsimp only
  split
  · exact Memory.putAll_wf bs _ a h
  · exact Memory.putLive_wf s bs _ a h

/-- The memory after reset has the canonical form. -/
theorem Memory.reset_wf : Memory.wf State.reset.hbm = true := rfl

/-- An address below every listed one reads 0. -/
theorem Memory.get_below : ∀ (m : List Host.Cell) (lo a : Nat), a < lo → Memory.wfFrom lo m = true → Memory.get m a = 0
  | [], _, _, _, _ => rfl
  | (k, v) :: t, lo, a, h, hm => by
    simp only [Memory.wfFrom, Bool.and_eq_true, decide_eq_true_eq] at hm
    have hk : k ≠ a := by omega
    simp only [Memory.get, if_neg hk]
    exact Memory.get_below t (k + 1) a (by omega) hm.2

/-- A read of the byte written. -/
theorem Memory.get_put_same : ∀ (m : List Host.Cell) (lo a : Nat) (b : Byte), Memory.wfFrom lo m = true → Memory.get (Memory.put m a b) a = b
  | [], _, a, b, _ => by
    unfold Memory.put
    split <;> simp_all [Memory.get]
  | (k, v) :: t, lo, a, b, hm => by
    simp only [Memory.wfFrom, Bool.and_eq_true, decide_eq_true_eq] at hm
    unfold Memory.put
    split
    · split
      · have hk : k ≠ a := by omega
        simp only [Memory.get, if_neg hk]
        rw [Memory.get_below t (k + 1) a (by omega) hm.2]
        simp_all
      · simp [Memory.get]
    · split
      · split
        · rename_i hk hb
          rw [Memory.get_below t (k + 1) a (by omega) hm.2, hb]
        · simp [Memory.get]
      · have hk : k ≠ a := by omega
        simp only [Memory.get, if_neg hk]
        exact Memory.get_put_same t (k + 1) a b hm.2

/-- A read of another byte than the one written. -/
theorem Memory.get_put_other : ∀ (m : List Host.Cell) (lo a c : Nat) (b : Byte), a ≠ c → Memory.wfFrom lo m = true →
    Memory.get (Memory.put m a b) c = Memory.get m c
  | [], _, a, c, b, h, _ => by
    unfold Memory.put
    split
    · rfl
    · simp [Memory.get, h]
  | (k, v) :: t, lo, a, c, b, h, hm => by
    have hm' := hm
    simp only [Memory.wfFrom, Bool.and_eq_true, decide_eq_true_eq] at hm'
    unfold Memory.put
    split
    · split
      · rfl
      · simp only [Memory.get, if_neg h]
    · split
      · rename_i hk
        subst hk
        split
        · simp only [Memory.get, if_neg h]
        · simp only [Memory.get, if_neg h]
      · simp only [Memory.get]
        rw [Memory.get_put_other t (k + 1) a c b h hm'.2]

/-- Bytes written in a row read back, and every byte outside them reads as before. -/
theorem Memory.get_putAll : ∀ (bs : List Byte) (m : List Host.Cell) (a c : Nat), Memory.wf m = true →
    Memory.get (Memory.putAll m a bs) c = if a ≤ c ∧ c < a + bs.length then bs.getD (c - a) 0 else Memory.get m c
  | [], m, a, c, _ => by
    rw [if_neg (by simp only [List.length_nil]; omega)]
    rfl
  | b :: t, m, a, c, h => by
    have ih := Memory.get_putAll t (Memory.put m a b) (a + 1) c (Memory.put_wf m a b h)
    simp only [Memory.putAll, List.length_cons]
    rw [ih]
    by_cases hc : c = a
    · subst hc
      rw [if_neg (by omega), if_pos (by omega), Memory.get_put_same m 0 c b h]
      simp
    · by_cases h2 : a + 1 ≤ c ∧ c < a + 1 + t.length
      · rw [if_pos h2, if_pos (by omega)]
        obtain ⟨d, rfl⟩ : ∃ d, c = a + 1 + d := ⟨c - (a + 1), by omega⟩
        have e1 : a + 1 + d - (a + 1) = d := by omega
        have e2 : a + 1 + d - a = d + 1 := by omega
        rw [e1, e2]; simp
      · rw [if_neg h2, if_neg (by omega), Memory.get_put_other m 0 a c b (by omega) h]

/-- Bytes read in a row are the bytes at their addresses. -/
theorem Memory.getAll_eq (m : List Host.Cell) : ∀ (n a : Nat), Memory.getAll m a n = (List.range n).map fun i => Memory.get m (a + i)
  | 0, _ => rfl
  | n + 1, a => by
    rw [Memory.getAll, Memory.getAll_eq m n (a + 1), List.range_succ_eq_map, List.map_cons, List.map_map]
    congr 1
    exact List.map_congr_left fun i _ => by simp [Nat.add_assoc, Nat.add_comm 1 i]

end Sys2Proof.Machine
end

