-- ==== Sys2Proof/Laws/Writes.lean ====
section
/-! SUPPORT. The registers that commands of their own write: the fields at each address, what the write sets off, and that the bus
reaches them as plain registers or as 64-bit quantities. -/
namespace Sys2Proof.Machine

theorem regBlock_global (off : Nat) (_h : 0x0 ≤ off) (h' : off < 0x100000) : regBlock off = RegMap.global := by
  unfold regBlock
  rw [if_pos (by omega)]

theorem regBlock_kiosk (off : Nat) (h : 0x100000 ≤ off) (h' : off < 0x200000) : regBlock off = RegMap.kiosk := by
  unfold regBlock
  repeat rw [if_neg (by omega)]
  rw [if_pos (by omega)]

theorem regBlock_dma (off : Nat) (h : 0x200000 ≤ off) (h' : off < 0x300000) : regBlock off = RegMap.dma := by
  unfold regBlock
  repeat rw [if_neg (by omega)]
  rw [if_pos (by omega)]

theorem regBlock_cloister (off : Nat) (h : 0x300000 ≤ off) (h' : off < 0x400000) : regBlock off = RegMap.cloister := by
  unfold regBlock
  repeat rw [if_neg (by omega)]
  rw [if_pos (by omega)]

theorem regBlock_glasshouse (off : Nat) (h : 0x400000 ≤ off) (h' : off < 0x800000) : regBlock off = RegMap.glasshouse := by
  unfold regBlock
  repeat rw [if_neg (by omega)]
  rw [if_pos (by omega)]

theorem regBlock_yargil (off : Nat) (h : 0x800000 ≤ off) (h' : off < 0xa00000) : regBlock off = RegMap.yargil := by
  unfold regBlock
  repeat rw [if_neg (by omega)]
  rw [if_pos (by omega)]

theorem regBlock_eyepiece (off : Nat) (h : 0x2000000 ≤ off) (h' : off < 0x2400000) : regBlock off = RegMap.eyepiece := by
  unfold regBlock
  repeat rw [if_neg (by omega)]
  rw [if_pos (by omega)]

theorem regBlock_sundial (off : Nat) (h : 0x2c00000 ≤ off) (h' : off < 0x3000000) : regBlock off = RegMap.sundial := by
  unfold regBlock
  repeat rw [if_neg (by omega)]
  rw [if_pos (by omega)]

theorem regBlock_belvedere (off : Nat) (h : 0x3400000 ≤ off) (h' : off < 0x3800000) : regBlock off = RegMap.belvedere := by
  unfold regBlock
  repeat rw [if_neg (by omega)]
  rw [if_pos (by omega)]

theorem regBlock_power (off : Nat) (h : 0x3800000 ≤ off) (h' : off < 0x3c00000) : regBlock off = RegMap.power := by
  unfold regBlock
  repeat rw [if_neg (by omega)]
  rw [if_pos (by omega)]

/-- The fields of GLOBAL_DATA_RESET. -/
theorem fieldsAt_GLOBAL_DATA_RESET (k : Nat) (hk : k < 1) : fieldsAt (F.GLOBAL_DATA_RESET.DATA_RESET.addr + F.GLOBAL_DATA_RESET.DATA_RESET.stride * k) = [(F.GLOBAL_DATA_RESET.DATA_RESET, k)] :=
  (fieldsAt_eq F.GLOBAL_DATA_RESET.DATA_RESET RegMap.global k hk (by decide)
    (regBlock_range F.GLOBAL_DATA_RESET.DATA_RESET k 0x0 0x100000 _ hk (by decide) (by decide) regBlock_global) (by decide)).trans rfl

/-- What a write of GLOBAL_DATA_RESET sets off. -/
theorem writeHook_GLOBAL_DATA_RESET (s0 s : State) (k v : Nat) (hk : k < 1) : writeHook s0 s (F.GLOBAL_DATA_RESET.DATA_RESET.addr + F.GLOBAL_DATA_RESET.DATA_RESET.stride * k) v = (dataResetWritten s v) :=
  (writeHook_eq F.GLOBAL_DATA_RESET.DATA_RESET k v s0 s hk (by decide) (by decide)).trans rfl

/-- GLOBAL_DATA_RESET takes a write of its word whole. -/
theorem busWriteWord_GLOBAL_DATA_RESET (s : State) (k v : Nat) (hk : k < 1) :
    busWriteWord s (F.GLOBAL_DATA_RESET.DATA_RESET.addr + F.GLOBAL_DATA_RESET.DATA_RESET.stride * k) v = regWrite s (F.GLOBAL_DATA_RESET.DATA_RESET.addr + F.GLOBAL_DATA_RESET.DATA_RESET.stride * k) v := by
  have hf := fieldsAt_GLOBAL_DATA_RESET k hk
  have hm : msixOffset (F.GLOBAL_DATA_RESET.DATA_RESET.addr + F.GLOBAL_DATA_RESET.DATA_RESET.stride * k) = false := msixOffset_false F.GLOBAL_DATA_RESET.DATA_RESET k hk (by decide)
  have hh : isHi (F.GLOBAL_DATA_RESET.DATA_RESET.addr + F.GLOBAL_DATA_RESET.DATA_RESET.stride * k) = false := by
    exact isHi_false F.GLOBAL_DATA_RESET.DATA_RESET RegMap.global k hk (by decide) (regBlock_global _ (by show 0x0 ≤ 0x44 + 0 * k - 4; omega) (by show 0x44 + 0 * k - 4 < 0x100000; omega)) (by decide)
  have hl : isLo (F.GLOBAL_DATA_RESET.DATA_RESET.addr + F.GLOBAL_DATA_RESET.DATA_RESET.stride * k) = false := by rw [isLo, hf]; rfl
  have hd : isDecoded s (F.GLOBAL_DATA_RESET.DATA_RESET.addr + F.GLOBAL_DATA_RESET.DATA_RESET.stride * k) = true := by
    simp [isDecoded, hf, regDomain_none F.GLOBAL_DATA_RESET.DATA_RESET k hk (by decide)]
  simp [busWriteWord, hm, hh, hl, hd]

/-- The fields of POWER_DOM. -/
theorem fieldsAt_POWER_DOM (k : Nat) (hk : k < 44) : fieldsAt (F.POWER_DOM.REQ.addr + F.POWER_DOM.REQ.stride * k) = [(F.POWER_DOM.IN_USE, k), (F.POWER_DOM.ST_PASS, k), (F.POWER_DOM.STATE, k), (F.POWER_DOM.REQ, k)] :=
  (fieldsAt_eq F.POWER_DOM.REQ RegMap.power k hk (by decide)
    (regBlock_range F.POWER_DOM.REQ k 0x3800000 0x3c00000 _ hk (by decide) (by decide) regBlock_power) (by decide)).trans rfl

/-- What a write of POWER_DOM sets off. -/
theorem writeHook_POWER_DOM (s0 s : State) (k v : Nat) (hk : k < 44) : writeHook s0 s (F.POWER_DOM.REQ.addr + F.POWER_DOM.REQ.stride * k) v = (if bit v 0 then powerUp s k else powerDown s k) :=
  (writeHook_eq F.POWER_DOM.REQ k v s0 s hk (by decide) (by decide)).trans rfl

/-- POWER_DOM takes a write of its word whole. -/
theorem busWriteWord_POWER_DOM (s : State) (k v : Nat) (hk : k < 44) :
    busWriteWord s (F.POWER_DOM.REQ.addr + F.POWER_DOM.REQ.stride * k) v = regWrite s (F.POWER_DOM.REQ.addr + F.POWER_DOM.REQ.stride * k) v := by
  have hf := fieldsAt_POWER_DOM k hk
  have hm : msixOffset (F.POWER_DOM.REQ.addr + F.POWER_DOM.REQ.stride * k) = false := msixOffset_false F.POWER_DOM.REQ k hk (by decide)
  have hh : isHi (F.POWER_DOM.REQ.addr + F.POWER_DOM.REQ.stride * k) = false := by
    rcases Nat.eq_zero_or_pos k with rfl | h0
    · exact (by decide : isHi 0x3800000 = false)
    · exact isHi_false F.POWER_DOM.REQ RegMap.power k hk (by decide) (regBlock_power _ (by show 0x3800000 ≤ 0x3800000 + 4 * k - 4; omega) (by show 0x3800000 + 4 * k - 4 < 0x3c00000; omega)) (by decide)
  have hl : isLo (F.POWER_DOM.REQ.addr + F.POWER_DOM.REQ.stride * k) = false := by rw [isLo, hf]; rfl
  have hd : isDecoded s (F.POWER_DOM.REQ.addr + F.POWER_DOM.REQ.stride * k) = true := by
    simp [isDecoded, hf, regDomain_none F.POWER_DOM.REQ k hk (by decide)]
  simp [busWriteWord, hm, hh, hl, hd]

/-- The fields of KIOSK_WAKE. -/
theorem fieldsAt_KIOSK_WAKE (k : Nat) (hk : k < 1) : fieldsAt (F.KIOSK_WAKE.WAKE.addr + F.KIOSK_WAKE.WAKE.stride * k) = [(F.KIOSK_WAKE.WAKE, k)] :=
  (fieldsAt_eq F.KIOSK_WAKE.WAKE RegMap.kiosk k hk (by decide)
    (regBlock_range F.KIOSK_WAKE.WAKE k 0x100000 0x200000 _ hk (by decide) (by decide) regBlock_kiosk) (by decide)).trans rfl

/-- What a write of KIOSK_WAKE sets off. -/
theorem writeHook_KIOSK_WAKE (s0 s : State) (k v : Nat) (hk : k < 1) : writeHook s0 s (F.KIOSK_WAKE.WAKE.addr + F.KIOSK_WAKE.WAKE.stride * k) v = (if bit v 0 then { s with ko := { s.ko with pollNow := true } } else s) :=
  (writeHook_eq F.KIOSK_WAKE.WAKE k v s0 s hk (by decide) (by decide)).trans rfl

/-- KIOSK_WAKE takes a write of its word whole. -/
theorem busWriteWord_KIOSK_WAKE (s : State) (k v : Nat) (hk : k < 1) :
    busWriteWord s (F.KIOSK_WAKE.WAKE.addr + F.KIOSK_WAKE.WAKE.stride * k) v = regWrite s (F.KIOSK_WAKE.WAKE.addr + F.KIOSK_WAKE.WAKE.stride * k) v := by
  have hf := fieldsAt_KIOSK_WAKE k hk
  have hm : msixOffset (F.KIOSK_WAKE.WAKE.addr + F.KIOSK_WAKE.WAKE.stride * k) = false := msixOffset_false F.KIOSK_WAKE.WAKE k hk (by decide)
  have hh : isHi (F.KIOSK_WAKE.WAKE.addr + F.KIOSK_WAKE.WAKE.stride * k) = false := by
    exact isHi_false F.KIOSK_WAKE.WAKE RegMap.kiosk k hk (by decide) (regBlock_kiosk _ (by show 0x100000 ≤ 0x100004 + 0 * k - 4; omega) (by show 0x100004 + 0 * k - 4 < 0x200000; omega)) (by decide)
  have hl : isLo (F.KIOSK_WAKE.WAKE.addr + F.KIOSK_WAKE.WAKE.stride * k) = false := by rw [isLo, hf]; rfl
  have hd : isDecoded s (F.KIOSK_WAKE.WAKE.addr + F.KIOSK_WAKE.WAKE.stride * k) = true := by
    simp [isDecoded, hf, regDomain_none F.KIOSK_WAKE.WAKE k hk (by decide)]
  simp [busWriteWord, hm, hh, hl, hd]

/-- The fields of KIOSK_RING_CFG. -/
theorem fieldsAt_KIOSK_RING_CFG (k : Nat) (hk : k < 12) : fieldsAt (F.KIOSK_RING_CFG.EN.addr + F.KIOSK_RING_CFG.EN.stride * k) = [(F.KIOSK_RING_CFG.EN, k), (F.KIOSK_RING_CFG.LOG2_SIZE, k), (F.KIOSK_RING_CFG.MOD, k), (F.KIOSK_RING_CFG.VECTOR, k)] :=
  (fieldsAt_eq F.KIOSK_RING_CFG.EN RegMap.kiosk k hk (by decide)
    (regBlock_range F.KIOSK_RING_CFG.EN k 0x100000 0x200000 _ hk (by decide) (by decide) regBlock_kiosk) (by decide)).trans rfl

/-- What a write of KIOSK_RING_CFG sets off. -/
theorem writeHook_KIOSK_RING_CFG (s0 s : State) (k v : Nat) (hk : k < 12) : writeHook s0 s (F.KIOSK_RING_CFG.EN.addr + F.KIOSK_RING_CFG.EN.stride * k) v = (ringWritten s k) :=
  (writeHook_eq F.KIOSK_RING_CFG.EN k v s0 s hk (by decide) (by decide)).trans rfl

/-- KIOSK_RING_CFG takes a write of its word whole. -/
theorem busWriteWord_KIOSK_RING_CFG (s : State) (k v : Nat) (hk : k < 12) :
    busWriteWord s (F.KIOSK_RING_CFG.EN.addr + F.KIOSK_RING_CFG.EN.stride * k) v = regWrite s (F.KIOSK_RING_CFG.EN.addr + F.KIOSK_RING_CFG.EN.stride * k) v := by
  have hf := fieldsAt_KIOSK_RING_CFG k hk
  have hm : msixOffset (F.KIOSK_RING_CFG.EN.addr + F.KIOSK_RING_CFG.EN.stride * k) = false := msixOffset_false F.KIOSK_RING_CFG.EN k hk (by decide)
  have hh : isHi (F.KIOSK_RING_CFG.EN.addr + F.KIOSK_RING_CFG.EN.stride * k) = false := by
    exact isHi_false F.KIOSK_RING_CFG.EN RegMap.kiosk k hk (by decide) (regBlock_kiosk _ (by show 0x100000 ≤ 0x100108 + 32 * k - 4; omega) (by show 0x100108 + 32 * k - 4 < 0x200000; omega)) (by decide)
  have hl : isLo (F.KIOSK_RING_CFG.EN.addr + F.KIOSK_RING_CFG.EN.stride * k) = false := by rw [isLo, hf]; rfl
  have hd : isDecoded s (F.KIOSK_RING_CFG.EN.addr + F.KIOSK_RING_CFG.EN.stride * k) = true := by
    simp [isDecoded, hf, regDomain_none F.KIOSK_RING_CFG.EN k hk (by decide)]
  simp [busWriteWord, hm, hh, hl, hd]

/-- The fields of DMA_CH_CTL. -/
theorem fieldsAt_DMA_CH_CTL (k : Nat) (hk : k < 32) : fieldsAt (F.DMA_CH_CTL.STOP.addr + F.DMA_CH_CTL.STOP.stride * k) = [(F.DMA_CH_CTL.RESTART, k), (F.DMA_CH_CTL.STOP, k)] :=
  (fieldsAt_eq F.DMA_CH_CTL.STOP RegMap.dma k hk (by decide)
    (regBlock_range F.DMA_CH_CTL.STOP k 0x200000 0x300000 _ hk (by decide) (by decide) regBlock_dma) (by decide)).trans rfl

/-- What a write of DMA_CH_CTL sets off. -/
theorem writeHook_DMA_CH_CTL (s0 s : State) (k v : Nat) (hk : k < 32) : writeHook s0 s (F.DMA_CH_CTL.STOP.addr + F.DMA_CH_CTL.STOP.stride * k) v = (dmaCtlWritten s k v) :=
  (writeHook_eq F.DMA_CH_CTL.STOP k v s0 s hk (by decide) (by decide)).trans rfl

/-- DMA_CH_CTL takes a write of its word whole. -/
theorem busWriteWord_DMA_CH_CTL (s : State) (k v : Nat) (hk : k < 32) :
    busWriteWord s (F.DMA_CH_CTL.STOP.addr + F.DMA_CH_CTL.STOP.stride * k) v = regWrite s (F.DMA_CH_CTL.STOP.addr + F.DMA_CH_CTL.STOP.stride * k) v := by
  have hf := fieldsAt_DMA_CH_CTL k hk
  have hm : msixOffset (F.DMA_CH_CTL.STOP.addr + F.DMA_CH_CTL.STOP.stride * k) = false := msixOffset_false F.DMA_CH_CTL.STOP k hk (by decide)
  have hh : isHi (F.DMA_CH_CTL.STOP.addr + F.DMA_CH_CTL.STOP.stride * k) = false := by
    exact isHi_false F.DMA_CH_CTL.STOP RegMap.dma k hk (by decide) (regBlock_dma _ (by show 0x200000 ≤ 0x200004 + 32 * k - 4; omega) (by show 0x200004 + 32 * k - 4 < 0x300000; omega)) (by decide)
  have hl : isLo (F.DMA_CH_CTL.STOP.addr + F.DMA_CH_CTL.STOP.stride * k) = false := by rw [isLo, hf]; rfl
  have hd : isDecoded s (F.DMA_CH_CTL.STOP.addr + F.DMA_CH_CTL.STOP.stride * k) = true := by
    simp [isDecoded, hf, regDomain_none F.DMA_CH_CTL.STOP k hk (by decide)]
  simp [busWriteWord, hm, hh, hl, hd]

/-- The fields of SD_REF_CFG. -/
theorem fieldsAt_SD_REF_CFG (k : Nat) (hk : k < 4) : fieldsAt (F.SD_REF_CFG.EN.addr + F.SD_REF_CFG.EN.stride * k) = [(F.SD_REF_CFG.EN, k), (F.SD_REF_CFG.PPS_EN, k), (F.SD_REF_CFG.FREQ_KHZ, k), (F.SD_REF_CFG.RANK, k)] :=
  (fieldsAt_eq F.SD_REF_CFG.EN RegMap.sundial k hk (by decide)
    (regBlock_range F.SD_REF_CFG.EN k 0x2c00000 0x3000000 _ hk (by decide) (by decide) regBlock_sundial) (by decide)).trans rfl

/-- What a write of SD_REF_CFG sets off. -/
theorem writeHook_SD_REF_CFG (s0 s : State) (k v : Nat) (hk : k < 4) : writeHook s0 s (F.SD_REF_CFG.EN.addr + F.SD_REF_CFG.EN.stride * k) v = (refCfgWritten s k) :=
  (writeHook_eq F.SD_REF_CFG.EN k v s0 s hk (by decide) (by decide)).trans rfl

/-- SD_REF_CFG takes a write of its word whole. -/
theorem busWriteWord_SD_REF_CFG (s : State) (k v : Nat) (hk : k < 4) :
    busWriteWord s (F.SD_REF_CFG.EN.addr + F.SD_REF_CFG.EN.stride * k) v = regWrite s (F.SD_REF_CFG.EN.addr + F.SD_REF_CFG.EN.stride * k) v := by
  have hf := fieldsAt_SD_REF_CFG k hk
  have hm : msixOffset (F.SD_REF_CFG.EN.addr + F.SD_REF_CFG.EN.stride * k) = false := msixOffset_false F.SD_REF_CFG.EN k hk (by decide)
  have hh : isHi (F.SD_REF_CFG.EN.addr + F.SD_REF_CFG.EN.stride * k) = false := by
    exact isHi_false F.SD_REF_CFG.EN RegMap.sundial k hk (by decide) (regBlock_sundial _ (by show 0x2c00000 ≤ 0x2c00080 + 16 * k - 4; omega) (by show 0x2c00080 + 16 * k - 4 < 0x3000000; omega)) (by decide)
  have hl : isLo (F.SD_REF_CFG.EN.addr + F.SD_REF_CFG.EN.stride * k) = false := by rw [isLo, hf]; rfl
  have hd : isDecoded s (F.SD_REF_CFG.EN.addr + F.SD_REF_CFG.EN.stride * k) = true := by
    simp [isDecoded, hf, regDomain_none F.SD_REF_CFG.EN k hk (by decide)]
  simp [busWriteWord, hm, hh, hl, hd]

/-- The fields of SD_VIRT_FREQ. -/
theorem fieldsAt_SD_VIRT_FREQ (k : Nat) (hk : k < 1) : fieldsAt (F.SD_VIRT_FREQ.FREQ.addr + F.SD_VIRT_FREQ.FREQ.stride * k) = [(F.SD_VIRT_FREQ.FREQ, k)] :=
  (fieldsAt_eq F.SD_VIRT_FREQ.FREQ RegMap.sundial k hk (by decide)
    (regBlock_range F.SD_VIRT_FREQ.FREQ k 0x2c00000 0x3000000 _ hk (by decide) (by decide) regBlock_sundial) (by decide)).trans rfl

/-- What a write of SD_VIRT_FREQ sets off. -/
theorem writeHook_SD_VIRT_FREQ (s0 s : State) (k v : Nat) (hk : k < 1) : writeHook s0 s (F.SD_VIRT_FREQ.FREQ.addr + F.SD_VIRT_FREQ.FREQ.stride * k) v = (virtFreqWritten s) :=
  (writeHook_eq F.SD_VIRT_FREQ.FREQ k v s0 s hk (by decide) (by decide)).trans rfl

/-- SD_VIRT_FREQ takes a write of its word whole. -/
theorem busWriteWord_SD_VIRT_FREQ (s : State) (k v : Nat) (hk : k < 1) :
    busWriteWord s (F.SD_VIRT_FREQ.FREQ.addr + F.SD_VIRT_FREQ.FREQ.stride * k) v = regWrite s (F.SD_VIRT_FREQ.FREQ.addr + F.SD_VIRT_FREQ.FREQ.stride * k) v := by
  have hf := fieldsAt_SD_VIRT_FREQ k hk
  have hm : msixOffset (F.SD_VIRT_FREQ.FREQ.addr + F.SD_VIRT_FREQ.FREQ.stride * k) = false := msixOffset_false F.SD_VIRT_FREQ.FREQ k hk (by decide)
  have hh : isHi (F.SD_VIRT_FREQ.FREQ.addr + F.SD_VIRT_FREQ.FREQ.stride * k) = false := by
    exact isHi_false F.SD_VIRT_FREQ.FREQ RegMap.sundial k hk (by decide) (regBlock_sundial _ (by show 0x2c00000 ≤ 0x2c00058 + 0 * k - 4; omega) (by show 0x2c00058 + 0 * k - 4 < 0x3000000; omega)) (by decide)
  have hl : isLo (F.SD_VIRT_FREQ.FREQ.addr + F.SD_VIRT_FREQ.FREQ.stride * k) = false := by rw [isLo, hf]; rfl
  have hd : isDecoded s (F.SD_VIRT_FREQ.FREQ.addr + F.SD_VIRT_FREQ.FREQ.stride * k) = true := by
    simp [isDecoded, hf, regDomain_none F.SD_VIRT_FREQ.FREQ k hk (by decide)]
  simp [busWriteWord, hm, hh, hl, hd]

/-- The fields of SD_TOD_SET. -/
theorem fieldsAt_SD_TOD_SET (k : Nat) (hk : k < 1) : fieldsAt (F.SD_TOD_SET.SEC.addr + F.SD_TOD_SET.SEC.stride * k) = [(F.SD_TOD_SET.SEC, k)] :=
  (fieldsAt_eq F.SD_TOD_SET.SEC RegMap.sundial k hk (by decide)
    (regBlock_range F.SD_TOD_SET.SEC k 0x2c00000 0x3000000 _ hk (by decide) (by decide) regBlock_sundial) (by decide)).trans rfl

/-- What a write of SD_TOD_SET sets off. -/
theorem writeHook_SD_TOD_SET (s0 s : State) (k v : Nat) (hk : k < 1) : writeHook s0 s (F.SD_TOD_SET.SEC.addr + F.SD_TOD_SET.SEC.stride * k) v = (todWritten s) :=
  (writeHook_eq F.SD_TOD_SET.SEC k v s0 s hk (by decide) (by decide)).trans rfl

/-- The _HI word of SD_TOD_SET takes the whole 64-bit quantity. -/
theorem busWriteWord_SD_TOD_SET (s : State) (k v : Nat) (hk : k < 1) :
    busWriteWord s (F.SD_TOD_SET.SEC.addr + F.SD_TOD_SET.SEC.stride * k + 4) v = writeHi s (F.SD_TOD_SET.SEC.addr + F.SD_TOD_SET.SEC.stride * k + 4) v := by
  have hf := fieldsAt_SD_TOD_SET k hk
  have hm : msixOffset (F.SD_TOD_SET.SEC.addr + F.SD_TOD_SET.SEC.stride * k + 4) = false := by
    show msixOffset (0x2c00030 + 0 * k + 4) = false
    simp only [msixOffset, Bool.or_eq_false_iff, Bool.and_eq_false_iff, decide_eq_false_iff_not]
    omega
  have hs : F.SD_TOD_SET.SEC.addr + F.SD_TOD_SET.SEC.stride * k + 4 - 4 = F.SD_TOD_SET.SEC.addr + F.SD_TOD_SET.SEC.stride * k := by omega
  have hn : hiFieldsAt (F.SD_TOD_SET.SEC.addr + F.SD_TOD_SET.SEC.stride * k + 4) ≠ [] := by
    rw [hiFieldsAt, if_neg (by omega), hs, hf]
    simp [F.SD_TOD_SET.SEC]
  have hh : isHi (F.SD_TOD_SET.SEC.addr + F.SD_TOD_SET.SEC.stride * k + 4) = true := by simpa [isHi] using hn
  have hr : regDomain (F.SD_TOD_SET.SEC.addr + F.SD_TOD_SET.SEC.stride * k + 4) = none := by
    show regDomain (0x2c00030 + 0 * k + 4) = none
    unfold regDomain
    repeat rw [if_neg (by omega)]
  have hd : isDecoded s (F.SD_TOD_SET.SEC.addr + F.SD_TOD_SET.SEC.stride * k + 4) = true := by simp [isDecoded, hn, hr]
  simp [busWriteWord, hm, hh, hd]

/-- The fields of SD_STEP_CTL. -/
theorem fieldsAt_SD_STEP_CTL (k : Nat) (hk : k < 1) : fieldsAt (F.SD_STEP_CTL.GO.addr + F.SD_STEP_CTL.GO.stride * k) = [(F.SD_STEP_CTL.MODE, k), (F.SD_STEP_CTL.GO, k)] :=
  (fieldsAt_eq F.SD_STEP_CTL.GO RegMap.sundial k hk (by decide)
    (regBlock_range F.SD_STEP_CTL.GO k 0x2c00000 0x3000000 _ hk (by decide) (by decide) regBlock_sundial) (by decide)).trans rfl

/-- What a write of SD_STEP_CTL sets off. -/
theorem writeHook_SD_STEP_CTL (s0 s : State) (k v : Nat) (hk : k < 1) : writeHook s0 s (F.SD_STEP_CTL.GO.addr + F.SD_STEP_CTL.GO.stride * k) v = (if bit v 0 then stepGo s else s) :=
  (writeHook_eq F.SD_STEP_CTL.GO k v s0 s hk (by decide) (by decide)).trans rfl

/-- SD_STEP_CTL takes a write of its word whole. -/
theorem busWriteWord_SD_STEP_CTL (s : State) (k v : Nat) (hk : k < 1) :
    busWriteWord s (F.SD_STEP_CTL.GO.addr + F.SD_STEP_CTL.GO.stride * k) v = regWrite s (F.SD_STEP_CTL.GO.addr + F.SD_STEP_CTL.GO.stride * k) v := by
  have hf := fieldsAt_SD_STEP_CTL k hk
  have hm : msixOffset (F.SD_STEP_CTL.GO.addr + F.SD_STEP_CTL.GO.stride * k) = false := msixOffset_false F.SD_STEP_CTL.GO k hk (by decide)
  have hh : isHi (F.SD_STEP_CTL.GO.addr + F.SD_STEP_CTL.GO.stride * k) = false := by
    exact isHi_false F.SD_STEP_CTL.GO RegMap.sundial k hk (by decide) (regBlock_sundial _ (by show 0x2c00000 ≤ 0x2c00040 + 0 * k - 4; omega) (by show 0x2c00040 + 0 * k - 4 < 0x3000000; omega)) (by decide)
  have hl : isLo (F.SD_STEP_CTL.GO.addr + F.SD_STEP_CTL.GO.stride * k) = false := by rw [isLo, hf]; rfl
  have hd : isDecoded s (F.SD_STEP_CTL.GO.addr + F.SD_STEP_CTL.GO.stride * k) = true := by
    simp [isDecoded, hf, regDomain_none F.SD_STEP_CTL.GO k hk (by decide)]
  simp [busWriteWord, hm, hh, hl, hd]

/-- The fields of SD_EV_CTL. -/
theorem fieldsAt_SD_EV_CTL (k : Nat) (hk : k < 64) : fieldsAt (F.SD_EV_CTL.ARM.addr + F.SD_EV_CTL.ARM.stride * k) = [(F.SD_EV_CTL.ARM, k), (F.SD_EV_CTL.ACTION, k), (F.SD_EV_CTL.PINS, k), (F.SD_EV_CTL.WIDTH, k)] :=
  (fieldsAt_eq F.SD_EV_CTL.ARM RegMap.sundial k hk (by decide)
    (regBlock_range F.SD_EV_CTL.ARM k 0x2c00000 0x3000000 _ hk (by decide) (by decide) regBlock_sundial) (by decide)).trans rfl

/-- What a write of SD_EV_CTL sets off. -/
theorem writeHook_SD_EV_CTL (s0 s : State) (k v : Nat) (hk : k < 64) : writeHook s0 s (F.SD_EV_CTL.ARM.addr + F.SD_EV_CTL.ARM.stride * k) v = (evArmWritten s k) :=
  (writeHook_eq F.SD_EV_CTL.ARM k v s0 s hk (by decide) (by decide)).trans rfl

/-- SD_EV_CTL takes a write of its word whole. -/
theorem busWriteWord_SD_EV_CTL (s : State) (k v : Nat) (hk : k < 64) :
    busWriteWord s (F.SD_EV_CTL.ARM.addr + F.SD_EV_CTL.ARM.stride * k) v = regWrite s (F.SD_EV_CTL.ARM.addr + F.SD_EV_CTL.ARM.stride * k) v := by
  have hf := fieldsAt_SD_EV_CTL k hk
  have hm : msixOffset (F.SD_EV_CTL.ARM.addr + F.SD_EV_CTL.ARM.stride * k) = false := msixOffset_false F.SD_EV_CTL.ARM k hk (by decide)
  have hh : isHi (F.SD_EV_CTL.ARM.addr + F.SD_EV_CTL.ARM.stride * k) = false := by
    exact isHi_false F.SD_EV_CTL.ARM RegMap.sundial k hk (by decide) (regBlock_sundial _ (by show 0x2c00000 ≤ 0x2c00414 + 32 * k - 4; omega) (by show 0x2c00414 + 32 * k - 4 < 0x3000000; omega)) (by decide)
  have hl : isLo (F.SD_EV_CTL.ARM.addr + F.SD_EV_CTL.ARM.stride * k) = false := by rw [isLo, hf]; rfl
  have hd : isDecoded s (F.SD_EV_CTL.ARM.addr + F.SD_EV_CTL.ARM.stride * k) = true := by
    simp [isDecoded, hf, regDomain_none F.SD_EV_CTL.ARM k hk (by decide)]
  simp [busWriteWord, hm, hh, hl, hd]

/-- The fields of YG_LANE_CTL. -/
theorem fieldsAt_YG_LANE_CTL (k : Nat) (hk : k < 64) : fieldsAt (F.YG_LANE_CTL.RETRAIN.addr + F.YG_LANE_CTL.RETRAIN.stride * k) = [(F.YG_LANE_CTL.RETRAIN, k), (F.YG_LANE_CTL.COLD_TRAIN, k), (F.YG_LANE_CTL.TXEQ_SKIP, k), (F.YG_LANE_CTL.PRECODE, k), (F.YG_LANE_CTL.ROLE, k)] :=
  (fieldsAt_eq F.YG_LANE_CTL.RETRAIN RegMap.yargil k hk (by decide)
    (regBlock_range F.YG_LANE_CTL.RETRAIN k 0x800000 0xa00000 _ hk (by decide) (by decide) regBlock_yargil) (by decide)).trans rfl

/-- What a write of YG_LANE_CTL sets off. -/
theorem writeHook_YG_LANE_CTL (s0 s : State) (k v : Nat) (hk : k < 64) : writeHook s0 s (F.YG_LANE_CTL.RETRAIN.addr + F.YG_LANE_CTL.RETRAIN.stride * k) v = (laneCtlWritten s0 s k v) :=
  (writeHook_eq F.YG_LANE_CTL.RETRAIN k v s0 s hk (by decide) (by decide)).trans rfl

/-- YG_LANE_CTL takes a write of its word whole. -/
theorem busWriteWord_YG_LANE_CTL (s : State) (k v : Nat) (hk : k < 64) (hd : domState s (28 + k / 4) ≠ pdOFF) :
    busWriteWord s (F.YG_LANE_CTL.RETRAIN.addr + F.YG_LANE_CTL.RETRAIN.stride * k) v = regWrite s (F.YG_LANE_CTL.RETRAIN.addr + F.YG_LANE_CTL.RETRAIN.stride * k) v := by
  have hf := fieldsAt_YG_LANE_CTL k hk
  have hm : msixOffset (F.YG_LANE_CTL.RETRAIN.addr + F.YG_LANE_CTL.RETRAIN.stride * k) = false := msixOffset_false F.YG_LANE_CTL.RETRAIN k hk (by decide)
  have hh : isHi (F.YG_LANE_CTL.RETRAIN.addr + F.YG_LANE_CTL.RETRAIN.stride * k) = false := by
    rcases Nat.eq_zero_or_pos k with rfl | h0
    · exact (by decide : isHi 0x800000 = false)
    · exact isHi_false F.YG_LANE_CTL.RETRAIN RegMap.yargil k hk (by decide) (regBlock_yargil _ (by show 0x800000 ≤ 0x800000 + 4096 * k - 4; omega) (by show 0x800000 + 4096 * k - 4 < 0xa00000; omega)) (by decide)
  have hl : isLo (F.YG_LANE_CTL.RETRAIN.addr + F.YG_LANE_CTL.RETRAIN.stride * k) = false := by rw [isLo, hf]; rfl
  have hd : isDecoded s (F.YG_LANE_CTL.RETRAIN.addr + F.YG_LANE_CTL.RETRAIN.stride * k) = true := by
    have hr : regDomain (F.YG_LANE_CTL.RETRAIN.addr + F.YG_LANE_CTL.RETRAIN.stride * k) = some (28 + k / 4) := by
      show regDomain (0x800000 + 4096 * k) = some (28 + k / 4)
      unfold regDomain
      rw [if_pos (by omega), show (0x800000 + 4096 * k - 0x800000) / 0x4000 = k / 4 by omega]
    have hx : domState s (28 + k / 4) ≠ 0 := hd
    rw [isDecoded, hf, hr]
    simp [hx]
  simp [busWriteWord, hm, hh, hl, hd]

/-- The fields of EYE_CAP_CTL. -/
theorem fieldsAt_EYE_CAP_CTL (k : Nat) (hk : k < 1) : fieldsAt (F.EYE_CAP_CTL.FORCE.addr + F.EYE_CAP_CTL.FORCE.stride * k) = [(F.EYE_CAP_CTL.RELEASE, k), (F.EYE_CAP_CTL.FORCE, k)] :=
  (fieldsAt_eq F.EYE_CAP_CTL.FORCE RegMap.eyepiece k hk (by decide)
    (regBlock_range F.EYE_CAP_CTL.FORCE k 0x2000000 0x2400000 _ hk (by decide) (by decide) regBlock_eyepiece) (by decide)).trans rfl

/-- What a write of EYE_CAP_CTL sets off. -/
theorem writeHook_EYE_CAP_CTL (s0 s : State) (k v : Nat) (hk : k < 1) : writeHook s0 s (F.EYE_CAP_CTL.FORCE.addr + F.EYE_CAP_CTL.FORCE.stride * k) v = (capCtlWritten s v) :=
  (writeHook_eq F.EYE_CAP_CTL.FORCE k v s0 s hk (by decide) (by decide)).trans rfl

/-- EYE_CAP_CTL takes a write of its word whole. -/
theorem busWriteWord_EYE_CAP_CTL (s : State) (k v : Nat) (hk : k < 1) (hd : domState s 22 ≠ pdOFF) :
    busWriteWord s (F.EYE_CAP_CTL.FORCE.addr + F.EYE_CAP_CTL.FORCE.stride * k) v = regWrite s (F.EYE_CAP_CTL.FORCE.addr + F.EYE_CAP_CTL.FORCE.stride * k) v := by
  have hf := fieldsAt_EYE_CAP_CTL k hk
  have hm : msixOffset (F.EYE_CAP_CTL.FORCE.addr + F.EYE_CAP_CTL.FORCE.stride * k) = false := msixOffset_false F.EYE_CAP_CTL.FORCE k hk (by decide)
  have hh : isHi (F.EYE_CAP_CTL.FORCE.addr + F.EYE_CAP_CTL.FORCE.stride * k) = false := by
    exact isHi_false F.EYE_CAP_CTL.FORCE RegMap.eyepiece k hk (by decide) (regBlock_eyepiece _ (by show 0x2000000 ≤ 0x2000008 + 0 * k - 4; omega) (by show 0x2000008 + 0 * k - 4 < 0x2400000; omega)) (by decide)
  have hl : isLo (F.EYE_CAP_CTL.FORCE.addr + F.EYE_CAP_CTL.FORCE.stride * k) = false := by rw [isLo, hf]; rfl
  have hd : isDecoded s (F.EYE_CAP_CTL.FORCE.addr + F.EYE_CAP_CTL.FORCE.stride * k) = true := by
    have h0 : k = 0 := by omega
    subst h0
    have hx : domState s 22 ≠ 0 := hd
    have hr : regDomain (F.EYE_CAP_CTL.FORCE.addr + F.EYE_CAP_CTL.FORCE.stride *  0) = some 22 := by decide
    rw [isDecoded, hf, hr]
    simp [hx]
  simp [busWriteWord, hm, hh, hl, hd]

/-- The fields of GLH_CTL. -/
theorem fieldsAt_GLH_CTL (k : Nat) (hk : k < 1) : fieldsAt (F.GLH_CTL.EN.addr + F.GLH_CTL.EN.stride * k) = [(F.GLH_CTL.CLEAR_FAIL, k), (F.GLH_CTL.EN, k)] :=
  (fieldsAt_eq F.GLH_CTL.EN RegMap.glasshouse k hk (by decide)
    (regBlock_range F.GLH_CTL.EN k 0x400000 0x800000 _ hk (by decide) (by decide) regBlock_glasshouse) (by decide)).trans rfl

/-- What a write of GLH_CTL sets off. -/
theorem writeHook_GLH_CTL (s0 s : State) (k v : Nat) (hk : k < 1) : writeHook s0 s (F.GLH_CTL.EN.addr + F.GLH_CTL.EN.stride * k) v = (glhCtlWritten s0 s v) :=
  (writeHook_eq F.GLH_CTL.EN k v s0 s hk (by decide) (by decide)).trans rfl

/-- GLH_CTL takes a write of its word whole. -/
theorem busWriteWord_GLH_CTL (s : State) (k v : Nat) (hk : k < 1) :
    busWriteWord s (F.GLH_CTL.EN.addr + F.GLH_CTL.EN.stride * k) v = regWrite s (F.GLH_CTL.EN.addr + F.GLH_CTL.EN.stride * k) v := by
  have hf := fieldsAt_GLH_CTL k hk
  have hm : msixOffset (F.GLH_CTL.EN.addr + F.GLH_CTL.EN.stride * k) = false := msixOffset_false F.GLH_CTL.EN k hk (by decide)
  have hh : isHi (F.GLH_CTL.EN.addr + F.GLH_CTL.EN.stride * k) = false := by
    exact isHi_false F.GLH_CTL.EN RegMap.glasshouse k hk (by decide) (regBlock_glasshouse _ (by show 0x400000 ≤ 0x400004 + 0 * k - 4; omega) (by show 0x400004 + 0 * k - 4 < 0x800000; omega)) (by decide)
  have hl : isLo (F.GLH_CTL.EN.addr + F.GLH_CTL.EN.stride * k) = false := by rw [isLo, hf]; rfl
  have hd : isDecoded s (F.GLH_CTL.EN.addr + F.GLH_CTL.EN.stride * k) = true := by
    simp [isDecoded, hf, regDomain_none F.GLH_CTL.EN k hk (by decide)]
  simp [busWriteWord, hm, hh, hl, hd]

/-- The fields of GLH_REGION. -/
theorem fieldsAt_GLH_REGION (k : Nat) (hk : k < 32) : fieldsAt (F.GLH_REGION.VALID.addr + F.GLH_REGION.VALID.stride * k) = [(F.GLH_REGION.VALID, k), (F.GLH_REGION.SIZE_MIB, k), (F.GLH_REGION.BASE_MIB, k)] :=
  (fieldsAt_eq F.GLH_REGION.VALID RegMap.glasshouse k hk (by decide)
    (regBlock_range F.GLH_REGION.VALID k 0x400000 0x800000 _ hk (by decide) (by decide) regBlock_glasshouse) (by decide)).trans rfl

/-- What a write of GLH_REGION sets off. -/
theorem writeHook_GLH_REGION (s0 s : State) (k v : Nat) (hk : k < 32) : writeHook s0 s (F.GLH_REGION.VALID.addr + F.GLH_REGION.VALID.stride * k) v = (s) :=
  (writeHook_eq F.GLH_REGION.VALID k v s0 s hk (by decide) (by decide)).trans rfl

/-- The _HI word of GLH_REGION takes the whole 64-bit quantity. -/
theorem busWriteWord_GLH_REGION (s : State) (k v : Nat) (hk : k < 32) :
    busWriteWord s (F.GLH_REGION.VALID.addr + F.GLH_REGION.VALID.stride * k + 4) v = writeHi s (F.GLH_REGION.VALID.addr + F.GLH_REGION.VALID.stride * k + 4) v := by
  have hf := fieldsAt_GLH_REGION k hk
  have hm : msixOffset (F.GLH_REGION.VALID.addr + F.GLH_REGION.VALID.stride * k + 4) = false := by
    show msixOffset (0x400100 + 8 * k + 4) = false
    simp only [msixOffset, Bool.or_eq_false_iff, Bool.and_eq_false_iff, decide_eq_false_iff_not]
    omega
  have hs : F.GLH_REGION.VALID.addr + F.GLH_REGION.VALID.stride * k + 4 - 4 = F.GLH_REGION.VALID.addr + F.GLH_REGION.VALID.stride * k := by omega
  have hn : hiFieldsAt (F.GLH_REGION.VALID.addr + F.GLH_REGION.VALID.stride * k + 4) ≠ [] := by
    rw [hiFieldsAt, if_neg (by omega), hs, hf]
    simp [F.GLH_REGION.VALID, F.GLH_REGION.SIZE_MIB, F.GLH_REGION.BASE_MIB]
  have hh : isHi (F.GLH_REGION.VALID.addr + F.GLH_REGION.VALID.stride * k + 4) = true := by simpa [isHi] using hn
  have hr : regDomain (F.GLH_REGION.VALID.addr + F.GLH_REGION.VALID.stride * k + 4) = none := by
    show regDomain (0x400100 + 8 * k + 4) = none
    unfold regDomain
    repeat rw [if_neg (by omega)]
  have hd : isDecoded s (F.GLH_REGION.VALID.addr + F.GLH_REGION.VALID.stride * k + 4) = true := by simp [isDecoded, hn, hr]
  simp [busWriteWord, hm, hh, hd]

/-- The fields of GLH_TRAIN_DATA. -/
theorem fieldsAt_GLH_TRAIN_DATA (k : Nat) (hk : k < 1) : fieldsAt (F.GLH_TRAIN_DATA.DATA.addr + F.GLH_TRAIN_DATA.DATA.stride * k) = [(F.GLH_TRAIN_DATA.DATA, k)] :=
  (fieldsAt_eq F.GLH_TRAIN_DATA.DATA RegMap.glasshouse k hk (by decide)
    (regBlock_range F.GLH_TRAIN_DATA.DATA k 0x400000 0x800000 _ hk (by decide) (by decide) regBlock_glasshouse) (by decide)).trans rfl

/-- What a write of GLH_TRAIN_DATA sets off. -/
theorem writeHook_GLH_TRAIN_DATA (s0 s : State) (k v : Nat) (hk : k < 1) : writeHook s0 s (F.GLH_TRAIN_DATA.DATA.addr + F.GLH_TRAIN_DATA.DATA.stride * k) v = (trainWritten s0 s v) :=
  (writeHook_eq F.GLH_TRAIN_DATA.DATA k v s0 s hk (by decide) (by decide)).trans rfl

/-- GLH_TRAIN_DATA takes a write of its word whole. -/
theorem busWriteWord_GLH_TRAIN_DATA (s : State) (k v : Nat) (hk : k < 1) :
    busWriteWord s (F.GLH_TRAIN_DATA.DATA.addr + F.GLH_TRAIN_DATA.DATA.stride * k) v = regWrite s (F.GLH_TRAIN_DATA.DATA.addr + F.GLH_TRAIN_DATA.DATA.stride * k) v := by
  have hf := fieldsAt_GLH_TRAIN_DATA k hk
  have hm : msixOffset (F.GLH_TRAIN_DATA.DATA.addr + F.GLH_TRAIN_DATA.DATA.stride * k) = false := msixOffset_false F.GLH_TRAIN_DATA.DATA k hk (by decide)
  have hh : isHi (F.GLH_TRAIN_DATA.DATA.addr + F.GLH_TRAIN_DATA.DATA.stride * k) = false := by
    exact isHi_false F.GLH_TRAIN_DATA.DATA RegMap.glasshouse k hk (by decide) (regBlock_glasshouse _ (by show 0x400000 ≤ 0x400014 + 0 * k - 4; omega) (by show 0x400014 + 0 * k - 4 < 0x800000; omega)) (by decide)
  have hl : isLo (F.GLH_TRAIN_DATA.DATA.addr + F.GLH_TRAIN_DATA.DATA.stride * k) = false := by rw [isLo, hf]; rfl
  have hd : isDecoded s (F.GLH_TRAIN_DATA.DATA.addr + F.GLH_TRAIN_DATA.DATA.stride * k) = true := by
    simp [isDecoded, hf, regDomain_none F.GLH_TRAIN_DATA.DATA k hk (by decide)]
  simp [busWriteWord, hm, hh, hl, hd]

/-- The fields of CL_MASTER_RST. -/
theorem fieldsAt_CL_MASTER_RST (k : Nat) (hk : k < 1) : fieldsAt (F.CL_MASTER_RST.RST.addr + F.CL_MASTER_RST.RST.stride * k) = [(F.CL_MASTER_RST.RST, k)] :=
  (fieldsAt_eq F.CL_MASTER_RST.RST RegMap.cloister k hk (by decide)
    (regBlock_range F.CL_MASTER_RST.RST k 0x300000 0x400000 _ hk (by decide) (by decide) regBlock_cloister) (by decide)).trans rfl

/-- What a write of CL_MASTER_RST sets off. -/
theorem writeHook_CL_MASTER_RST (s0 s : State) (k v : Nat) (hk : k < 1) : writeHook s0 s (F.CL_MASTER_RST.RST.addr + F.CL_MASTER_RST.RST.stride * k) v = (masterRstWritten s v) :=
  (writeHook_eq F.CL_MASTER_RST.RST k v s0 s hk (by decide) (by decide)).trans rfl

/-- CL_MASTER_RST takes a write of its word whole. -/
theorem busWriteWord_CL_MASTER_RST (s : State) (k v : Nat) (hk : k < 1) :
    busWriteWord s (F.CL_MASTER_RST.RST.addr + F.CL_MASTER_RST.RST.stride * k) v = regWrite s (F.CL_MASTER_RST.RST.addr + F.CL_MASTER_RST.RST.stride * k) v := by
  have hf := fieldsAt_CL_MASTER_RST k hk
  have hm : msixOffset (F.CL_MASTER_RST.RST.addr + F.CL_MASTER_RST.RST.stride * k) = false := msixOffset_false F.CL_MASTER_RST.RST k hk (by decide)
  have hh : isHi (F.CL_MASTER_RST.RST.addr + F.CL_MASTER_RST.RST.stride * k) = false := by
    exact isHi_false F.CL_MASTER_RST.RST RegMap.cloister k hk (by decide) (regBlock_cloister _ (by show 0x300000 ≤ 0x300004 + 0 * k - 4; omega) (by show 0x300004 + 0 * k - 4 < 0x400000; omega)) (by decide)
  have hl : isLo (F.CL_MASTER_RST.RST.addr + F.CL_MASTER_RST.RST.stride * k) = false := by rw [isLo, hf]; rfl
  have hd : isDecoded s (F.CL_MASTER_RST.RST.addr + F.CL_MASTER_RST.RST.stride * k) = true := by
    simp [isDecoded, hf, regDomain_none F.CL_MASTER_RST.RST k hk (by decide)]
  simp [busWriteWord, hm, hh, hl, hd]

/-- The fields of BELV_CNT_SEL. -/
theorem fieldsAt_BELV_CNT_SEL (k : Nat) (hk : k < 1024) : fieldsAt (F.BELV_CNT_SEL.MODE.addr + F.BELV_CNT_SEL.MODE.stride * k) = [(F.BELV_CNT_SEL.MODE, k), (F.BELV_CNT_SEL.CLEAR, k), (F.BELV_CNT_SEL.SRC, k)] :=
  (fieldsAt_eq F.BELV_CNT_SEL.MODE RegMap.belvedere k hk (by decide)
    (regBlock_range F.BELV_CNT_SEL.MODE k 0x3400000 0x3800000 _ hk (by decide) (by decide) regBlock_belvedere) (by decide)).trans rfl

/-- What a write of BELV_CNT_SEL sets off. -/
theorem writeHook_BELV_CNT_SEL (s0 s : State) (k v : Nat) (hk : k < 1024) : writeHook s0 s (F.BELV_CNT_SEL.MODE.addr + F.BELV_CNT_SEL.MODE.stride * k) v = (cntSelWritten s0 s k (bit v 29)) :=
  (writeHook_eq F.BELV_CNT_SEL.MODE k v s0 s hk (by decide) (by decide)).trans rfl

/-- BELV_CNT_SEL takes a write of its word whole. -/
theorem busWriteWord_BELV_CNT_SEL (s : State) (k v : Nat) (hk : k < 1024) :
    busWriteWord s (F.BELV_CNT_SEL.MODE.addr + F.BELV_CNT_SEL.MODE.stride * k) v = regWrite s (F.BELV_CNT_SEL.MODE.addr + F.BELV_CNT_SEL.MODE.stride * k) v := by
  have hf := fieldsAt_BELV_CNT_SEL k hk
  have hm : msixOffset (F.BELV_CNT_SEL.MODE.addr + F.BELV_CNT_SEL.MODE.stride * k) = false := msixOffset_false F.BELV_CNT_SEL.MODE k hk (by decide)
  have hh : isHi (F.BELV_CNT_SEL.MODE.addr + F.BELV_CNT_SEL.MODE.stride * k) = false := by
    exact isHi_false F.BELV_CNT_SEL.MODE RegMap.belvedere k hk (by decide) (regBlock_belvedere _ (by show 0x3400000 ≤ 0x3401000 + 4 * k - 4; omega) (by show 0x3401000 + 4 * k - 4 < 0x3800000; omega)) (by decide)
  have hl : isLo (F.BELV_CNT_SEL.MODE.addr + F.BELV_CNT_SEL.MODE.stride * k) = false := by rw [isLo, hf]; rfl
  have hd : isDecoded s (F.BELV_CNT_SEL.MODE.addr + F.BELV_CNT_SEL.MODE.stride * k) = true := by
    simp [isDecoded, hf, regDomain_none F.BELV_CNT_SEL.MODE k hk (by decide)]
  simp [busWriteWord, hm, hh, hl, hd]

/-- The fields of BELV_CTL. -/
theorem fieldsAt_BELV_CTL (k : Nat) (hk : k < 1) : fieldsAt (F.BELV_CTL.FREEZE.addr + F.BELV_CTL.FREEZE.stride * k) = [(F.BELV_CTL.FREEZE, k), (F.BELV_CTL.CLEAR_ALL, k)] :=
  (fieldsAt_eq F.BELV_CTL.FREEZE RegMap.belvedere k hk (by decide)
    (regBlock_range F.BELV_CTL.FREEZE k 0x3400000 0x3800000 _ hk (by decide) (by decide) regBlock_belvedere) (by decide)).trans rfl

/-- What a write of BELV_CTL sets off. -/
theorem writeHook_BELV_CTL (s0 s : State) (k v : Nat) (hk : k < 1) : writeHook s0 s (F.BELV_CTL.FREEZE.addr + F.BELV_CTL.FREEZE.stride * k) v = (belvCtlWritten s (bit v 0)) :=
  (writeHook_eq F.BELV_CTL.FREEZE k v s0 s hk (by decide) (by decide)).trans rfl

/-- BELV_CTL takes a write of its word whole. -/
theorem busWriteWord_BELV_CTL (s : State) (k v : Nat) (hk : k < 1) :
    busWriteWord s (F.BELV_CTL.FREEZE.addr + F.BELV_CTL.FREEZE.stride * k) v = regWrite s (F.BELV_CTL.FREEZE.addr + F.BELV_CTL.FREEZE.stride * k) v := by
  have hf := fieldsAt_BELV_CTL k hk
  have hm : msixOffset (F.BELV_CTL.FREEZE.addr + F.BELV_CTL.FREEZE.stride * k) = false := msixOffset_false F.BELV_CTL.FREEZE k hk (by decide)
  have hh : isHi (F.BELV_CTL.FREEZE.addr + F.BELV_CTL.FREEZE.stride * k) = false := by
    have h0 : k = 0 := by omega
    subst h0
    exact (by decide : isHi 0x3400000 = false)
  have hl : isLo (F.BELV_CTL.FREEZE.addr + F.BELV_CTL.FREEZE.stride * k) = false := by rw [isLo, hf]; rfl
  have hd : isDecoded s (F.BELV_CTL.FREEZE.addr + F.BELV_CTL.FREEZE.stride * k) = true := by
    simp [isDecoded, hf, regDomain_none F.BELV_CTL.FREEZE k hk (by decide)]
  simp [busWriteWord, hm, hh, hl, hd]

/-- The fields of BELV_TS_CFG. -/
theorem fieldsAt_BELV_TS_CFG (k : Nat) (hk : k < 1) : fieldsAt (F.BELV_TS_CFG.EN.addr + F.BELV_TS_CFG.EN.stride * k) = [(F.BELV_TS_CFG.EN, k), (F.BELV_TS_CFG.REGION, k), (F.BELV_TS_CFG.MASTERS, k)] :=
  (fieldsAt_eq F.BELV_TS_CFG.EN RegMap.belvedere k hk (by decide)
    (regBlock_range F.BELV_TS_CFG.EN k 0x3400000 0x3800000 _ hk (by decide) (by decide) regBlock_belvedere) (by decide)).trans rfl

/-- What a write of BELV_TS_CFG sets off. -/
theorem writeHook_BELV_TS_CFG (s0 s : State) (k v : Nat) (hk : k < 1) : writeHook s0 s (F.BELV_TS_CFG.EN.addr + F.BELV_TS_CFG.EN.stride * k) v = (tsCfgWritten s0 s) :=
  (writeHook_eq F.BELV_TS_CFG.EN k v s0 s hk (by decide) (by decide)).trans rfl

/-- BELV_TS_CFG takes a write of its word whole. -/
theorem busWriteWord_BELV_TS_CFG (s : State) (k v : Nat) (hk : k < 1) :
    busWriteWord s (F.BELV_TS_CFG.EN.addr + F.BELV_TS_CFG.EN.stride * k) v = regWrite s (F.BELV_TS_CFG.EN.addr + F.BELV_TS_CFG.EN.stride * k) v := by
  have hf := fieldsAt_BELV_TS_CFG k hk
  have hm : msixOffset (F.BELV_TS_CFG.EN.addr + F.BELV_TS_CFG.EN.stride * k) = false := msixOffset_false F.BELV_TS_CFG.EN k hk (by decide)
  have hh : isHi (F.BELV_TS_CFG.EN.addr + F.BELV_TS_CFG.EN.stride * k) = false := by
    exact isHi_false F.BELV_TS_CFG.EN RegMap.belvedere k hk (by decide) (regBlock_belvedere _ (by show 0x3400000 ≤ 0x3400010 + 0 * k - 4; omega) (by show 0x3400010 + 0 * k - 4 < 0x3800000; omega)) (by decide)
  have hl : isLo (F.BELV_TS_CFG.EN.addr + F.BELV_TS_CFG.EN.stride * k) = false := by rw [isLo, hf]; rfl
  have hd : isDecoded s (F.BELV_TS_CFG.EN.addr + F.BELV_TS_CFG.EN.stride * k) = true := by
    simp [isDecoded, hf, regDomain_none F.BELV_TS_CFG.EN k hk (by decide)]
  simp [busWriteWord, hm, hh, hl, hd]

/-- The fields of BELV_EYE_CTL. -/
theorem fieldsAt_BELV_EYE_CTL (k : Nat) (hk : k < 64) : fieldsAt (F.BELV_EYE_CTL.START.addr + F.BELV_EYE_CTL.START.stride * k) = [(F.BELV_EYE_CTL.START, k), (F.BELV_EYE_CTL.ABORT, k), (F.BELV_EYE_CTL.EYE, k), (F.BELV_EYE_CTL.DWELL, k), (F.BELV_EYE_CTL.PHASE, k), (F.BELV_EYE_CTL.VOFS, k)] :=
  (fieldsAt_eq F.BELV_EYE_CTL.START RegMap.belvedere k hk (by decide)
    (regBlock_range F.BELV_EYE_CTL.START k 0x3400000 0x3800000 _ hk (by decide) (by decide) regBlock_belvedere) (by decide)).trans rfl

/-- What a write of BELV_EYE_CTL sets off. -/
theorem writeHook_BELV_EYE_CTL (s0 s : State) (k v : Nat) (hk : k < 64) : writeHook s0 s (F.BELV_EYE_CTL.START.addr + F.BELV_EYE_CTL.START.stride * k) v = (eyeCtlWritten s0 s k (bit v 31) (bit v 30)) :=
  (writeHook_eq F.BELV_EYE_CTL.START k v s0 s hk (by decide) (by decide)).trans rfl

/-- BELV_EYE_CTL takes a write of its word whole. -/
theorem busWriteWord_BELV_EYE_CTL (s : State) (k v : Nat) (hk : k < 64) :
    busWriteWord s (F.BELV_EYE_CTL.START.addr + F.BELV_EYE_CTL.START.stride * k) v = regWrite s (F.BELV_EYE_CTL.START.addr + F.BELV_EYE_CTL.START.stride * k) v := by
  have hf := fieldsAt_BELV_EYE_CTL k hk
  have hm : msixOffset (F.BELV_EYE_CTL.START.addr + F.BELV_EYE_CTL.START.stride * k) = false := msixOffset_false F.BELV_EYE_CTL.START k hk (by decide)
  have hh : isHi (F.BELV_EYE_CTL.START.addr + F.BELV_EYE_CTL.START.stride * k) = false := by
    exact isHi_false F.BELV_EYE_CTL.START RegMap.belvedere k hk (by decide) (regBlock_belvedere _ (by show 0x3400000 ≤ 0x3404000 + 32 * k - 4; omega) (by show 0x3404000 + 32 * k - 4 < 0x3800000; omega)) (by decide)
  have hl : isLo (F.BELV_EYE_CTL.START.addr + F.BELV_EYE_CTL.START.stride * k) = false := by rw [isLo, hf]; rfl
  have hd : isDecoded s (F.BELV_EYE_CTL.START.addr + F.BELV_EYE_CTL.START.stride * k) = true := by
    simp [isDecoded, hf, regDomain_none F.BELV_EYE_CTL.START k hk (by decide)]
  simp [busWriteWord, hm, hh, hl, hd]

end Sys2Proof.Machine
end

