-- ==== Sys2Proof/WellFormed.lean ====
section
/-! DEFINITION. When a command's operands are values that can arrive from outside the part: the widths and lengths that its rule
gives them. `exec` is total all the same. -/
namespace Sys2Proof

/-- Numbers below a bound. -/
def natsWf (n : Nat) (l : List Nat) : Bool := l.all fun x => decide (x < n)

/-- Integers in the two's complement range of magnitude n. -/
def intsWf (n : Nat) (l : List Int) : Bool := l.all fun x => decide (-(n : Int) ≤ x ∧ x < n)

/-- A rate and a width that the PCIe link can train to (Table 16-1). -/
def linkWf (speed width : Nat) : Bool := decide (1 ≤ speed ∧ speed ≤ 5) && [1, 2, 4, 8, 16].contains width

/-- An aligned offset of BAR0 (R15, R339). -/
def wordWf (off : Nat) : Bool := decide (off < 0x4000000) && decide (off % 4 = 0)

/-- A descriptor has 64 bytes (R347, R356). -/
def descWf (desc : List Byte) : Bool := decide (desc.length = 64)

/-- A fault lies in one of the 136 Pavilions and 1,024 cells (R152). -/
def PavFault.wf (f : PavFault) : Bool := decide (f.pav < 136) && decide (f.cell < 1024)

/-- A request of one of the 11 masters, with the enables of every beat of a write (R365). -/
def PortRequest.wf (q : PortRequest) : Bool :=
  decide (q.master < 11) && decide (1 ≤ q.beats ∧ q.beats ≤ 16) && (!q.write || decide (q.enables.length = q.beats))

/-- A size code of the configuration space: 128 bytes to the largest that Table 16-1 gives. -/
def PciCfg.wf (c : PciCfg) : Bool := decide (c.mps ≤ 2) && decide (c.mrrs ≤ 5)

/-- A beat of 64 bytes. -/
def BeatAnswer.wf (a : BeatAnswer) : Bool := decide (a.bytes.length ≤ 64)

/-- The widths of the gain code and of the twelve taps (R96). -/
def Adaptation.wf (a : Adaptation) : Bool := decide (a.vga < 256) && decide (a.taps.length = 12) && intsWf 128 a.taps

/-- Faults and waits of Pavilions that exist. -/
def StreamMet.wf (m : StreamMet) : Bool := m.faults.all PavFault.wf && m.waits.all fun w => decide (w.1 < 136)

/-- A level in 64ths for each of the four real-time ports (R378). -/
def levelsWf (l : List Nat) : Bool := decide (l.length = 4) && natsWf 65 l

/-- A command is well-formed. -/
def Instr.wf : Instr → Bool
  | .coldReset => true
  | .coldResetRelease => true
  | .powerOnDetect _ => true
  | .warmReset => true
  | .perstRelease speed width cfg => linkWf speed width && cfg.wf
  | .functionLevelReset cfg => cfg.wf
  | .dataReset _ => true
  | .dpInitComplete => true
  | .powerUpRequest _ => true
  | .powerDownRequest _ => true
  | .supplySettled _ => true
  | .domainSelftestDone _ _ => true
  | .drainComplete _ => true
  | .supplyMeasure mv => decide (mv.length = 8) && natsWf (2 ^ 16) mv
  | .temperatureSample die stack => decide (die.length = 8) && decide (stack.length = 8) && intsWf 128 die && intsWf 128 stack
  | .thermTrip _ temp => decide (-128 ≤ temp ∧ temp ≤ 127)
  | .registerWrite off _ be _ => decide (off < 0x4000000) && decide (be < 16)
  | .rcRead span => decide (span.off < 0x4000000) && decide (1 ≤ span.len ∧ span.len ≤ 4096)
  | .loReadCapture off => wordWf off
  | .loWriteHold off _ => wordWf off
  | .hiWriteCombine off _ => wordWf off
  | .errW1cClear off _ => wordWf off
  | .sdTimeNsRead => true
  | .sdCapqNsRead => true
  | .ethTsqNsRead _ => true
  | .fcWinDataRead => true
  | .glhTrainDataWrite _ => true
  | .bar2CounterRead off _ => decide (off < 0x1000000)
  | .indexPoll hostIdx => decide (hostIdx.length = 12) && natsWf (2 ^ 32) hostIdx
  | .wake _ => true
  | .ringEnable _ _ => true
  | .ringDisable _ _ => true
  | .nop desc => descWf desc
  | .loadTable desc answers => descWf desc && answers.all BeatAnswer.wf
  | .readTable desc answers => descWf desc && answers.all BeatAnswer.wf
  | .loadRegion desc answers => descWf desc && answers.all BeatAnswer.wf
  | .readRegion desc answers => descWf desc && answers.all BeatAnswer.wf
  | .commitEpoch desc => descWf desc
  | .commitEpochStart desc => descWf desc
  | .commitEpochStop desc => descWf desc
  | .commitEpochCancel desc => descWf desc
  | .dumpNow desc => descWf desc
  | .descriptorFetch _ desc fetched => !fetched || descWf desc
  | .dmaBeatResponse _ _ _ bytes _ _ => decide (bytes.length ≤ 64)
  | .dmaStop _ => true
  | .dmaRestart _ => true
  | .msixModerationExpire _ => true
  | .eventRecordWrite => true
  | .pcieLinkDown => true
  | .pcieLinkUp speed width => linkWf speed width
  | .pcieLinkFault => true
  | .d3hotEnter => true
  | .d0Return => true
  | .ppsEdge _ pulse => decide (2 * pulse.pos.natAbs ≤ 65536000000000)
  | .phaseJumpDetect _ _ => true
  | .refActivityLoss _ _ => true
  | .refFreqMeasure _ freq => decide (freq.natAbs < 2 ^ 31)
  | .refQualify _ => true
  | .sdRefCfgWrite _ _ => true
  | .wtrExpire => true
  | .slewComplete => true
  | .lockAchieved => true
  | .phaseErrUpdate _ => true
  | .virtFreqWrite _ => true
  | .virtTimeout => true
  | .todSet _ => true
  | .stepGo _ => true
  | .timedEventArm _ _ => true
  | .timedEventFire _ => true
  | .timeInEdge _ _ _ => true
  | .timebaseSecond => true
  | .katTick => true
  | .katPassDone _ _ => true
  | .healthRecord => true
  | .lateTwinHoldExpire => true
  | .sramScrub mem _ _ => decide (1 ≤ mem ∧ mem ≤ 8)
  | .signalDetect _ => true
  | .cdrLock _ ppm => decide (ppm.natAbs < 2 ^ 15)
  | .adaptDone _ ctle vga taps => decide (ctle < 16) && decide (vga < 256) && decide (taps.length = 12) && intsWf 128 taps
  | .txeqRequestEval _ request => match request with | some r => decide (r.1 < 16) && decide (r.2 < 16) | none => true
  | .tstatReceive _ _ pre post _ => decide (pre < 16) && decide (post < 16)
  | .txeqTimeout _ => true
  | .txTrainDone _ => true
  | .codewordDecode _ _ levels eq => decide (levels.length = 2720) && natsWf 4 levels && eq.wf
  | .laneDown _ _ => true
  | .trainTimeout _ => true
  | .trainFailRetry _ => true
  | .retrain _ _ => true
  | .reportBurst _ => true
  | .degradeWindow _ => true
  | .cellReceive _ _ => true
  | .sliceWindowExpire _ => true
  | .ingestStall => true
  | .stallFillRelease => true
  | .runStart => true
  | .prismSpectrum _ _ _ => true
  | .channelBlockFetch => true
  | .fetchComplete poison => natsWf 128 poison
  | .channelBlockBegin => true
  | .blockSlotBegin met => met.wf
  | .tailStream met => met.wf
  | .commitImage poison tallyPoison _ => natsWf 1024 poison && natsWf 1024 tallyPoison
  | .commitRetire => true
  | .cycleBoundary => true
  | .bankDrainStart => true
  | .porticoFrameSend _ _ _ => true
  | .streamDumpComplete _ => true
  | .lensFetchReturn _ _ _ _ => true
  | .lensContextDone _ _ _ => true
  | .eyeCycleClose => true
  | .captureForce _ => true
  | .captureRelease _ => true
  | .trellisDeadline _ f _ => decide (f < 8192)
  | .ethFrameReceive _ bytes _ => decide (14 ≤ bytes.length)
  | .ethLinkDown _ _ _ _ => true
  | .ethLinkUp _ => true
  | .ethVerifyDone _ _ => true
  | .ethTxFrameEnd _ _ => true
  | .ethTxUnderrun _ => true
  | .expressRateWindow => true
  | .glhEnable _ => true
  | .glhInitComplete bad => decide (bad < 256)
  | .glhClearFail _ => true
  | .glhRegionWrite _ _ => true
  | .cloisterGrant _ ready waiting fills empties _ => ready.all PortRequest.wf && waiting.all PortRequest.wf && levelsWf fills && levelsWf empties
  | .hbmReadResponse _ _ _ latency _ => decide (latency < 2 ^ 32)
  | .masterReset _ => true
  | .hbmRefresh _ _ => true
  | .hbmScrubAccess errs => decide (errs.length = 2)
  | .scrubPeriodEnd => true
  | .cntSelWrite _ _ => true
  | .cntClear _ _ => true
  | .clearAll _ => true
  | .counterFreeze _ => true
  | .counterResume _ => true
  | .traceEnable _ => true
  | .eyeScanStart _ _ => true
  | .eyeScanAbort _ _ _ => true
  | .eyeScanDone _ _ => true
  | .smbDeviceId => true
  | .smbStatus => true
  | .smbAlertStatus => true
  | .smbAlertClear data _ => decide (data < 2 ^ 16)
  | .smbAlertMask write _ => match write with | some v => decide (v < 2 ^ 16) | none => true
  | .smbHealth => true
  | .smbTemp => true
  | .smbVoltage => true
  | .smbErrSummary => true
  | .smbDataReset key _ => decide (key < 256)
  | .smbMgmtReset key _ => decide (key < 256)
  | .smbRegRead off => decide (off < 2 ^ 32)
  | .smbAlertResponse => true
  | .smbTimeout => true
  | .refActivityReturn _ _ => true
  | .powerOnResetEnd => true
  | .mgmtResetComplete => true
  | .timeOutPulseEnd _ => true
  | .ppmUpdate values => decide (values.length = 64) && intsWf (2 ^ 15) values
  | .tapClock _ _ => true
  | .testLogicReset => true

end Sys2Proof
end

