-- ==== Sys2Proof/Tests/Slice0.lean ====
section
/-! SUPPORT. Tests: ill-formed commands that the check refuses, small effects with the values that the spec gives, and for every
statement states and operands that meet the hypotheses of its clauses. -/
namespace Sys2Proof.Tests
open Sys2Proof.Machine

-- One theorem at a time: each holds its kernel evaluation until the one before it has been added.
set_option Elab.async false

/-- Both resets released. -/
def base : State := { State.reset with glob := { coldHeld := false, perstHeld := false } }

/-- The state with copies of fields set. -/
def State.put (s : State) (l : List (Fld × Nat × Nat)) : State := l.foldl (fun s e => s.wr e.1 e.2.1 e.2.2) s

/-- The link is up and DMA may begin. -/
def up : State := State.put base [(F.KIOSK_STATUS.LINK_UP, 0, 1), (F.KIOSK_STATUS.BME, 0, 1)]

/-- The data plane is in a state of Table 3-10. -/
def dpIn (n : Nat) : State := State.put up [(F.GLOBAL_DP_STATE.STATE, 0, n)]

/-- The HBM is ready, with region 0 of 1 GiB. -/
def hbmUp (s : State) : State :=
  State.put s [(F.GLH_STATUS.READY, 0, 1), (F.GLH_CTL.EN, 0, 1), (F.GLH_REGION.VALID, 0, 1), (F.GLH_REGION.SIZE_MIB, 0, 1024)]

/-- The command and the completion ring run, and one command waits. -/
def cmd (s : State) : State :=
  { State.put s [(F.KIOSK_RING_STATUS.STATE, 0, rgRUN), (F.KIOSK_RING_STATUS.STATE, 1, rgRUN), (F.KIOSK_RING_STATUS.STATE, 2, rgRUN)] with
    ko := { s.ko with rings := [(0, { hostIdx := 1 })] } }

theorem test_witness_StepRunsTheFrontCommand : ({ base with pending := [.smbStatus, .katTick] } : State).pending = .smbStatus :: [.katTick] := rfl

theorem test_witness_EmptyQueueIdles : (State.reset.pending = [] ∧ State.reset.held = true) ∧ base.pending = [] ∧ base.held = false := by decide

theorem test_witness_StepKeepsSettled : State.reset.Settled ∧ step State.reset = .next State.reset := ⟨Or.inl rfl, rfl⟩

theorem test_witness_HeldResetHoldsAll : (State.reset.held = true ∧ State.reset.glob.perstHeld = true) ∧
    let s : State := { base with glob := { base.glob with ponHeld := true } }
    s.held = true ∧ s.glob.perstHeld = false := by decide

theorem test_witness_RegisterMapHasNoOverlap :
    copyAt F.CL_HANG_ADDR.ADDR 0x300108 = some 1 ∧ copyAt F.CL_HANG_ADDR.WRITE 0x300108 = some 1 ∧ F.CL_HANG_ADDR.ADDR.wide = true := by decide

theorem test_witness_HbmWriteReadsBack : Memory.wf [(5, 1), (2 ^ 37 - 1, 2)] = true := by decide

theorem test_witness_ResetReleaseRampsDomains :
    let pon : State := { State.reset with glob := { State.reset.glob with ponHeld := true } }
    (State.reset.glob.coldHeld = true ∧ State.reset.glob.ponHeld = false) ∧ (pon.glob.coldHeld = true ∧ pon.glob.ponHeld = true) ∧
    ({ base with glob := { base.glob with ponHeld := true } } : State).glob.coldHeld = false := by decide

theorem test_witness_WarmResetClearsControlPlane : base.held = false ∧ base.glob.perstHeld = false ∧
    (State.put base [(F.GLOBAL_RESET_CTL.DATA_KEEP, 0, 1)]).rd F.GLOBAL_RESET_CTL.DATA_KEEP 0 = 1 ∧
    (State.put base [(F.GLOBAL_RESET_CTL.DATA_KEEP, 0, 0)]).rd F.GLOBAL_RESET_CTL.DATA_KEEP 0 ≠ 1 := by decide

theorem test_witness_LinkTrainsAndFlrClears :
    let s : State := { base with glob := { base.glob with perstHeld := true } }
    (s.held = false ∧ s.glob.perstHeld = true ∧ linkOk 1 1 = true ∧ linkOk 5 16 = true ∧ s.hostQuiet ∧ s.ko.msixPba = []) ∧
    up.held = false ∧ up.rd F.KIOSK_STATUS.LINK_UP 0 = 1 := by
  unfold State.hostQuiet State.noCommands; decide +kernel

theorem test_witness_DataResetStopsDataPlane : up.hostReaches ∧ up.glob.mgmtBusy = false ∧ up.dp = dpRESET ∧
    up.rd F.GLOBAL_RESET_CTL.INCL_SUNDIAL 0 ≠ 1 ∧
    (State.put up [(F.GLOBAL_RESET_CTL.INCL_SUNDIAL, 0, 1)]).rd F.GLOBAL_RESET_CTL.INCL_SUNDIAL 0 = 1 := by
  unfold State.hostReaches; decide

theorem test_witness_DomainPowersUp : up.hostReaches ∧ domState up 18 = pdOFF ∧ domState (State.put up [(F.POWER_DOM.STATE, 43, pdRAMP)]) 43 = pdRAMP := by
  unfold State.hostReaches; decide

theorem test_witness_DomainSelfTestEnds : (State.put up [(F.POWER_DOM.STATE, 16, pdTEST)]).held = false ∧
    domState (State.put up [(F.POWER_DOM.STATE, 16, pdTEST)]) 16 = pdTEST := by decide

theorem test_witness_DomainPowersDown :
    let on := State.put (dpIn dpRUNNING) [(F.POWER_DOM.STATE, 17, pdON), (F.POWER_DOM.STATE, 43, pdDRAIN), (F.POWER_DOM.STATE, 0, pdFAILED)]
    on.hostReaches ∧ (domState on 17 = pdON ∧ inUse on 17 = true) ∧ inUse (State.put (dpIn dpIDLE) [(F.POWER_DOM.STATE, 17, pdON)]) 17 = false ∧
    domState on 0 = pdFAILED ∧ domState on 1 = pdOFF ∧ domState on 43 = pdDRAIN ∧ draining on 43 = false := by
  unfold State.hostReaches; decide +kernel

theorem test_witness_SensorsReachTheirRegisters :
    let ok := [1500, 1600, 2200, 800, 3600, 1500, 2400, 3600].map (· / 2)
    base.held = false ∧ State.reset.held = true ∧ (∀ x ∈ ([-128, 81, 82, 85, 127] : List Int), -128 ≤ x ∧ x < 128) ∧
    (∀ v, v < 8 → (supplyRange v).1 ≤ 2 * ok.getD v 0 ∧ 2 * ok.getD v 0 ≤ (supplyRange v).2) ∧ (∀ x ∈ ok, x < 2 ^ 16) ∧
    2 * (727 : Nat) < (supplyRange 0).1 ∧ (supplyRange 0).2 < 2 * 773 ∧
    1 ≤ Tab.getD ({ base with lo := { base.lo with supplyOut := [(0, 1)] } } : State).lo.supplyOut 0 0 := by decide +kernel

theorem test_witness_RegisterReadAnswers :
    let off := F.BELV_SMB_REJECT.COUNT.addr
    up.hostReaches ∧ (off = (off + 3) / 4 * 4 ∧ (off + 3) % 4 + 1 ≤ 4 ∧ off % 4 + 4 ≤ 4) ∧ isDecoded up off = true ∧ msixOffset off = false ∧
    isHi off = false ∧ isLo off = false ∧
    off ≠ F.SD_TIME_NS.NS.addr ∧ off ≠ F.SD_CAPQ_NS.NS.addr ∧ off ≠ F.FC_WIN_DATA.DATA.addr ∧ copyAt F.ETH_TSQ_NS.NS off = none ∧
    isDecoded up 0x3FFFFFC = false ∧ isDecoded up F.PR_CFG.M.addr = false := by
  unfold State.hostReaches; decide +kernel

theorem test_witness_WideReadIsCoherent :
    let off := F.SD_EV_SEC.SEC.addr
    let s : State := { up with ko := { up.ko with holdRd := [(off, 7)] } }
    s.hostReaches ∧ isDecoded s off = true ∧ msixOffset off = false ∧ timeSecOffset off = false ∧ isHi off = false ∧ isLo off = true ∧
    isDecoded s (off + 4) = true ∧ msixOffset (off + 4) = false ∧ timeSecOffset (off + 4) = false ∧ isHi (off + 4) = true ∧
    Tab.find s.ko.holdRd (off + 4 - 4) = some 7 := by
  unfold State.hostReaches; decide +kernel

theorem test_witness_WideWriteIsOneStep :
    let s : State := { up with ko := { up.ko with holdWr := [(F.SD_EV_SEC.SEC.addr, 7)] } }
    s.hostReaches ∧ evArmed s 0 = false ∧ Tab.find s.ko.holdWr F.SD_EV_SEC.SEC.addr = some (7 : Word).toNat := by
  unfold State.hostReaches; decide +kernel

theorem test_witness_PartialWriteIsIgnored : up.hostReaches ∧ (0 % 16 ≠ 15 ∧ isDecoded up 0x14 = true) ∧
    (∀ be ∈ [0, 1, 6, 8, 15], wordsEnabled 0x15 be ≠ [] ∧ ∀ w ∈ wordsEnabled 0x15 be, isDecoded up w = true) ∧
    wordsEnabled 0x15 1 = [0x14] ∧ wordsEnabled 0x15 8 = [0x18] ∧ wordsEnabled 0x15 15 = [0x14, 0x18] := by
  unfold State.hostReaches; decide +kernel

theorem test_witness_FieldClassesRuleWrites :
    let on := State.put up [(F.POWER_DOM.STATE, 17, pdON)]
    on.hostReaches ∧ domState on 17 ≠ pdOFF ∧ writeReserved on F.PR_CFG.M.addr 0x24 = false ∧
    (dpIn dpRUNNING).dpStopped = false ∧ bits (0x100 : Word).toNat F.GLOBAL_DP_CFG.MODE4.lo 1 ≠ (dpIn dpRUNNING).rd F.GLOBAL_DP_CFG.MODE4 0 ∧
    (isDecoded up F.BELV_SMB_CFG.ADDR.addr = true ∧ isHi F.BELV_SMB_CFG.ADDR.addr = false ∧ isLo F.BELV_SMB_CFG.ADDR.addr = false ∧
      writeReserved up F.BELV_SMB_CFG.ADDR.addr 0 = true) := by
  unfold State.hostReaches; decide +kernel

theorem test_witness_SundialReadsLatch :
    let s : State := { up with sd := { up.sd with capq := [{ tb := 7, pin := 3, rising := true, holdover := false }] } }
    up.hostReaches ∧ up.sd.capq = [] ∧ s.sd.capq = { tb := 7, pin := 3, rising := true, holdover := false } :: [] := by
  unfold State.hostReaches; decide

theorem test_witness_WindowsStepThrough :
    let s : State := { State.put up [(F.POWER_DOM.STATE, 27, pdON)] with eth := [(3, { tsq := [{ stamp := 7, msgType := 0, domain := 0, seqId := 9, holdover := false }] })] }
    s.hostReaches ∧ domState s (24 + 3) ≠ pdOFF ∧ (getPort s 3).tsq = { stamp := 7, msgType := 0, domain := 0, seqId := 9, holdover := false } :: [] ∧
    (getPort up 0).tsq = [] ∧ domState (State.put up [(F.POWER_DOM.STATE, 24, pdON)]) 24 ≠ pdOFF ∧ up.dpStopped = true ∧ up.rd F.GLH_CTL.EN 0 = 0 := by
  unfold State.hostReaches; decide

theorem test_witness_Bar2ReadsCounters : up.hostReaches ∧
    bit ((State.put up [(F.BELV_USER_EN.GROUPS, 0, 0x8000)]).rd F.BELV_USER_EN.GROUPS 0) (1023 / 64) = true ∧
    bit (up.rd F.BELV_USER_EN.GROUPS 0) (0 / 64) = false ∧
    (linkReach (State.put up [(F.KIOSK_STATUS.D3, 0, 1)]) = true ∧ (State.put up [(F.KIOSK_STATUS.D3, 0, 1)]).rd F.KIOSK_STATUS.D3 0 = 1) := by
  unfold State.hostReaches; decide

theorem test_witness_PollTakesIndices :
    let s := State.put up [(F.KIOSK_RING_STATUS.STATE, 0, rgRUN), (F.KIOSK_RING_STATUS.STATE, 1, rgSTOPPING), (F.KIOSK_RING_STATUS.STATE, 2, rgHALTED)]
    s.hostReaches ∧ pcieReady s = true ∧ anyRing s = true ∧ s.noCommands ∧ idxDiff 5 (getRing s 0).devIdx ≤ ringSize s 0 ∧
    ringSize s 1 < idxDiff (getRing s 1).devIdx 5 ∧ ringState s 2 = rgHALTED ∧ ringState s 3 = rgOFF := by
  unfold State.hostReaches State.noCommands; decide +kernel

theorem test_witness_RingsStartAndStop :
    let off := F.KIOSK_RING_CFG.EN.addr
    let at3 := off + F.KIOSK_RING_CFG.EN.stride * 3
    let stop := State.put up [(F.KIOSK_RING_STATUS.STATE, 0, rgSTOPPING)]
    let again : State := { up with po := { up.po with again := true, streams := [(0, { off := 128, size := 256 })] } }
    up.hostReaches ∧ ringState up 0 = rgOFF ∧ writeReserved up off (setBit (0x60000 : Word).toNat 31) = false ∧
    writeReserved up off (clrBit (0x60000 : Word).toNat 31) = false ∧ up.noCommands ∧ up.po.again = false ∧
    (ringState stop 0 = rgSTOPPING ∧ stop.rd F.KIOSK_RING_CFG.EN 0 = 0 ∧ writeReserved stop off (setBit (0x60000 : Word).toNat 31) = false) ∧
    (ringState again 3 = rgOFF ∧ writeReserved again at3 (setBit (0x60000 : Word).toNat 31) = false ∧ again.po.again = true ∧
      Tab.find again.po.streams 0 = some { off := 128, size := 256 } ∧ again.tag F.PO_STREAM_CTL.ROUTE 0 = 0) := by
  unfold State.hostReaches State.noCommands; decide +kernel

theorem test_witness_EventsAndInterruptsLeave :
    let e : EvRec := { kind := 4, code := 1, tb := 0, body := [] }
    let s : State := { cmd up with ko := { (cmd up).ko with evq := [e] } }
    let m : State := { up with ko := { up.ko with rings := [(4, { modRun := true, modPend := true }), (5, { modRun := true })], msixTable := [(15, 0)], pci := { up.ko.pci with msixEn := true } } }
    (s.held = false ∧ s.ko.evq = e :: [] ∧ s.ko.evLost = 0 ∧ eventReady s = true) ∧
    eventReady { s with ko := { s.ko with evLost := 2 } } = true ∧
    ((getRing m 4).modRun = true ∧ (getRing m 4).modPend = true ∧ ringVector m 4 = some 3 ∧ msixHeld m 3 = false) ∧
    (getRing m 5).modRun = true ∧ (getRing m 5).modPend = false := by decide +kernel

theorem test_witness_LinkComesAndGoes :
    let down : State := { base with ko := { base.ko with linkDownAt := some 0 } }
    let d3 := State.put up [(F.KIOSK_STATUS.D3, 0, 1)]
    up.held = false ∧ up.rd F.KIOSK_STATUS.LINK_UP 0 = 1 ∧ up.rd F.KIOSK_STATUS.D3 0 = 0 ∧
    (base.rd F.KIOSK_STATUS.LINK_UP 0 = 0 ∧ base.glob.perstHeld = false ∧ linkOk 5 16 = true ∧ base.hostQuiet ∧ base.rd F.KIOSK_STATUS.D3 0 = 0 ∧
      (State.put base [(F.KIOSK_STATUS.BME, 0, 1)]).rd F.KIOSK_STATUS.BME 0 = 1) ∧
    (down.held = false ∧ down.ko.linkDownAt = some 0 ∧ down.ko.linkFault = false) ∧
    (d3.rd F.KIOSK_STATUS.LINK_UP 0 = 1 ∧ d3.rd F.KIOSK_STATUS.D3 0 = 1 ∧ d3.rd F.KIOSK_STATUS.BME 0 = 1 ∧ d3.hostQuiet) := by
  unfold State.hostQuiet State.noCommands; decide +kernel

/-- A descriptor of a table command. -/
def tableDesc (op id bank first count : Nat) : List Byte :=
  record 64 [(0, 1, op), (16, 4, count * tableBytes id), (20, 1, id), (21, 1, bank), (24, 4, first), (28, 4, count)]

/-- A descriptor of a region command for region 0. -/
def regionDesc (op off len : Nat) : List Byte := record 64 [(0, 1, op), (16, 4, len), (20, 1, 0), (24, 8, off)]

/-- A COMMIT_EPOCH descriptor. -/
def epochDesc (flags target : Nat) : List Byte := record 64 [(0, 1, 5), (20, 1, flags), (24, 8, target)]

theorem test_witness_NopAndDumpAreAnswered :
    let waits : State := { cmd up with ko := { (cmd up).ko with cmds := [{ idx := 0, desc := [], chan := some 15 }] } }
    (cmd up).held = false ∧ cmdReady (cmd up) = true ∧ (cmd up).ko.cmds = [] ∧ takesOp 0 (descOf (record 64 [])) = true ∧
    takesOp 6 (descOf (record 64 [(0, 1, 6)])) = true ∧ takesOp 6 (descOf (record 64 [(0, 1, 255)])) = true ∧
    plainDescOk 6 (descOf (record 64 [(0, 1, 6)])) = true ∧ (cmd (dpIn dpRUNNING)).dp = dpRUNNING ∧ (cmd up).dp ≠ dpRUNNING ∧
    (cmdReady waits = true ∧ waits.ko.cmds ≠ []) := by decide +kernel

theorem test_witness_TransferCommandsStart :
    let s := cmd (hbmUp up)
    let d := descOf (tableDesc 1 5 1 8255 1)
    let r := descOf (regionDesc 3 (2 ^ 30 - 64) 64)
    let busy : State := { State.put s [(F.ACC_STATUS.A_STATE, 0, bkINTEG), (F.ACC_STATUS.PRELOAD_ACTIVE, 0, 1)] with acs := { s.acs with banks := [(0, { preload := some 0 })] } }
    let flight : State := { s with ko := { s.ko with cmds := [{ idx := 0, desc := d, chan := some 15 }, { idx := 1, desc := r, chan := some 16 }] } }
    (s.held = false ∧ cmdReady s = true ∧ freeChannel s = some 15 ∧ s.ko.cmds = [] ∧ waitsFor s d = false ∧ waitsFor s r = false) ∧
    (takesOp 1 d = true ∧ tableDescOk 1 d = true ∧ 8255 + 1 ≤ tableEntries 5 ∧ bankBusy s 5 1 = false ∧ tableOff s 5 = false ∧ 0 < descLen d) ∧
    (tableDescOk 1 (descOf (tableDesc 1 5 2 0 1)) = false ∧ takesOp 1 (descOf (tableDesc 1 5 2 0 1)) = true) ∧
    (tableDescOk 1 (descOf (tableDesc 1 5 1 8255 2)) = true ∧ tableEntries 5 < 8255 + 2) ∧ bankBusy (cmd (dpIn dpRUNNING)) 5 0 = true ∧
    (tableOff s 1 = true ∧ bankBusy s 1 1 = false) ∧
    (takesOp 2 (descOf (tableDesc 2 5 1 8255 1)) = true ∧ tableDescOk 2 (descOf (tableDesc 2 5 1 8255 1)) = true ∧ waitsFor flight (descOf (tableDesc 2 5 1 8255 1)) = false) ∧
    (takesOp 3 r = true ∧ regionDescOk s 3 r = true ∧ regionBusy s 0 (2 ^ 30 - 64) 64 = false ∧ 0 < descLen r) ∧
    (regionDescOk s 3 (descOf (regionDesc 3 (2 ^ 30) 64)) = false ∧ descLen (descOf (regionDesc 3 0 0)) = 0) ∧
    (regionDescOk busy 3 r = true ∧ cmdReady busy = true ∧ regionBusy busy 0 (2 ^ 30 - 64) 64 = true) ∧
    (regionDescOk s 4 (descOf (regionDesc 4 0 64)) = true ∧ takesOp 4 (descOf (regionDesc 4 0 64)) = true ∧
      regionDescOk s 4 (descOf (regionDesc 4 (2 ^ 30) 64)) = false) ∧
    (cmdReady flight = true ∧ freeChannel flight = some 15 ∧ waitsFor flight d = true ∧ waitsFor flight r = true ∧
      waitsFor flight (descOf (tableDesc 1 5 0 8255 1)) = false) := by decide +kernel

/-- The last beat of a command on channel 15 is due, its ring runs, and its completion has room. -/
def lastBeat (desc : List Byte) (beats info : Nat) (answered : List Nat) : State :=
  let s := cmd (hbmUp up)
  let j : Job := { ring := 0, idx := 0, desc := desc, addr := 4096, beats := beats, info := info, answered := answered, asked := info, sent := 64 * answered.length }
  { State.put s [(F.DMA_CH_STATUS.STATE, 15, chACTIVE)] with ko := { s.ko with chans := [(15, j)], cmds := [{ idx := 0, desc := desc, chan := some 15 }] } }

theorem test_witness_TransfersComplete :
    let ready : State → Nat → Nat → List Byte → Bool := fun s beat beats d =>
      decide (s.held = false) && beatDue s 15 beat && canComplete s && decide (ringState s 0 = rgRUN) &&
      match getJob s 15 with
      | some j => decide (j.answered.length + 1 = j.beats ∧ j.beats = beats ∧ j.beats = (j.info + 63) / 64 ∧ j.ring = 0 ∧ j.err = none ∧ j.errs = [] ∧
          j.bus = false ∧ j.ahead = [] ∧ s.ko.cmds = [{ idx := j.idx, desc := d, chan := some 15 }] ∧ 64 * beat = j.sent + j.data.length ∧ beat + 1 = j.beats)
      | none => false
    let t1 := descOf (tableDesc 1 5 1 8255 1)
    let t2 := descOf (tableDesc 2 5 1 0 16)
    let r3 := descOf (regionDesc 3 (2 ^ 30 - 64) 64)
    let r4 := descOf (regionDesc 4 0 100)
    let load := lastBeat t1 1 4 []
    let region := lastBeat r3 1 64 []
    (ready load 0 1 t1 = true ∧ opOf t1 = 1 ∧ (patch [] 0 (fitBytes [1, 0, 0, 0] 4)).length = 4 ∧
      loadBad load (tableCmd t1) [1, 0, 0, 0] [] = false ∧ tableOff load 5 = false) ∧
    (opOf t1 = 1 ∧ loadBad load (tableCmd t1) [255, 255, 255, 255] [] = true) ∧
    (ready region 0 1 r3 = true ∧ opOf r3 = 3 ∧ region.rd F.GLH_STATUS.STACK_FAILED 0 = 0 ∧ Memory.wf region.hbm = true) ∧
    (ready (lastBeat t2 1 64 []) 0 1 t2 = true ∧ opOf t2 = 2) ∧
    (ready (lastBeat r4 2 100 [0]) 1 2 r4 = true ∧ opOf r4 = 4 ∧
      (getJob (lastBeat r4 2 100 [0]) 15).map (fun j => cmdErr (lastBeat r4 2 100 [0]) j 1 none) = some none) := by decide +kernel

/-- A configuration that passes the checks of R352: the default map, the program of R136 for M = 32 with 8 taps, and the regions. -/
def configured : State :=
  let s := State.put (hbmUp (dpIn dpRUNNING)) [(F.GLH_REGION.SIZE_MIB, 0, 4096), (F.GLH_REGION.VALID, 1, 1), (F.GLH_REGION.SIZE_MIB, 1, 1024),
    (F.GLH_REGION.BASE_MIB, 1, 4096), (F.PR_REGIONS.VB_REGION, 0, 1), (F.LENS_CFG.GROUPS, 0, 0)]
  s.tbWrite 4 0 0 0 ([0x10000000, 0x20000008, 0x30000000, 0x30000000, 0x30000100, 0x50000000, 0x60000000].flatMap (leBytes 4))

theorem test_witness_EpochsAreArmed :
    let s := cmd (dpIn dpRUNNING)
    let d := fun f => descOf (epochDesc f 1024)
    s.held = false ∧ cmdReady s = true ∧ s.ko.cmds = [] ∧ takesOp 5 (d 0) = true ∧ epochKind (d 0) = 0 ∧ epochKind (d 2) = 1 ∧ epochKind (d 4) = 2 ∧
    epochKind (d 14) = 0 ∧ (commitStatus s (d 2)).1 ≠ stOK := by decide +kernel

-- R352: with every check passed an epoch is accepted at its target.
theorem test_epoch_accepted : commitStatus (cmd configured) (descOf (epochDesc 4 1024)) = (stOK, 1024) := by decide +kernel

theorem test_witness_EpochChecksAndCancel :
    let a : Armed := { target := 5, start := true, stop := false, capt := [] }
    let s := cmd (dpIn dpRUNNING)
    let armed : State := { s with glob := { s.glob with armed := some a } }
    let late : State := { s with glob := { s.glob with armed := some a, hCsi := some 200 } }
    let d := fun f => descOf (epochDesc f 1024)
    s.held = false ∧ cmdReady s = true ∧ takesOp 5 (d 2) = true ∧ (epochKind (d 2) = 1 ∧ epochDescOk (d 2) = true) ∧
    (epochKind (d 34) = 1 ∧ epochDescOk (d 34) = false) ∧
    s.dp ≠ dpIDLE ∧ armed.glob.armed.isSome = true ∧ (epochKind (d 4) = 2 ∧ epochDescOk (d 4) = true ∧ (cmd up).dp ≠ dpRUNNING) ∧
    (epochKind (d 8) = 3 ∧ epochDescOk (d 8) = true ∧ s.glob.armed = none) ∧ cmdReady late = true ∧
    targetLate late (actM []) 5 = true ∧ cmdReady armed = true ∧ targetLate armed (actM []) 5 = false := by decide +kernel

theorem test_witness_ChannelsMoveDescriptors :
    let s := State.put (cmd up) [(F.KIOSK_RING_STATUS.STATE, 8, rgRUN), (F.KIOSK_RING_STATUS.STATE, 11, rgRUN), (F.POWER_DOM.STATE, 24, pdON),
      (F.POWER_DOM.STATE, 27, pdDRAIN)]
    let q : State := { s with ko := { s.ko with rings := [(0, { hostIdx := 1 }), (8, { hostIdx := 1 }), (11, { hostIdx := 1 })] } }
    let more : State := { q with ko := { q.ko with cmds := [{ idx := 0, desc := [], chan := some 15 }] } }
    q.hostReaches ∧ q.noCommands ∧ chState q 0 = chIDLE ∧ chState (State.put q [(F.DMA_CH_STATUS.STATE, 31, chACTIVE)]) 31 = chACTIVE ∧
    chState (State.put q [(F.DMA_CH_STATUS.STATE, 31, chHALTED)]) 31 = chHALTED ∧
    (pcieReady q = true ∧ fetchRing q 0 = some 0 ∧ q.ko.cmds = []) ∧ (fetchRing more 0 = some 0 ∧ more.ko.cmds ≠ []) ∧
    fetchRing q 11 = some (8 + 0) ∧ fetchRing q 14 = some (8 + 3) ∧ txDescOk ((record 64 [(8, 2, 60)]).take 64) = true ∧
    txDescOk ((record 64 [(8, 2, 9596)]).take 64) = true ∧ (domState q (24 + 0) ≠ pdOFF ∧ domState q (24 + 0) ≠ pdDRAIN) ∧ domState q (24 + 3) = pdDRAIN ∧
    (q.ko.chans = [] ∧ 0 < highBytes q 11) := by
  unfold State.hostReaches State.noCommands; decide +kernel

theorem test_witness_BeatsMoveData :
    let j : Job := { ring := 8, idx := 0, desc := [], addr := 64, beats := 3, info := 130, data := List.replicate 130 0, asked := 130 }
    let k : Job := { j with ring := 4, data := [] }
    let r : Job := { j with ring := 0, desc := descOf (regionDesc 3 (2 ^ 30 - 192) 130) }
    let s : State := { State.put (hbmUp up) [(F.DMA_CH_STATUS.STATE, 7, chACTIVE), (F.DMA_CH_STATUS.STATE, 11, chACTIVE), (F.DMA_CH_STATUS.STATE, 31, chACTIVE)]
      with ko := { up.ko with chans := [(7, k), (11, j), (31, r)] } }
    s.held = false ∧ (beatDue s 7 0 = true ∧ getJob s 7 = some k ∧ fromHost 7 k = false ∧ k.ahead = [] ∧ 64 * 0 = k.sent + k.data.length) ∧
    (beatDue s 11 2 = true ∧ getJob s 11 = some j ∧ fromHost 11 j = true) ∧ (beatDue s 31 1 = true ∧ getJob s 31 = some r ∧ opOf r.desc = 3 ∧
      cmdErr s r 1 none = none ∧ s.rd F.GLH_STATUS.STACK_FAILED 0 = 0 ∧ Memory.wf s.hbm = true) ∧ j.answered.length + 1 < j.beats := by decide +kernel

/-- Reference 0 has its clock and PPS. -/
def refUp : State :=
  { State.put up [(F.SD_REF_CFG.EN, 0, 1), (F.SD_REF_CFG.PPS_EN, 0, 1), (F.SD_STATUS.QUALIFIED, 0, 1)] with
    sd := { up.sd with refs := [(0, { clk := true, pps := true, freqOk := true, since := some 0 }), (3, { clk := true, since := some 0 })] } }

theorem test_witness_ReferencesQualify :
    let rclk := State.put up [(F.YG_CFG.RCLK_EN, 0, 1), (F.YG_LANE_STATUS.STATE, 0, laneUP), (F.SD_REF_CFG.EN, 2, 1)]
    refUp.held = false ∧ (refActive refUp 0 = true ∧ refUp.rd F.SD_THRESH.PJ_THR 0 * 1000 < 10 ^ 9 ∧ qualified refUp 0 = true ∧ refFailing refUp 0 = 0) ∧
    (edgesOn refUp 0 true = true ∧ edgesOn refUp 0 false = true) ∧ (edgesOn up 1 false = false ∧ edgesOn up 1 true = false) ∧
    (rclk.rd F.YG_CFG.RCLK_EN 0 = 1 ∧ laneState rclk (rclk.rd F.YG_CFG.RCLK_LANE 0) = laneUP ∧ edgesOn rclk 2 true = false) ∧
    (refUp.rd F.SD_REF_CFG.EN 0 = 1 ∧ refFailing (setEdges (setEdges refUp 0 true false) 0 true true) 0 = 0) ∧
    (getRef refUp 0).clk = true ∧ inFreqWin refUp 0 = true ∧ inFreqWin refUp (2 ^ 30) = false ∧
    (qualified refUp 3 = false ∧ (getRef refUp 3).since = some 0) := by decide +kernel

theorem test_witness_SundialFollowsItsReference :
    let locked := State.put refUp [(F.SD_STATUS.STATE, 0, sdLOCKED), (F.SD_STATUS.SELECTED, 0, 1), (F.SD_STATUS.SEL_VALID, 0, 1)]
    let wtr : State := { locked with sd := { refUp.sd with wtr := [(0, 0)] } }
    let none_ : State := { State.put wtr [(F.SD_STATUS.QUALIFIED, 0, 0)] with sd := { refUp.sd with wtr := [(3, 0)] } }
    let slew : State := { up with sd := { up.sd with remain := -7 } }
    let acq : State := { State.put refUp [(F.SD_STATUS.STATE, 0, sdACQUIRE), (F.SD_STATUS.SEL_VALID, 0, 1)] with sd := { refUp.sd with lockSince := some 0 } }
    refUp.hostReaches ∧ writeReserved refUp F.SD_REF_CFG.EN.addr (0xC0271001 : Word).toNat = false ∧
    (nextWtr wtr = some (0, 0) ∧ wtr.sd.remain = 0 ∧ (choose wtr).ref = some 0 ∧ qualified wtr 0 = true ∧ wtr.sdState = sdLOCKED) ∧
    (nextWtr none_ = some (3, 0) ∧ none_.sd.remain = 0 ∧ (choose none_).ref ≠ some 3) ∧ (slew.sd.remain ≠ 0 ∧ slew.sd.revert = none) ∧
    (acq.sdState = sdACQUIRE ∧ acq.sd.lockSince = some 0 ∧ acq.rd F.SD_STATUS.SEL_VALID 0 = 1 ∧ qualified acq (acq.rd F.SD_STATUS.SELECTED 0) = true ∧
      (choose acq).ref = some (acq.rd F.SD_STATUS.SELECTED 0)) := by
  unfold State.hostReaches; decide +kernel

theorem test_witness_PhaseAndVirtAreWatched :
    let acq := State.put refUp [(F.SD_STATUS.STATE, 0, sdACQUIRE), (F.SD_STATUS.SEL_VALID, 0, 1), (F.GLOBAL_DP_STATE.STATE, 0, dpRUNNING)]
    let sel := State.put refUp [(F.SD_STATUS.STATE, 0, sdLOCKED), (F.SD_STATUS.SEL_VALID, 0, 1)]
    (acq.held = false ∧ acq.rd F.SD_STATUS.SEL_VALID 0 = 1) ∧ up.rd F.SD_STATUS.SEL_VALID 0 ≠ 1 ∧ refUp.hostReaches ∧
    (refUp.rd F.SD_REF_CFG.PPS_EN 0 = 1 ∧ (getRef refUp 0).clk = true ∧ (getRef refUp 0).freqOk = true ∧ refUp.sd.remain = 0 ∧ refUp.sdState ≠ sdACQUIRE) ∧
    sel.selectionStays ∧ acq.selectionStays ∧ refUp.rd F.SD_STATUS.SEL_VALID 0 ≠ 1 ∧
    (acq.sdState = sdACQUIRE ∧ acq.rd F.SD_STATUS.SELECTED 0 = 0 ∧ acq.sd.aligned = false ∧ acq.dpStopped = false) ∧ (getRef refUp 3).clk = true := by
  unfold State.hostReaches State.selectionStays; decide +kernel

theorem test_witness_TimeIsSetAndStepped :
    let s : State := { up with ko := { up.ko with holdWr := [(F.SD_TOD_SET.SEC.addr, 7)] } }
    let tod : State := { up with sd := { up.sd with tod := some 5 } }
    s.hostReaches ∧ Tab.find s.ko.holdWr F.SD_TOD_SET.SEC.addr = some (7 : Word).toNat ∧ s.dpStopped = true ∧ (dpIn dpRUNNING).dpStopped = false ∧
    bits (2 : Word).toNat 1 1 = 1 ∧ bits (1 : Word).toNat 1 1 = 0 ∧ (∀ e, e < 64 → evArmed up e = false) ∧ up.sd.tod = none ∧ tod.sd.tod = some 5 ∧
    (∀ e, e < 64 → evArmed tod e = false) := by
  unfold State.hostReaches; decide +kernel

theorem test_witness_TimedEventsAndCaptures :
    let later := State.put up [(F.SD_EV_NS.NS, 63, 5)]
    let off := F.SD_EV_CTL.ARM.addr + F.SD_EV_CTL.ARM.stride * 63
    let armed := State.put up [(F.SD_EV_CTL.ARM, 0, 1), (F.SD_EV_CTL.PINS, 0, 15), (F.SD_EV_PERIOD.PERIOD, 0, 7)]
    let two := State.put up [(F.SD_EV_CTL.ARM, 5, 1), (F.SD_EV_CTL.ARM, 9, 1)]
    let high : State := { up with sd := { up.sd with pulses := [(3, 7)] } }
    let tin := State.put up [(F.SD_TIN_CFG.EDGE, 0, 3)]
    let full : State := { tin with sd := { tin.sd with capq := List.replicate 64 { tb := 0, pin := 0, rising := true, holdover := false } } }
    later.hostReaches ∧ evArmed later 63 = false ∧ writeReserved later off (setBit (1 : Word).toNat 31) = false ∧ later.tb < evTime later 63 ∧
    (evTime up 63 ≤ up.tb ∧ bits (0 : Word).toNat 24 3 = 0 ∧ up.rd F.SD_EV_PERIOD.PERIOD 63 = 0 ∧ evTime up 63 < ({ up with tb := 1 } : State).tb) ∧
    (∀ j, j < 64 → evArmed two j = true → evTime two j = evTime two 5 → two.rd F.SD_EV_CTL.ACTION j = 0) ∧ (evArmed two 5 = true ∧ evArmed two 9 = true) ∧
    (∀ j, j < 64 → j ≠ 0 → evArmed armed j = true → evTime armed j ≠ evTime armed 0) ∧ (evArmed armed 0 = true ∧ armed.rd F.SD_EV_CTL.ACTION 0 = 0 ∧ armed.rd F.SD_EV_PERIOD.PERIOD 0 ≠ 0) ∧ timeOutHigh high 3 = true ∧
    (bit (tin.rd F.SD_TIN_CFG.EDGE 0) 0 = true ∧ bit (tin.rd F.SD_TIN_CFG.EDGE 0) 1 = true ∧ tin.rd F.SD_TIN_CFG.FILTER 0 ≤ 1000 ∧ tin.sd.capq.length < 64) ∧
    64 ≤ full.sd.capq.length := by
  unfold State.hostReaches; decide +kernel

theorem test_witness_LodgeWatches :
    let kat : State := { State.put (dpIn dpIDLE) [(F.POWER_DOM.STATE, 16, pdON)] with lo := { up.lo with katDue := [135], katFailed := [(135, 1)], lateTwinAt := some 0 } }
    let busy : State := { up with ko := { up.ko with chans := [(31, { ring := 0, idx := 0, desc := [], addr := 0, beats := 1 })] } }
    kat.held = false ∧ kat.lo.katDue.contains 135 = true ∧ katIdle kat = true ∧ domOn kat (135 / 8) = true ∧
    (Tab.find kat.lo.katFailed 135).isSome = true ∧ (kat.rd F.PAV_CFG.RETIRE_EN 0 = 1 ∧ 1 ≤ Tab.getD kat.lo.katFailed 135 0 ∧ kat.rd F.PAV_STATUS.ROLE 135 ≠ roFAILED) ∧
    (tableOfRow 2 4 = true ∧ 63 < tableEntries 4 ∧ tableOfRow 5 9 = true ∧ 0 < tableEntries 9 ∧ (1 : Nat) < 2) ∧ kat.pv.settled = true ∧
    ({ kat with ko := { kat.ko with evq := List.replicate 3 { kind := 4, tb := 0, body := [] } } } : State).ko.evq.length = 3 ∧
    (getJob busy 31 = some { ring := 0, idx := 0, desc := [], addr := 0, beats := 1 } ∧ busy.held = false) ∧ kat.lo.lateTwinAt = some 0 ∧ katIdle (dpIn dpRUNNING) = true := by decide +kernel

theorem test_witness_LanesTrain :
    let s := State.put up [(F.YG_LANE_STATUS.STATE, 0, lnSIGNAL_WAIT), (F.YG_LANE_STATUS.STATE, 1, lnCDR), (F.YG_LANE_STATUS.STATE, 2, lnADAPT),
      (F.YG_LANE_STATUS.STATE, 3, lnTX_TRAIN), (F.YG_LANE_STATUS.STATE, 4, lnTX_TRAIN), (F.YG_LANE_STATUS.STATE, 63, lnTX_TRAIN)]
    let t : State := { s with yg := { s.yg with lanes := [(4, { train := { fin := true } }), (63, { train := { requests := 150 } })] } }
    t.held = false ∧ laneState t 0 = lnSIGNAL_WAIT ∧ (laneState t 1 = lnCDR ∧ (2000 : Int).natAbs ≤ 2000 ∧ t.el ≤ (getLane t 1).train.timerAt + 2 * msUnits) ∧
    (laneState t 2 = lnADAPT ∧ t.el ≤ (getLane t 2).train.timerAt + 12 * msUnits) ∧
    (laneState t 3 = lnTX_TRAIN ∧ (getLane t 3).train.fin = false ∧ (getLane t 3).train.requests < 150) ∧
    (laneState t 63 = lnTX_TRAIN ∧ 150 ≤ (getLane t 63).train.requests) ∧
    (laneState t 4 = lnTX_TRAIN ∧ (getLane t 4).train.fin = true ∧ t.el ≤ (getLane t 4).train.timerAt + 42 * msUnits) := by decide +kernel

theorem test_witness_LanesDecodeAndFall :
    let s := State.put up [(F.YG_LANE_STATUS.STATE, 0, lnCW_LOCK), (F.YG_LANE_STATUS.STATE, 1, laneUP), (F.YG_LANE_STATUS.STATE, 2, lnCDR),
      (F.YG_LANE_STATUS.STATE, 63, lnTRAIN_FAIL)]
    let t : State := { s with yg := { s.yg with lanes := [(0, { good := 3 }), (1, { bad := 7 })] } }
    let b : State := { s with yg := { s.yg with lanes := [(1, { bad := 8 })] } }
    let off := F.YG_LANE_CTL.RETRAIN.addr + F.YG_LANE_CTL.RETRAIN.stride * 63
    let q := State.put t [(F.POWER_DOM.STATE, 43, pdON)]
    t.held = false ∧ (laneState t 0 = lnCW_LOCK ∧ (getLane t 0).boundary = 0 ∧ 4 ≤ (getLane t 0).good + 1) ∧ (laneState t 1 = laneUP ∧ (getLane t 1).bad < 8) ∧
    (decodeLevels false 0 0 []).1 = .uncorrectable ∧ (decodeLevels false 0 0 (List.replicate 2720 0)).1 = .good 0 ∧ domState q (28 + 63 / 4) ≠ pdOFF ∧
    (laneState b 1 = laneUP ∧ 8 ≤ (getLane b 1).bad) ∧ (lnCDR ≤ laneState t 2 ∧ laneState t 2 ≤ lnCW_LOCK) ∧ laneState t 63 = lnTRAIN_FAIL ∧
    (q.hostReaches ∧ writeReserved q off (setBit (1 : Word).toNat 8) = false ∧ q.dpStopped = true) ∧
    (writeReserved (dpIn dpRUNNING) off (setBit (1 : Word).toNat 8) = false ∧ (dpIn dpRUNNING).dpStopped = false) ∧
    laneState (State.put (dpIn dpRUNNING) [(F.YG_LANE_STATUS.STATE, 63, laneUP)]) 63 ≠ lnOFF := by
  unfold State.hostReaches; decide +kernel

theorem test_witness_LanesReport : laneState (State.put up [(F.YG_LANE_STATUS.STATE, 63, laneUP)]) 63 = laneUP ∧ up.held = false ∧
    up.rd F.YG_DEGRADE.THRESH 0 < ({ winSym := 2 ^ 20 } : Lane).winSym ∧ ({ winSym := 0 } : Lane).winSym ≤ up.rd F.YG_DEGRADE.THRESH 0 := by decide

/-- A cell: flags, source, group, channel, FMT, CSI and sequence number, with a header of the right CRC and no payload. -/
def cellOf (flags source group chan fmt csi seq : Nat) : LaneCell :=
  let h := beBytes 2 0x5947 ++ beBytes 1 1 ++ beBytes 1 flags ++ beBytes 2 source ++ beBytes 2 group ++ beBytes 2 chan ++ beBytes 1 fmt ++
    beBytes 1 0 ++ beBytes 8 csi ++ beBytes 4 seq ++ List.replicate 6 0
  { bytes := h ++ beBytes 2 (crc16 h), blocks := 516, crc := crc32 [] }

/-- Source 7 carries groups 2 to 5 in entry 0, one coarse sample takes a microsecond, and channel 0 has slice 4 for its oldest. -/
def ingest (s : State) : State :=
  { ((hbmUp s).tbWrite 0 0 0 0 (leBytes 2 7 ++ leBytes 2 2 ++ leBytes 2 4 ++ leBytes 2 1)).tbWrite 15 0 0 22
      (leBytes 2 1 ++ leBytes 6 1000000 ++ leBytes 2 1) with
    gh := { s.gh with fronts := [(0, 4)], windows := [{ upto := 9, at_ := 0, w := 5 }] } }

theorem test_witness_CellsAreChecked :
    let c := fun flags group fmt csi seq => (cellOf flags 7 group 0 fmt csi seq)
    let p := fun x : LaneCell => parseCell x.bytes
    let lane : State := { up with yg := { up.yg with lanes := [(63, { ended := [c 0 2 1 512 0] })] } }
    let s := ingest (dpIn dpRUNNING)
    let seen : State := { s with yg := { s.yg with filters := [(0, { established := true, h := 4095, seen := [(0, 1)] })] } }
    (lane.held = false ∧ (getLane lane 63).ended = c 0 2 1 512 0 :: []) ∧ (cellFault { trunc := true }).isSome = true ∧
    (cellFault (c 0 2 1 512 0)).isNone = true ∧ sourceOf up (sourceBank up 512) 7 = none ∧ sourceOf s (sourceBank s 512) 7 = some 0 ∧
    (freshFilter seen 0 128 = seen ∧ (getFilter seen 0).established = true ∧ Tab.find (getFilter seen 0).seen 0 = some 1 ∧
      signed 32 (unsigned 32 (((0 : Nat) : Int) - (getFilter seen 0).h)) ≤ 0 ∧ -4096 < signed 32 (unsigned 32 (((0 : Nat) : Int) - (getFilter seen 0).h)) ∧
      (p (c 0 2 1 128 0)).seq = 0 ∧ deviceChan seen (p (c 0 2 1 128 0)) = some 0 ∧ dpARMED ≤ seen.dp ∧ seen.gh.firstSlice ≤ (p (c 0 2 1 128 0)).csi / seen.sCell ∧ (p (c 0 2 1 128 0)).csi / seen.sCell < frontOf seen 0) ∧
    (dupFilter (freshFilter s 0 512) 0 (p (c 0 2 1 512 0)) 1).1 = true ∧ ((p (c 0 1 1 512 0)).group < (sourceEntry s 0 0).base ∧
      (sourceEntry s 0 0).base + (sourceEntry s 0 0).count ≤ (p (c 0 6 1 512 0)).group) ∧
    ((sourceEntry s 0 0).base ≤ (p (c 0 5 1 512 0)).group ∧ (p (c 0 5 1 512 0)).group < (sourceEntry s 0 0).base + (sourceEntry s 0 0).count) ∧
    ((p (c 0 2 2 512 0)).fmt ≠ 1 ∧ s.mode4 = false) ∧ ((p (c 2 2 1 512 0)).fmt = 1 ∧ (p (c 2 2 1 512 0)).test = true) ∧
    ((p (c 0 2 1 512 0)).test = false ∧ (ingest (dpIn dpIDLE)).dp = dpIDLE ∧ (dupFilter (freshFilter (ingest (dpIn dpIDLE)) 0 512) 0 (p (c 0 2 1 512 0)) 1).1 = true ∧
      sourceOf (ingest (dpIn dpIDLE)) 0 7 = some 0) ∧
    (s.dp = dpRUNNING ∧ deviceChan s (p (c 0 2 1 384 0)) = some 0 ∧ (p (c 0 2 1 384 0)).csi % s.sCell = 0 ∧
      s.gh.firstSlice * s.sCell ≤ (p (c 0 2 1 384 0)).csi ∧ (p (c 0 2 1 384 0)).csi / s.sCell < frontOf s 0) := by decide +kernel

theorem test_witness_CellsLandAndSlicesGo :
    let s := ingest (dpIn dpRUNNING)
    let x := parseCell (cellOf 0 7 2 0 1 512 0).bytes
    let src := sourceEntry s (sourceBank s x.csi) 0
    let fill := State.put s [(F.GH_STATUS.STALLED, 0, 1), (F.GH_CFG.STALL_FILL, 0, 1)]
    (s.held = false ∧ sourceOf s (sourceBank s x.csi) x.source = some 0 ∧ (dupFilter (freshFilter s 0 x.csi) 0 x 1).1 = true ∧ src.base ≤ x.group ∧
      x.group < src.base + src.count ∧ x.fmt = 1 ∧ s.mode4 = false ∧ x.test = false ∧ s.dp = dpRUNNING ∧ deviceChan s x = some 0 ∧ x.csi % s.sCell = 0 ∧
      s.gh.firstSlice * s.sCell ≤ x.csi ∧ frontOf s 0 ≤ x.csi / s.sCell ∧
      x.csi - frontOf s 0 * s.sCell < samplesIn s x.csi (s.inForce F.GH_WINDOW.W 0 * 100 * usUnits) ∧ ringRoom s = true ∧
      slotLanded s x.group 0 (x.csi / s.sCell) = false ∧ s.rd F.GLH_STATUS.STACK_FAILED 0 = 0 ∧ Memory.wf s.hbm = true) ∧
    (dpARMED ≤ s.dp ∧ sliceExists s 0 (frontOf s 0) = true ∧ windowOf s (frontOf s 0) = some { upto := 9, at_ := 0, w := 5 }) ∧
    s.rd F.GH_STATUS.STALLED 0 = 0 ∧ (fill.rd F.GH_STATUS.STALLED 0 = 1 ∧ fill.rd F.GH_CFG.STALL_FILL 0 = 1 ∧ fill.dp = dpRUNNING ∧ waitingChans fill = [0]) := by decide +kernel

theorem test_witness_SpectraAreWritten :
    let s : State := { State.put (ingest (dpIn dpRUNNING)) [(F.POWER_DOM.STATE, 17, pdON)] with gh := { fronts := [(0, 40)] } }
    let late : State := { s with px := { s.px with base := 4096 } }
    s.held = false ∧ spectrumReady s 4095 0 (nextSpectrum s 4095 0) = true ∧ nextSpectrum s 4095 0 < s.px.s0 + (spectrumAt s 0).P * (spectrumAt s 0).M ∧
    spectrumReady late 0 0 (nextSpectrum late 0 0) = true ∧
    ¬ nextSpectrum late 0 0 < late.px.s0 + (spectrumAt late 4096).P * (spectrumAt late 4096).M ∧ s.rd F.GLH_STATUS.STACK_FAILED 0 = 0 ∧
    Memory.wf s.hbm = true := by decide +kernel

theorem test_witness_BlocksAreFetchedAndRun :
    let o : Orangery := { cyc := 0, f := 0, samples := [], valids := [], ready := true }
    let s := dpIn dpRUNNING
    let fetch : State := { s with px := { s.px with written := 1 } }
    let busy : State := { s with pv := { s.pv with fetch := some 0, halves := [(0, { o with ready := false })] } }
    let next : State := { s with pv := { s.pv with halves := [(0, o)] } }
    let run : State := { State.put s [(F.PAV_MAP_CTL.Q, 0, 2)] with pv := { s.pv with halves := [(0, o)], cur := some 0 } }
    let wait : State := { run with pv := { run.pv with queue := [{ cyc := 0, f := 2, beta := 0, order := 0, logical := 0, pav := 0 }] } }
    let held : State → List Nat := fun x => tileHeld (startSlot (settleSlot (bcastWaits { x with out := [] } [(135, 9)])) x.pv.order [] []) o.cyc o.f x.pv.order
    let tail : State := { run with pv := { run.pv with order := 2, tail := [{ duty := .rerun, pav := 0, logical := 0, beta := 0, order := 0 }] } }
    s.held = false ∧ fetchReady fetch = true ∧ (busy.pv.fetch = some 0 ∧ (Tab.find busy.pv.halves 0).isSome = true ∧ hung busy 3 = false) ∧
    (nextHalf next = some 0 ∧ Tab.find next.pv.halves 0 = some o ∧ quiet next = true ∧ dpRUNNING ≤ next.dp) ∧
    (run.pv.order < run.q ∧ curHalf run = some o ∧ held run = []) ∧ held wait ≠ [] ∧ (tail.pv.order = tail.q ∧ curHalf tail = some o ∧ tail.pv.tail ≠ []) := by decide +kernel

theorem test_witness_ImagesAreCommitted :
    let img : Img := { cyc := 0, f := 0, beta := 8255, order := 0, logical := 0, pav := 0 }
    let s := dpIn dpRUNNING
    let q : State := { s with pv := { s.pv with queue := [img] } }
    let again : State := { s with acs := { s.acs with banks := [(0, { touched := [touchKey 8255 0], preload := some 1 })] }, pv := { s.pv with queue := [img] } }
    let tally : State := { s with pv := { s.pv with queue := [{ img with withTally := true }] } }
    let out : State := { s with pv := { s.pv with issued := [img] } }
    q.held = false ∧ q.pv.queue = img :: [] ∧ hung q 4 = false ∧ img.beta < 8256 ∧ q.sound = true ∧ Memory.wf q.hbm = true ∧ (getBank q 0).preload = none ∧
    (getBank again 0).touched.contains (touchKey img.beta img.f) = true ∧ img.withTally = false ∧
    (tally.pv.queue = { img with withTally := true } :: [] ∧ (getBank tally 0).preTally = none ∧
      (getBank tally 0).touchedTally.contains (touchKey img.beta (img.f / s.M)) = false) ∧ out.pv.issued = img :: [] := by decide +kernel

theorem test_witness_RunsStartAndCyclesEnd :
    let o : Orangery := { cyc := 5, f := 31, samples := [], valids := [] }
    let start : Armed := { target := 64, start := true, stop := false, capt := [] }
    let a : State := { dpIn dpARMED with glob := { base.glob with armed := some start }, gh := { started := true } }
    let run := fun (l : List (Fld × Nat × Nat)) (arm : Option Armed) => ({ State.put (dpIn dpRUNNING) l with
      acs := { cyc := 5 }, pv := { halves := [(1, o)], cur := some 1 }, glob := { base.glob with armed := arm } } : State)
    let epoch : Armed := { target := 6 * 1024, start := false, stop := false, capt := [] }
    let integ := [(F.ACC_STATUS.A_STATE, 0, bkINTEG)]
    (a.held = false ∧ a.dp = dpARMED ∧ a.glob.armed = some start ∧ a.gh.started = true) ∧
    (boundaryReady (run integ none) = true ∧ integBank (run integ none) = some 0 ∧ atTarget (run integ none) = false) ∧
    (({ run integ none with act := Regs.wr [] F.ACC_INTEG.K 0 4 } : State).ac F.ACC_INTEG.K 0 = 4 ∧
      boundaryReady { run integ none with act := Regs.wr [] F.ACC_INTEG.K 0 4 } = true ∧ (run integ none).rd F.ACC_INTEG_LEN.LEN 0 = 0 ∧
      (run integ none).rd F.ACC_STATUS.DUMP_PENDING 0 = 0) ∧
    (boundaryReady (run ((F.ACC_STATUS.DUMP_PENDING, 0, 1) :: integ) none) = true ∧ bankState (run integ none) 1 = bkFREE) ∧
    bankState (run ((F.ACC_STATUS.B_STATE, 0, bkCLOSED) :: integ) none) 1 ≠ bkFREE ∧
    (atTarget (run integ (some epoch)) = true ∧ epoch.stop = false) ∧ atTarget (run integ (some { epoch with stop := true })) = true ∧
    (integBank (run [(F.ACC_STATUS.GAP, 0, 1)] none) = none ∧ inGap (run [(F.ACC_STATUS.GAP, 0, 1)] none) = true ∧
      boundaryReady (run [(F.ACC_STATUS.GAP, 0, 1)] none) = true ∧ atTarget (run [(F.ACC_STATUS.GAP, 0, 1)] none) = false) := by decide +kernel

theorem test_witness_PorticoExportsDumps :
    let closed := State.put up [(F.ACC_STATUS.A_STATE, 0, bkCLOSED)]
    let on : State := { closed with acs := { closed.acs with banks := [(0, { epochRegs := [((F.PO_STREAM_CTL.EN.id, 3), 1), ((F.PO_STREAM_CTL.ROUTE.id, 3), 1)] })] } }
    let link := State.put on [(F.ETH_STATUS.LINK_UP, 0, 1), (F.ACC_STATUS.A_STATE, 0, bkDRAINING)]
    let sending : State := { link with po := { link.po with streams := [(3, { size := 256 })] } }
    let sent : State := { link with po := { link.po with streams := [(3, { size := 256, off := 256, bad := [1] })] } }
    (closed.held = false ∧ drainable closed 0 = true ∧ ∀ j, j < 4 → closed.tag F.PO_STREAM_CTL.EN j ≠ 1) ∧
    (drainable on 0 = true ∧ on.tag F.PO_STREAM_CTL.EN 3 = 1) ∧
    drainable (State.put up [(F.ACC_STATUS.B_STATE, 0, bkCLOSED)]) 1 = true ∧
    (streamLeft sending 3 = true ∧ takers sending 3 = [(0, 0)] ∧ linkUp sending 0 = true ∧ portIdle sending 0 = true ∧ (getPort sending 0).ready = [] ∧
      sending.sound = true) ∧ streamDelivered sent 3 = true := by decide +kernel

/-- Context 0 of the Lens covers every fine channel, with a taper set and the flags of Table 10-1. -/
def lensOf (taper flags : Nat) : State :=
  { (hbmUp (dpIn dpRUNNING)).tbWrite 7 0 0 24 (leBytes 2 0 ++ leBytes 2 32 ++ leBytes 2 0 ++ leBytes 1 flags ++ leBytes 1 0 ++ leBytes 2 taper) with
    le := { isOpen := true }, pv := { halves := [(0, { cyc := 0, f := 0, samples := [], valids := [] })], cur := some 0 } }

theorem test_witness_BeamsAreServedAndReduced :
    let s := lensOf 0xFFFF 9
    let pend : State := { up with eye := { up.eye with pend := some { cyc := 0, first := 0, T := 0, epochNum := 0, act := [] } } }
    let last : State := { dpIn dpSTOPPING with le := { isOpen := true, f := 31 } }
    let eye := fun n => State.put up [(F.POWER_DOM.STATE, 22, pdON), (F.EYE_CAP_STATUS.STATE, 0, n)]
    let u : Unit_ := { ep := {}, k := 16383, f := 8191, fsi := 0, ready := true }
    let node : State := { up with tr := { up.tr with units := [u] } }
    let port := State.put node [(F.ETH_STATUS.LINK_UP, 0, 1)]
    let word : State := { s with tableBad := [(7, 0, 3, 0)] }
    let bad : State := { lensOf 0 9 with gl := { s.gl with bad := [0] } }
    (s.held = false ∧ s.le.isOpen = true ∧ (s.le.ahead.any fun e => decide (e.1 = 0)) = false) ∧ fetchDue (lensOf 0 9) 0 = true ∧
    (serveReady s 0 = true ∧ (curHalf s).isSome = true ∧ lensPair s s.le.act 0 ≠ 1 ∧ lensRoute s s.le.act 0 = 2 ∧ hung s 6 = false ∧ s.eye.pend = none ∧
      s.rd F.GLH_STATUS.STACK_FAILED 0 = 0 ∧ Memory.wf s.hbm = true ∧ ringPlace (lensRingSize s s.le.act) 0 0 10240 = (false, some 0) ∧
      ((servedWith s s.le.act 0).any fun j => lensWordBad s s.le.act j s.le.f) = false) ∧
    (serveReady word 0 = true ∧ (curHalf word).isSome = true ∧ ((servedWith word word.le.act 0).any fun j => lensWordBad word word.le.act j word.le.f) = true) ∧
    (fetchDue bad 0 = true ∧ fetchBad bad bad.le.act 0 bad.le.f = true ∧ fetchBad (lensOf 0 9) (lensOf 0 9).le.act 0 0 = false) ∧
    (ringPlace 20480 0 10240 10240 = (false, none) ∧ ringPlace 20480 15000 5000 10240 = (true, none) ∧ ringPlace 20480 10240 64 10240 = (false, some 10240)) ∧
    pend.eye.pend.isSome = true ∧ lastWindow last = true ∧
    ((eye cpROLLING).hostReaches ∧ domState (eye cpROLLING) 22 ≠ pdOFF ∧ capState (eye cpROLLING) = cpROLLING ∧ capState (eye cpOFF) = cpOFF ∧
      capState (eye cpFROZEN) = cpFROZEN ∧ bit (2 : Word).toNat 0 = false) ∧
    (heldUnit node 16383 8191 0 = some u ∧ u.ready = true ∧ nodeId u.ep.act = 0 ∧ linkUp node 0 = false ∧ Regs.rd u.ep.act F.TR_LINK.ROOT_PORT 0 = 0) ∧
    (heldUnit port 16383 8191 0 = some u ∧ linkUp port 0 = true ∧ portIdle port 0 = true ∧ (getPort port 0).ready = []) ∧
    nodeId (Regs.wr [] F.TR_CFG.NODE_ID 0 1) ≠ 0 := by
  unfold State.hostReaches; decide +kernel

/-- A broadcast frame of a type, with 46 more bytes. -/
def frameOf (type : Nat) (body : List Byte) : List Byte := List.replicate 6 255 ++ List.replicate 6 0 ++ beBytes 2 type ++ body ++ List.replicate (46 - body.length) 0

/-- An IPv4 header of UDP with a checksum. -/
def ipOf (check : Nat) : List Byte := [0x45] ++ List.replicate 8 0 ++ [17] ++ beBytes 2 check

theorem test_witness_EthernetPortsRun :
    let s := State.put up [(F.ETH_STATUS.LINK_UP, 3, 1), (F.ETH_CFG.HOST_EN, 3, 1), (F.POWER_DOM.STATE, 27, pdON), (F.KIOSK_RING_STATUS.STATE, 7, rgRUN), (F.ETH_STATUS.VERIFY, 2, 1)]
    let tr : State := { s with act := Regs.wr s.act F.TR_CFG.EN 0 1 }
    let host : State := { s with ko := { s.ko with rings := [(7, { hostIdx := 1 })] } }
    let g : TxFrame := { sender := .eye, bytes := List.replicate 3000 0 }
    let tx : State := { s with eth := [(3, { cur := some g })] }
    (s.held = false ∧ linkUp s 3 = true) ∧ (frameOf 0 []).length + 4 = 64 ∧ rxFill s 3 + 64 ≤ 262144 ∧ beAt (frameOf 0x8808 []) (typeAt (frameOf 0x8808 [])) 2 = 0x8808 ∧
    (forTrellis tr (frameOf 0x0800 (ipOf 0xBAEE)) = true ∧
      fold16 (wordSum (((frameOf 0x0800 (ipOf 0xBAEE)).drop (typeAt (frameOf 0x0800 (ipOf 0xBAEE)) + 2)).take 20)) = 65535) ∧
    (forTrellis tr (frameOf 0x0800 (ipOf 0)) = true ∧
      fold16 (wordSum (((frameOf 0x0800 (ipOf 0)).drop (typeAt (frameOf 0x0800 (ipOf 0)) + 2)).take 20)) ≠ 65535) ∧
    (forTrellis s (frameOf 0x0900 []) = false ∧ addressPass s 3 (frameOf 0x0900 []) = true ∧ s.rd F.ETH_CFG.HOST_EN 3 = 1 ∧
      addressPass s 3 (List.replicate 60 2) = false ∧ (State.put s [(F.ETH_CFG.HOST_EN, 3, 0)]).rd F.ETH_CFG.HOST_EN 3 = 0) ∧
    hasDescriptor host (4 + 3) = true ∧ (hasDescriptor s (4 + 3) = false ∧ getJob s (7 + 3) = none ∧ (getPort s 3).rx = []) ∧
    (linkUp up 3 = false ∧ domOn (State.put up [(F.POWER_DOM.STATE, 27, pdON)]) (24 + 3) = true) ∧ s.rd F.ETH_STATUS.VERIFY 2 = 1 ∧
    (linkUp tx 3 = true ∧ (getPort tx 3).exp = none ∧ (getPort tx 3).cur = some g) := by decide +kernel

theorem test_witness_EthernetLongFrames :
    9600 < (List.replicate 9597 (0 : Byte)).length + 4 ∧ (List.replicate 59 (0 : Byte)).length + 4 < 64 ∧
    262144 < rxFill { up with eth := [(3, { rx := List.replicate 28 { bytes := List.replicate 9596 0, stamp := 0, holdover := false } })] } 3 ∧
    up.rd F.ETH_TX_THRESH.CUR 3 * 256 < ({ sender := .eye, bytes := List.replicate 3000 0 } : TxFrame).bytes.length + 4 := by
  have h : up.rd F.ETH_TX_THRESH.CUR 3 = 8 := by decide
  rw [h]
  refine ⟨?_, ?_, ?_, ?_⟩
  · rw [List.length_replicate]; omega
  · rw [List.length_replicate]; omega
  · show 262144 < ((List.replicate 28 _).map fun f : RxFrame => f.bytes.length + 4).sum
    rw [List.map_replicate, List.sum_replicate, List.length_replicate]; decide
  · show 8 * 256 < (List.replicate 3000 (0 : Byte)).length + 4
    rw [List.length_replicate]; omega

theorem test_witness_GlasshouseRuns :
    let s := hbmUp up
    let init := State.put up [(F.GLH_STATUS.INIT_BUSY, 0, 1)]
    let hold : State := { up with ko := { up.ko with holdWr := [(F.GLH_REGION.VALID.addr + 8 * 31, 255)] } }
    let panic : State := { s with cl := { s.cl with panic := [0] }, gl := { s.gl with postponed := [(7, 4)], forced := [3] } }
    let due : State := { s with gl := { s.gl with scrubs := [64] } }
    let pass : State := { s with gl := { s.gl with scrubPos := (List.range 256).map fun g => (g, pchBeats) } }
    let named : State := { up with ko := { up.ko with cmds := [{ idx := 0, desc := regionDesc 4 0 64, chan := some 15 }] } }
    (up.hostReaches ∧ up.dpStopped = true ∧ up.rd F.GLH_CTL.EN 0 = 0 ∧ bit (0 : Word).toNat 8 = false) ∧ init.rd F.GLH_STATUS.INIT_BUSY 0 = 1 ∧
    (s.hostReaches ∧ s.rd F.GLH_CTL.EN 0 = bits (1 : Word).toNat 0 1) ∧ (dpIn dpRUNNING).dpStopped = false ∧
    regionBad hold 31 ((0x80000000 : Word).toNat * 2 ^ 32 + 255) = true ∧ regionBad hold 31 ((0x80000001 : Word).toNat * 2 ^ 32 + 255) = false ∧
    s.rd F.GLH_STATUS.READY 0 = 1 ∧ (panic.cl.panic ≠ [] ∧ 6 ∉ panic.gl.forced ∧ Tab.getD panic.gl.postponed 6 0 < 4 ∧ 7 ∉ panic.gl.forced ∧
      4 ≤ Tab.getD panic.gl.postponed 7 0 ∧ 3 ∈ panic.gl.forced) ∧
    (regionNamed named 0 = true ∧ regionNamed up 31 = false) ∧ (due.gl.scrubs = 64 :: [] ∧ stackDead due 64 = false ∧ due.gl.bad = []) ∧
    stackDead (State.put s [(F.GLH_STATUS.STACK_FAILED, 0, 1)]) 0 = true ∧ scrubLeft s 255 = true ∧
    ((∀ g, g < 256 → scrubLeft pass g = false) ∧ pass.gl.scrubs = []) := by
  unfold State.hostReaches; decide +kernel

theorem test_witness_CloisterGrantsAndAnswers :
    let s := hbmUp up
    let q : PortRequest := { master := 8, addr := 0, write := false, beats := 16, rid := 3, enables := [], errs := [], dead := false, waited := 0 }
    let w : PortRequest := { q with write := true, beats := 1, enables := [2 ^ 64 - 1] }
    let out : PortRequest := { q with addr := 2 ^ 36 }
    let r : Req := { master := 10, addr := 64, write := false, beats := 2, rid := 7 }
    let answer : State := { s with cl := { s.cl with issued := [r] }, gl := { s.gl with bad := [3] } }
    let forced : State := { s with gl := { s.gl with forced := [3] } }
    (s.held = false ∧ s.rd F.BELV_TS_CFG.EN 0 = 0 ∧ s.cl.panic = [] ∧ ∀ i, i < 4 → ([0, 0, 0, 0] : List Nat).getD i 0 < s.rd F.GLH_PANIC_CFG.ON i) ∧
    let pass : State := { s with gl := { s.gl with scrubPos := (List.range 4).map fun g => (g, pchBeats) } }
    (forcedAt s 0 = none ∧ presented s 0 q = true ∧ inRegion s q.addr (64 * q.beats) = true ∧ heldBack s q = false ∧ rungOfMaster q.master ≤ 2) ∧
    (presented s 0 w = true ∧ stackDead s w.addr = false ∧ ∀ i, i < 2 * w.beats → enablesOf w i = 2 ^ 32 - 1) ∧
    (presented s 65 { q with master := 10 } = true ∧ presented s 64 { q with master := 0 } = true) ∧
    (presented pass 0 q = true ∧ inRegion pass q.addr (64 * q.beats) = true) ∧
    (presented pass 0 out = true ∧ inRegion pass out.addr (64 * out.beats) = false ∧ forcedAt pass 0 = none ∧ ∀ first, scrubNext pass 0 first = none) ∧
    ((scrubNext s 63 true <|> scrubNext s 63 false) = some 252 ∧ forcedAt s 63 = none) ∧ forcedAt forced 0 = some 3 ∧
    (oldestRead s.cl.discard 10 7 = none ∧ oldestRead answer.cl.issued 10 7 = some r ∧ stackDead answer r.addr = false ∧ readBad answer r [0, 0, 0, 0] = [1]) ∧
    (∀ i, i < 2 * r.beats → ([] : List Nat).getD i 0 = 0 ∧ r.addr / 32 + i ∉ s.gl.bad) ∧ oldestRead [r] 10 7 = some r ∧
    (s.hostReaches ∧ bit (0x401 : Word).toNat 0 = true ∧ (∀ c, c < 32 → getJob s c = none) ∧ bit (0x401 : Word).toNat 10 = true ∧
      (dpIn dpRUNNING).dpStopped = false ∧ bit (0x2 : Word).toNat 1 = true) := by
  unfold State.hostReaches; decide +kernel

theorem test_witness_BelvedereCountsTracesAndScans :
    let s := hbmUp up
    let on := State.put s [(F.BELV_TS_CFG.EN, 0, 1)]
    let scan := State.put s [(F.YG_LANE_STATUS.STATE, 63, laneUP), (F.BELV_EYE_STATUS.STATE, 62, 1)]
    let v := (0x040A0000 : Word).toNat
    s.hostReaches ∧ selOk (bits (0x80000000 : Word).toNat 30 2) (bits (0x80000000 : Word).toNat 0 24) = true ∧
    selOk (bits (0xC0000000 : Word).toNat 30 2) (bits (0xC0000000 : Word).toNat 0 24) = false ∧ selOk 2 140 = true ∧ selOk 2 141 = false ∧
    selOk 1 (F.PR_INVALID.COUNT.addr / 4) = true ∧ (s.rd F.BELV_TS_CFG.EN 0 = 0 ∧ regionSize s 0 ≠ 0 ∧ regionSize s 0 ≤ 2 ^ 30) ∧
    regionSize s 1 = 0 ∧ (on.rd F.BELV_TS_CFG.EN 0 = 1 ∧ traceRegionOk on (traceRegion on) = true) ∧
    (bits v 26 2 ≠ 3 ∧ bits v 16 5 ≠ 31 ∧ bits v 0 7 ≠ 64) ∧ (scan.hostReaches ∧ eyeRunning scan 63 = false ∧ laneState scan 63 = laneUP) ∧
    (eyeRunning scan 0 = false ∧ laneState scan 0 ≠ laneUP) ∧ eyeRunning scan 62 = true := by
  unfold State.hostReaches; decide +kernel

theorem test_witness_SmbusAnswers :
    let s := State.put up [(F.LODGE_STATUS.COVERAGE, 0, 0x30), (F.BELV_ALERT_STATUS.STATUS, 0, 1)]
    let off := F.BELV_SMB_REJECT.COUNT.addr
    s.held = false ∧ s.glob.mgmtBusy = false ∧ s.coverageSettled ∧ alertAsserted s = true ∧ alertAsserted up = false ∧
    s.rd F.BELV_SMB_CFG.PEC_REQ 0 = 1 ∧ isDecoded s off = true ∧ msixOffset off = false ∧ isHi off = false ∧ isLo off = false ∧
    copyAt F.ETH_TSQ_NS.NS off = none ∧ ({ up with glob := { up.glob with mgmtBusy := true } } : State).glob.mgmtBusy = true := by
  unfold State.coverageSettled; decide +kernel

theorem test_witness_TestLogicShifts :
    ({ base with tap := { base.tap with state := .shiftDr } } : State).tap.state = .shiftDr ∧ tapBypass base = true ∧ tapNext true .exit1Ir = .updateIr := by decide

/-- The next state of a command has a property. -/
def leaves (c : Instr) (s : State) (p : State → Bool) : Bool := match exec c s with | .next t => p t | _ => false

-- Chapter 0, "Tables, timing and pseudocode": the examples of rne, sat_sym and sat.
theorem test_rounding : rne 6 2 = 2 ∧ rne 10 2 = 2 ∧ rne (-6) 2 = -2 ∧ satSym (-130) 8 = -127 ∧ sat (-130) 8 = -128 := by decide

-- Chapter 7: baseline (1,000, 3,000) lies in block 4,402, cell (8, 24), at index 4,502,500.
theorem test_baseline_block : blockZ 4402 = 93 ∧ blockY 4402 = 31 ∧ (committedCells 4402).contains (32 * 8 + 24, 4502500) = true := by decide +kernel

-- Chapter 17, "Worked example: one commit column".
theorem test_commit_column : pchOf 5808529120 = 210 ∧ stackOf 5808529120 = 2 ∧ pchAddr 5808529120 = 22691552 := by decide

-- Chapter 14, the example under R306: CSI 97,703,936 of the 8-bit maximum, and a target 1 ns later.
theorem test_anchor_time :
    let s := base.tbWrite 15 0 0 0 (leBytes 8 0 ++ leBytes 8 1800000000 ++ leBytes 4 0 ++ leBytes 2 0 ++ leBytes 2 1 ++ leBytes 6 25000000 ++ leBytes 2 24)
    timeOf s 97703936 = (1800000093 * secUnits + 795778560 * nsUnits : Nat) ∧
    indexOf s (1800000093 * secUnits + 795778561 * nsUnits : Nat) = 97703937 := by decide +kernel

-- Chapter 4, the example of the duplicate filter: entry 9, h = 1,000, and five arrivals.
theorem test_duplicate_filter :
    let s0 : State := { up with yg := { up.yg with filters := [(9, { established := true, h := 1000, seen := [(1000, 3)] })] } }
    let cell := fun n => parseCell (cellOf 0 7 2 0 1 512 n).bytes
    let r1 := dupFilter s0 9 (cell 1001) 2
    let r2 := dupFilter r1.2 9 (cell 1001) 3
    let r3 := dupFilter r2.2 9 (cell 1003) 3
    let r4 := dupFilter r3.2 9 (cell 1002) 2
    let r5 := dupFilter r4.2 9 (cell 1003) 2
    (r1.1 = true ∧ r2.1 = false ∧ r3.1 = true ∧ r4.1 = true ∧ r5.1 = false) ∧ (getFilter r1.2 9).h = 1001 ∧ (getFilter r5.2 9).h = 1003 := by decide +kernel

-- Chapter 18, the worked example of an eye scan: DWELL = 10 takes 20.738 µs, to the nanosecond.
theorem test_eye_scan_time : (eyeDue (State.put up [(F.BELV_EYE_CTL.DWELL, 17, 10)]) 17 + nsUnits / 2) / nsUnits = 20738 := by decide +kernel

-- R86: the check value of the header CRC over "123456789".
theorem test_crc16 : crc16 [0x31, 0x32, 0x33, 0x34, 0x35, 0x36, 0x37, 0x38, 0x39] = 0x29B1 := by decide +kernel

-- The check value of CRC-32 (IEEE 802.3), which R86 names, over "123456789".
theorem test_crc32 : crc32 [0x31, 0x32, 0x33, 0x34, 0x35, 0x36, 0x37, 0x38, 0x39] = 0xCBF43926 := by decide +kernel

-- R420: the trip circuit latches at 105 °C and not at 104 °C.
theorem test_therm_trip : leaves (.thermTrip 3 105) State.reset (fun t => t.pins.thermTrip) = true ∧
    leaves (.thermTrip 3 104) State.reset (fun t => t.pins.thermTrip) = false := by decide +kernel

-- R15, Table 16-13: a write with two byte enables writes nothing and sets KIOSK_ERR.PARTIAL_WR.
theorem test_partial_write : leaves (.registerWrite F.BELV_ALERT_MASK.MASK.addr 0 3 false) up
    (fun t => bit (t.rd F.KIOSK_ERR.BITS 0) Err.KIOSK.PARTIAL_WR && decide (t.rd F.BELV_ALERT_MASK.MASK 0 = 0x3F)) = true := by decide +kernel

-- R18: a counter of access RC is cleared by the read that answers with it.
theorem test_rc_read : leaves (.rcRead ⟨F.BELV_SMB_REJECT.COUNT.addr, 4⟩) (State.put up [(F.BELV_SMB_REJECT.COUNT, 0, 5)])
    (fun t => decide (t.out = [.readData 5] ∧ t.rd F.BELV_SMB_REJECT.COUNT 0 = 0)) = true := by decide +kernel

-- R387, R388: a changed selection clears its counter.
theorem test_selection_clears : leaves (.cntSelWrite 1023 0x80000000) (State.put up [(F.BELV_CNT.VALUE, 1023, 9), (F.BELV_CNT.VALUE, 0, 9)])
    (fun t => decide (t.rd F.BELV_CNT.VALUE 1023 = 0 ∧ t.rd F.BELV_CNT.VALUE 0 = 9)) = true := by decide +kernel

-- R378, R379: a real-time port in panic goes before the turn of its rung.
theorem test_panic_first :
    let q : PortRequest := { master := 1, addr := 0, write := false, beats := 1, rid := 0, enables := [], errs := [], dead := false, waited := 0 }
    leaves (.cloisterGrant 0 [q, { q with master := 3 }] [] [0, 0, 64, 0] [0, 0, 0, 0] false) (hbmUp up) (fun t => decide (t.out = [.grant 0 3 0])) = true ∧
    leaves (.cloisterGrant 0 [q, { q with master := 3 }] [] [0, 0, 0, 0] [0, 0, 0, 0] false) (hbmUp up) (fun t => decide (t.out = [.grant 0 1 0])) = true := by
  decide +kernel

-- R347: a NOP completes with status 0 and its TAG.
theorem test_nop : leaves (.nop (record 64 [(4, 4, 0x1234)])) (cmd up)
    (fun t => t.out.any fun o => match o with | .hostWrite 0 l => decide (leAt l 0 1 = 0 ∧ leAt l 4 4 = 0x1234) | _ => false) = true := by decide +kernel

-- R350: a LOAD_REGION whose one beat is answered with it writes its 64 bytes and completes.
theorem test_load_region : leaves (.loadRegion (regionDesc 3 0x1000 64) [⟨0, none, List.replicate 64 0x5A⟩]) (cmd (hbmUp up))
    (fun t => decide (t.hbmRead 0x1000 64 = List.replicate 64 0x5A ∧ t.ko.cmds = [] ∧ getJob t 15 = none)) = true := by decide +kernel

-- R373: a refresh is postponed in panic four times and then forced.
theorem test_refresh_forced :
    let s : State := { hbmUp up with cl := { up.cl with panic := [0] }, gl := { up.gl with postponed := [(2, 3)] } }
    let last : State := { s with gl := { s.gl with postponed := [(2, 4)] } }
    leaves (.hbmRefresh 2 true) s (fun t => decide (Tab.getD t.gl.postponed 2 0 = 4 ∧ t.gl.forced = [])) = true ∧
    leaves (.hbmRefresh 2 true) last (fun t => decide (t.gl.forced = [2] ∧ t.rd F.GLH_REFRESH_FORCED.COUNT 0 = 1)) = true := by decide +kernel

-- R421: five clocks of TCK with TMS high reset the test logic from Shift-IR; BYPASS is one bit long.
theorem test_tap : tapNext true (tapNext true (tapNext true (tapNext true (tapNext true .shiftIr)))) = .testLogicReset ∧
    leaves (.tapClock false true) { base with tap := { base.tap with state := .captureDr } } (fun t => decide (t.tap.shift = [false])) = true := by decide +kernel

-- Operands that cannot arrive from outside the part are refused, one for each check.
theorem test_wf_lengths :
    [Instr.supplyMeasure [750], .temperatureSample [20] (List.replicate 8 20), .temperatureSample (List.replicate 8 20) [], .indexPoll [0], .nop [],
     .loadTable [] [], .readTable [] [], .loadRegion [] [], .readRegion [] [], .commitEpoch [], .commitEpochStart [], .commitEpochStop [],
     .commitEpochCancel [], .dumpNow [], .descriptorFetch 0 [] true, .adaptDone 0 0 0 [1], .codewordDecode 0 0 [0] ⟨0, List.replicate 12 0⟩,
     .codewordDecode 0 0 (List.replicate 2720 0) ⟨0, []⟩, .ethFrameReceive 0 [1] ⟨true, 0, 0⟩, .hbmScrubAccess [0], .ppmUpdate [0],
     .rcRead ⟨0, 0⟩, .cloisterGrant 0 [] [] [0] [0, 0, 0, 0] true].all (fun c => !c.wf) = true := by decide +kernel

theorem test_wf_ranges :
    let q : PortRequest := { master := 1, addr := 0, write := false, beats := 1, rid := 0, enables := [], errs := [], dead := false, waited := 0 }
    let f : PavFault := { pav := 136, cell := 0, kind := .checker }
    let cfg : PciCfg := { bme := true, mps := 2, mrrs := 5, relaxed := true, msixEn := true, msixMask := false }
    [Instr.perstRelease 6 16 cfg, .perstRelease 5 3 cfg, .perstRelease 5 16 { cfg with mps := 3 }, .functionLevelReset { cfg with mrrs := 6 }, .pcieLinkUp 0 1, .supplyMeasure (List.replicate 8 65536),
     .temperatureSample (List.replicate 8 128) (List.replicate 8 0), .temperatureSample (List.replicate 8 0) (List.replicate 8 (-129)), .thermTrip 0 128,
     .registerWrite 0x4000000 0 15 false, .registerWrite 0 0 16 false, .rcRead ⟨0x4000000, 4⟩, .loReadCapture 2, .loReadCapture 0x4000000, .loWriteHold 1 0,
     .hiWriteCombine 3 0, .errW1cClear 1 0, .bar2CounterRead 0x1000000 true, .indexPoll (List.replicate 12 (2 ^ 32)), .ppsEdge 0 ⟨32768000000001, 100⟩, .dmaBeatResponse 0 0 none (List.replicate 65 0) [] [],
     .refFreqMeasure 0 (2 ^ 31), .sramScrub 0 0 true, .sramScrub 9 0 true, .cdrLock 0 32768, .adaptDone 0 16 0 (List.replicate 12 0),
     .adaptDone 0 0 256 (List.replicate 12 0), .adaptDone 0 0 0 (List.replicate 12 128), .txeqRequestEval 0 (some (16, 0)), .txeqRequestEval 0 (some (0, 16)),
     .tstatReceive 0 0 16 0 0, .tstatReceive 0 0 0 16 0, .codewordDecode 0 0 (List.replicate 2720 4) ⟨0, List.replicate 12 0⟩,
     .codewordDecode 0 0 (List.replicate 2720 0) ⟨256, List.replicate 12 0⟩, .codewordDecode 0 0 (List.replicate 2720 0) ⟨0, List.replicate 12 128⟩, .fetchComplete [128],
     .blockSlotBegin ⟨[f], []⟩, .blockSlotBegin ⟨[], [(136, 1)]⟩, .tailStream ⟨[{ f with pav := 0, cell := 1024 }], []⟩, .commitImage [1024] [] true, .commitImage [] [1024] true,
     .trellisDeadline 0 8192 0, .glhInitComplete 256, .cloisterGrant 0 [{ q with master := 11 }] [] [0, 0, 0, 0] [0, 0, 0, 0] true,
     .cloisterGrant 0 [{ q with beats := 17 }] [] [0, 0, 0, 0] [0, 0, 0, 0] true, .cloisterGrant 0 [{ q with beats := 0 }] [] [0, 0, 0, 0] [0, 0, 0, 0] true,
     .cloisterGrant 0 [{ q with write := true }] [] [0, 0, 0, 0] [0, 0, 0, 0] true, .cloisterGrant 0 [q] [] [65, 0, 0, 0] [0, 0, 0, 0] true,
     .hbmReadResponse 0 0 [] (2 ^ 32) true, .smbAlertClear 65536 none, .smbAlertMask (some 65536) none, .smbDataReset 256 none, .smbMgmtReset 256 none,
     .smbRegRead (2 ^ 32), .ppmUpdate (List.replicate 64 32768)].all (fun c => !c.wf) = true := by decide +kernel

theorem test_wf_accepts : [Instr.nop (record 64 []), .perstRelease 5 16 up.ko.pci, .registerWrite 0x3FFFFFF 0 15 false, .sramScrub 8 0 true,
    .descriptorFetch 0 [] false, .smbAlertMask none none].all Instr.wf = true := by decide +kernel

end Sys2Proof.Tests
end

section
/-! PROOFS. The plainest statements: the step, the state after reset, and the register map as a whole. -/
namespace Sys2Proof.Machine

/-- Settles O1: the queue names the arm of the step. -/
theorem stepRunsTheFrontCommand : Obligations.StepRunsTheFrontCommand := by
  unfold Obligations.StepRunsTheFrontCommand
  intro s c q hq
  rw [step, hq]

/-- After reset nothing is listed in the register file, so every field reads its reset value. -/
theorem State.reset_rd (f : Fld) (k : Nat) : State.reset.rd f k = f.rst k := rfl

/-- Settles O3: an empty register file reads as the reset column of the tables. -/
theorem resetState : Obligations.ResetState := by
  unfold Obligations.ResetState
  exact ⟨fun _ _ => ⟨rfl, rfl⟩, State.reset_rd _ _, fun _ => ⟨State.reset_rd _ _, State.reset_rd _ _⟩, State.reset_rd _ _,
    rfl, rfl, rfl, rfl, rfl, rfl, rfl⟩

def RegMap.blocks : List (Nat × Nat × List Fld) :=
  [(0x0, 0x100000, RegMap.global), (0x100000, 0x200000, RegMap.kiosk), (0x200000, 0x300000, RegMap.dma),
   (0x300000, 0x400000, RegMap.cloister), (0x400000, 0x800000, RegMap.glasshouse), (0x800000, 0xa00000, RegMap.yargil),
   (0xa00000, 0xc00000, RegMap.gatehouse), (0xc00000, 0x1000000, RegMap.prism), (0x1000000, 0x1800000, RegMap.pavilion),
   (0x1800000, 0x1c00000, RegMap.accum ++ RegMap.portico), (0x1c00000, 0x2000000, RegMap.lens), (0x2000000, 0x2400000, RegMap.eyepiece),
   (0x2400000, 0x2800000, RegMap.trellis), (0x2800000, 0x2c00000, RegMap.eth ++ RegMap.tsu), (0x2c00000, 0x3000000, RegMap.sundial),
   (0x3000000, 0x3400000, RegMap.lodge), (0x3400000, 0x3800000, RegMap.belvedere), (0x3800000, 0x3c00000, RegMap.power),
   (0x3c00000, 0x4000000, RegMap.fuse)]

/-- The blocks hold the fields of the register map, and no others. -/
theorem RegMap.blocks_flatMap : RegMap.blocks.flatMap (fun b => b.2.2) = allFlds := by
  delta RegMap.blocks allFlds
  simp only [List.flatMap_cons, List.flatMap_nil, List.append_nil, List.append_assoc]

theorem RegMap.mem_allFlds_iff {f : Fld} : f ∈ allFlds ↔ ∃ b ∈ RegMap.blocks, f ∈ b.2.2 := by
  rw [← RegMap.blocks_flatMap, List.mem_flatMap]

/-- An offset within the bounds of a block decodes in that block. -/
theorem RegMap.regBlock_block (off : Nat) : ∀ b ∈ RegMap.blocks, b.1 ≤ off → off < b.2.1 → regBlock off = b.2.2 := by
  simp only [RegMap.blocks, List.forall_mem_cons, List.not_mem_nil, false_implies, implies_true, and_true]
  unfold regBlock
  refine ⟨?_, ?_, ?_, ?_, ?_, ?_, ?_, ?_, ?_, ?_, ?_, ?_, ?_, ?_, ?_, ?_, ?_, ?_, ?_⟩
  all_goals
    intro hl hh
    repeat rw [if_neg (by omega)]
    rw [if_pos (by omega)]

/-- The block of an offset holds fields of the register map only. -/
theorem RegMap.regBlock_subset (off : Nat) : regBlock off ⊆ allFlds := by
  have hite : ∀ {c : Prop} [Decidable c] {a b : List Fld}, a ⊆ allFlds → b ⊆ allFlds → (if c then a else b) ⊆ allFlds :=
    fun {c} _ {a b} ha hb => by split <;> assumption
  have hs : ∀ b ∈ RegMap.blocks, b.2.2 ⊆ allFlds := fun b hb f hf => RegMap.mem_allFlds_iff.mpr ⟨b, hb, hf⟩
  simp only [RegMap.blocks, List.forall_mem_cons, List.not_mem_nil, false_implies, implies_true, and_true] at hs
  unfold regBlock
  repeat' refine hite ?_ ?_
  all_goals simp only [hs, List.nil_subset]

/-- A field with one copy has no stride, and every copy of a field lies in its block, with room behind it for a _HI register. -/
theorem RegMap.blocks_bounds : (RegMap.blocks.all fun b => b.2.2.all fun f =>
    f.sized && (decide (b.1 ≤ f.addr) && decide (f.addr + f.stride * (f.count - 1) + 4 < b.2.1))) = true := by decide +kernel

/-- Two fields that share no bit of one register. -/
def Fld.bitsApart (f g : Fld) : Bool := decide (f.lo + f.width ≤ g.lo) || decide (g.lo + g.width ≤ f.lo)

/-- In each block a field lies in other bits than every later field of its register, and away from every other later register. -/
theorem RegMap.blocks_apart : (RegMap.blocks.all fun b =>
    decide (b.2.2.Pairwise fun f g => (f.far 0 g || f.same g && f.bitsApart g) = true)) = true := by decide +kernel

/-- In each block no register lies where the _HI register of a 64-bit quantity does. -/
theorem RegMap.blocks_hiClear : (RegMap.blocks.all fun b => (b.2.2.filter Fld.wide).all fun f => b.2.2.all fun g =>
    g.far 4 f && (decide (4 ≤ g.addr) || decide (g.addr = 0 ∧ g.stride = 0))) = true := by decide +kernel

/-- The ids of the fields count the register map. -/
theorem RegMap.allFlds_ids : allFlds.map Fld.id = List.range 639 := by decide +kernel

/-- A field of the register map is known by its id. -/
theorem RegMap.eq_of_id {f g : Fld} (hf : f ∈ allFlds) (hg : g ∈ allFlds) (h : f.id = g.id) : f = g :=
  List.inj_on_of_nodup_map (RegMap.allFlds_ids ▸ List.nodup_range) hf hg h

/-- A copy that lies at an offset is one of the field's copies, and the offset is its address. -/
theorem copyAt_some {f : Fld} {off i : Nat} (h : copyAt f off = some i) :
    off = f.addr + f.stride * i ∧ (f.stride ≠ 0 → i < f.count) ∧ (f.stride = 0 → i = 0) := by
  unfold copyAt at h
  split at h
  · cases h
  · split at h
    · rename_i h0
      split at h
      · cases h; simp_all
      · cases h
    · rename_i hlt h0
      split at h
      · rename_i hm
        cases h
        have := Nat.div_add_mod (off - f.addr) f.stride
        exact ⟨by omega, fun _ => hm.2, fun hz => absurd hz h0⟩
      · cases h

theorem copyAt_count {f : Fld} (hs : f.sized = true) {off i : Nat} (h : copyAt f off = some i) :
    off = f.addr + f.stride * i ∧ i < f.count := by
  obtain ⟨ho, hi, h0⟩ := copyAt_some h
  simp only [Fld.sized, Bool.or_eq_true, decide_eq_true_eq] at hs
  refine ⟨ho, ?_⟩
  by_cases hz : f.stride = 0
  · have := h0 hz; omega
  · exact hi hz

/-- A field with a copy at an offset is a field of the offset's block, and of that of its _HI register. -/
theorem RegMap.block_of_copyAt {f : Fld} {off i : Nat} (hf : f ∈ allFlds) (h : copyAt f off = some i) :
    ∃ b ∈ RegMap.blocks, f ∈ b.2.2 ∧ f.sized = true ∧ b.1 ≤ off ∧ off + 4 < b.2.1 := by
  obtain ⟨b, hb, hfb⟩ := RegMap.mem_allFlds_iff.mp hf
  have hx := List.all_eq_true.mp (List.all_eq_true.mp RegMap.blocks_bounds b hb) f hfb
  simp only [Bool.and_eq_true, decide_eq_true_eq] at hx
  obtain ⟨hs, hlo, hhi⟩ := hx
  obtain ⟨ho, hi⟩ := copyAt_count hs h
  have hm : f.stride * i ≤ f.stride * (f.count - 1) := Nat.mul_le_mul_left _ (by omega)
  exact ⟨b, hb, hfb, hs, by omega, by omega⟩

theorem RegMap.mem_regBlock {f : Fld} {off i : Nat} (hf : f ∈ allFlds) (h : copyAt f off = some i) : f ∈ regBlock off := by
  obtain ⟨b, hb, hfb, -, hlo, hhi⟩ := RegMap.block_of_copyAt hf h
  rwa [RegMap.regBlock_block off b hb hlo (by omega)]

/-- Where two fields have copies at one offset, they are the same copy of one register, and are one field or share no bit. -/
def Fld.Clear (f g : Fld) : Prop :=
  ∀ off i j, copyAt f off = some i → copyAt g off = some j → i = j ∧ (f.id = g.id ∨ f.bitsApart g = true)

theorem Fld.Clear.symm {f g : Fld} (h : f.Clear g) : g.Clear f := fun off i j hf hg => by
  obtain ⟨he, hb⟩ := h off j i hg hf
  refine ⟨he.symm, hb.imp Eq.symm fun hb => ?_⟩
  simpa [Fld.bitsApart, or_comm] using hb

theorem Fld.Clear.refl (f : Fld) : f.Clear f := fun _ _ _ hi hj => ⟨Option.some.inj (hi.symm.trans hj), Or.inl rfl⟩

/-- Registers apart have no copies at one offset, and fields of one register have the same ones. -/
theorem Fld.clear_of_apart {f g : Fld} (hs : f.sized = true) (h : (f.far 0 g || f.same g && f.bitsApart g) = true) : f.Clear g := by
  intro off i j hi hj
  obtain ⟨rfl, hk⟩ := copyAt_count hs hi
  simp only [Bool.or_eq_true, Bool.and_eq_true] at h
  rcases h with hfar | ⟨hsame, hb⟩
  · have hn := copyAt_far 0 f g i hk (Nat.zero_le _) hfar
    rw [Nat.sub_zero, hj] at hn
    cases hn
  · rw [copyAt_same f g i hk hs hsame] at hj
    exact ⟨Option.some.inj hj, Or.inr hb⟩

/-- Two fields of one block are clear of each other. -/
theorem RegMap.clear_of_block {b : Nat × Nat × List Fld} (hb : b ∈ RegMap.blocks) : ∀ f ∈ b.2.2, ∀ g ∈ b.2.2, f.Clear g := by
  have hp := of_decide_eq_true (List.all_eq_true.mp RegMap.blocks_apart b hb)
  have hs : ∀ f ∈ b.2.2, f.sized = true := fun f hf => by
    have hx := List.all_eq_true.mp (List.all_eq_true.mp RegMap.blocks_bounds b hb) f hf
    simp only [Bool.and_eq_true] at hx
    exact hx.1
  have : Std.Symm Fld.Clear := ⟨fun _ _ => Fld.Clear.symm⟩
  have hc : b.2.2.Pairwise Fld.Clear :=
    hp.imp_of_mem fun {f g} hf _ h => Fld.clear_of_apart (hs f hf) h
  exact fun f hf g hg => List.Pairwise.forall_of_forall (fun f _ => Fld.Clear.refl f) hc hf hg

/-- The word behind a 64-bit quantity is at no other register. -/
theorem RegMap.copyAt_hi {f g : Fld} {off i : Nat} (hf : f ∈ allFlds) (hg : g ∈ allFlds) (hw : f.wide = true)
    (h : copyAt f off = some i) : copyAt g (off + 4) = none := by
  obtain ⟨b, hb, hfb, -, hlo, hhi⟩ := RegMap.block_of_copyAt hf h
  by_contra hn
  obtain ⟨j, hj⟩ := Option.ne_none_iff_exists'.mp hn
  have hgb : g ∈ b.2.2 := by
    rw [← RegMap.regBlock_block (off + 4) b hb (by omega) (by omega)]
    exact RegMap.mem_regBlock hg hj
  obtain ⟨-, -, -, hs, -, -⟩ := RegMap.block_of_copyAt hg hj
  obtain ⟨ho, hk⟩ := copyAt_count hs hj
  have hx := List.all_eq_true.mp (List.all_eq_true.mp (List.all_eq_true.mp RegMap.blocks_hiClear b hb) f
    (List.mem_filter.mpr ⟨hfb, hw⟩)) g hgb
  simp only [Bool.and_eq_true, Bool.or_eq_true, decide_eq_true_eq] at hx
  obtain ⟨hfar, h4 | ⟨ha, hz⟩⟩ := hx
  · have hc := copyAt_far 4 g f j hk h4 hfar
    rw [show g.addr + g.stride * j - 4 = off by omega, h] at hc
    cases hc
  · rw [ha, hz] at ho
    omega

/-- Settles O8: the fields at an offset are fields of one block, and in each block the map was checked. -/
theorem registerMapHasNoOverlap : Obligations.RegisterMapHasNoOverlap := by
  unfold Obligations.RegisterMapHasNoOverlap
  intro f hf g hg off i j
  refine ⟨fun hi hj => ?_, fun hw hi => RegMap.copyAt_hi hf hg hw hi⟩
  obtain ⟨b, hb, hfb, -, hlo, hhi⟩ := RegMap.block_of_copyAt hf hi
  have hgb : g ∈ b.2.2 := by
    rw [← RegMap.regBlock_block off b hb hlo (by omega)]
    exact RegMap.mem_regBlock hg hj
  simpa [Fld.bitsApart] using RegMap.clear_of_block hb f hfb g hgb off i j hi hj

end Sys2Proof.Machine
end

section
/-! PROOFS. The frame of an access of the host: it is performed, and what its effect leaves is left by the command. -/
namespace Sys2Proof.Machine

/-- An access that the host makes reaches the bus. -/
theorem run_reached {cond : State → Bool} (f : State → State) {s : State} (h : s.hostReaches) (hc : cond s = true) :
    run cond (d3Request · f) s = perform f s := by
  obtain ⟨hheld, -, hd3⟩ := h
  have hd : ({ s with out := [] } : State).rd F.KIOSK_STATUS.D3 0 ≠ 1 := by rw [State.rd_mk, State.regs_rd, hd3]; decide
  rw [run_eq _ _ _ hheld hc]
  simp only [perform, d3Request, if_neg hd]

/-- A read that the host makes is performed. -/
theorem readRow_reached {p : State → Bool} {off len : Nat} {s : State} (h : s.hostReaches) (ho : off < 0x4000000) (hp : p s = true) :
    readRow p off len s = .next (perform (busRead · off len) s) := by
  obtain ⟨-, hl, -⟩ := id h
  exact congrArg _ (run_reached _ h (by simp [hl, ho, hp]))

/-- A write of a whole word that the host makes is performed. -/
theorem writeRow_reached {p : State → Bool} {off v : Nat} {s : State} (h : s.hostReaches) (ho : off < 0x4000000) (hp : p s = true) :
    writeRow p off v s = .next (perform (busWrite · off v 15 false) s) := by
  obtain ⟨-, hl, -⟩ := id h
  exact congrArg _ (run_reached _ h (by simp [hl, ho, hp]))

/-- REGISTER_WRITE that the host makes is performed. -/
theorem registerWrite_reached {off : Nat} {data : Word} {be : Nat} {poisoned : Bool} {s : State} (h : s.hostReaches) (ho : off < 0x4000000) :
    exec (.registerWrite off data be poisoned) s = .next (perform (busWrite · off data.toNat be poisoned) s) := by
  obtain ⟨-, hl, -⟩ := id h
  exact congrArg _ (run_reached _ h (by simp [hl, ho]))

/-- Registers that the effect of a command leaves are left by the command. -/
theorem perform_sameRegs {f : State → State} {s : State} {flds : List Fld} {copies : List (Fld × Nat)}
    (h : ∀ (g : Fld) (k : Nat), (∀ e ∈ flds, e.id ≠ g.id) → (∀ e ∈ copies, (e.1.id, e.2) ≠ (g.id, k)) →
      (f { s with out := [] }).rd g k = s.rd g k) : s.SameRegs (perform f s) flds copies := by
  intro g k hf hc
  rw [perform_rd f s g k fun e he => hf e (List.mem_append_left _ he)]
  exact h g k (fun e he => hf e (List.mem_append_right _ he)) hc

/-- Units that the effect of a command leaves are left by the command. -/
theorem perform_keepsUnits {f : State → State} {s u : State} (h : u.SameUnits (f { s with out := [] })) (hp : u.pending = s.pending) :
    u.SameUnits (perform f s) := by
  refine State.SameUnits.trans ?_ (perform_sameUnits f s)
  unfold State.SameUnits at h ⊢
  rw [h, ← hp]

/-- A fold of a function that sends nothing out sends nothing out. -/
theorem foldl_out {α : Type} (f : State → α → State) (h : ∀ (s : State) a, (f s a).out = s.out) (l : List α) (s : State) :
    (l.foldl f s).out = s.out := by
  induction l generalizing s with
  | nil => rfl
  | cons a t ih => rw [List.foldl_cons, ih, h]

theorem State.SameUnits.holdRd {s t : State} (h : s.SameUnits t) : t.ko.holdRd = s.ko.holdRd := by rw [h]
theorem State.SameUnits.holdWr {s t : State} (h : s.SameUnits t) : t.ko.holdWr = s.ko.holdWr := by rw [h]
theorem State.SameUnits.aer {s t : State} (h : s.SameUnits t) : t.ko.aer = s.ko.aer := by rw [h]

/-! The views of the registers do not look at what a command sent out. -/

theorem isDecoded_out (s : State) (o : List Output) (off : Nat) : isDecoded { s with out := o } off = isDecoded s off := rfl
theorem viewReg_out (s : State) (o : List Output) (off : Nat) : viewReg { s with out := o } off = viewReg s off := rfl
theorem writeReserved_out (s : State) (o : List Output) (off v : Nat) : writeReserved { s with out := o } off v = writeReserved s off v := rfl

/-! Sticky error bits (R24). -/

/-- A bit set is set. -/
theorem bit_setBit_same (x i : Nat) : bit (setBit x i) i = true := by
  unfold setBit
  split
  · assumption
  · rename_i h
    simp only [bit, beq_iff_eq] at h ⊢
    rw [Nat.add_div_right _ (Nat.two_pow_pos i)]
    omega

/-- Setting a bit leaves every bit that is set. -/
theorem bit_setBit_of_bit (x i j : Nat) (h : bit x j = true) : bit (setBit x i) j = true := by
  unfold setBit
  split
  · exact h
  · rename_i hi
    simp only [bit, beq_iff_eq] at h hi ⊢
    rcases Nat.lt_trichotomy j i with hlt | rfl | hlt
    · obtain ⟨m, rfl⟩ := Nat.exists_eq_add_of_lt hlt
      rw [show 2 ^ (j + m + 1) = 2 ^ j * (2 * 2 ^ m) by ring, Nat.add_mul_div_left _ _ (Nat.two_pow_pos j)]
      omega
    · exact absurd h hi
    · obtain ⟨m, rfl⟩ := Nat.exists_eq_add_of_lt hlt
      rw [show 2 ^ (i + m + 1) = 2 ^ i * 2 * 2 ^ m by ring, ← Nat.div_div_eq_div_mul, ← Nat.div_div_eq_div_mul] at h ⊢
      rw [Nat.add_div_right _ (Nat.two_pow_pos i), show (x / 2 ^ i).succ / 2 = x / 2 ^ i / 2 by omega]
      exact h

/-- A number cut to w bits keeps the bits below w. -/
theorem bit_mod_two_pow {x w j : Nat} (hj : j < w) : bit (x % 2 ^ w) j = bit x j := by
  obtain ⟨m, rfl⟩ := Nat.exists_eq_add_of_lt hj
  simp only [bit]
  rw [show 2 ^ (j + m + 1) = 2 ^ j * (2 * 2 ^ m) by ring, Nat.mod_mul_right_div_self, Nat.mod_mul_right_mod]

/-- An error sets its bit. -/
theorem setErr_bit (s : State) (u : ErrUnit) (i info : Nat) (hi : i < u.bits.width) :
    bit ((setErr s u i info).rd u.bits u.k) i = true := by
  rw [setErr_bits, bit_mod_two_pow hi, bit_setBit_same]

/-- An error leaves every bit of its register that is set. -/
theorem setErr_keeps_bit (s : State) (u : ErrUnit) (i info j : Nat) (hj : j < u.bits.width) (h : bit (s.rd u.bits u.k) j = true) :
    bit ((setErr s u i info).rd u.bits u.k) j = true := by
  rw [setErr_bits, bit_mod_two_pow hj, bit_setBit_of_bit _ _ _ h]

/-- An error leaves the fields that are none of its unit's. -/
theorem setErr_rd_flds (s : State) (u : ErrUnit) (i info : Nat) (g : Fld) (k : Nat) (h : ∀ e ∈ u.flds, e.id ≠ g.id) :
    (setErr s u i info).rd g k = s.rd g k :=
  setErr_rd s u i info g k (h _ (by simp [ErrUnit.flds])) (h _ (by simp [ErrUnit.flds])) (h _ (by simp [ErrUnit.flds]))

theorem setErr_out (s : State) (u : ErrUnit) (i info : Nat) : (setErr s u i info).out = s.out := by
  unfold setErr
  dsimp only
  split <;> rfl

/-- A fault of the Lodge leaves every bit of LODGE_ERR that is set. -/
theorem lodgeErr_keeps_bit (s : State) (i info item : Nat) (args : List Nat) (j : Nat) (hj : j < F.LODGE_ERR.BITS.width)
    (h : bit (s.rd F.LODGE_ERR.BITS 0) j = true) : bit ((lodgeErr s i info item args).rd F.LODGE_ERR.BITS 0) j = true := by
  have hs : ∀ (t : State) n, (setAlert t n).rd F.LODGE_ERR.BITS 0 = t.rd F.LODGE_ERR.BITS 0 := fun t n => setAlert_rd t n _ _ (by decide)
  rw [lodgeErr, raise_rd]
  unfold lodgeBit
  rw [ite_rd (hs _ 5) rfl, ite_rd (hs _ 0) rfl]
  exact setErr_keeps_bit s Err.LODGE.unit i info j hj h

/-- The end of a command leaves every bit of LODGE_ERR that is set: a fall of coverage only adds its own. -/
theorem finish_keeps_lodge_bit (s : State) (j : Nat) (hj : j < F.LODGE_ERR.BITS.width) (h : bit (s.rd F.LODGE_ERR.BITS 0) j = true) :
    bit ((finish s).rd F.LODGE_ERR.BITS 0) j = true := by
  have hfold : ∀ (l : List Nat) (u : State), bit (u.rd F.LODGE_ERR.BITS 0) j = true →
      bit ((l.foldl coverageFall u).rd F.LODGE_ERR.BITS 0) j = true := by
    intro l
    induction l with
    | nil => exact fun _ hu => hu
    | cons c t ih =>
      refine fun u hu => ih _ ?_
      rw [coverageFall, raise_rd]
      exact lodgeErr_keeps_bit u _ _ _ _ j hj hu
  have hcov : bit ((settleCoverage s).rd F.LODGE_ERR.BITS 0) j = true := by
    unfold settleCoverage
    dsimp only
    split
    · exact h
    · refine hfold _ _ ?_
      rwa [ite_rd (setAlert_rd _ _ _ _ (by decide)) rfl, State.rd_wr_other _ _ _ _ _ _ (by decide), State.rd_wr_other _ _ _ _ _ _ (by decide)]
  unfold finish
  split
  · exact h
  · rwa [settleFirstUnit_rd _ _ _ (by decide)]

/-- The error registers are those of the units: LODGE_ERR, or one that the end of a command does not write. -/
theorem Err.lodge_or_not_end {u : ErrUnit} (hu : u ∈ Err.units) : u = Err.LODGE.unit ∨ ∀ e ∈ endFlds, e.id ≠ u.bits.id := by
  have hrest : ∀ i : Fin 22, i ≠ 19 → ∀ e ∈ endFlds, e.id ≠ (Err.units[i]'i.isLt).bits.id := by decide
  obtain ⟨i, hi, rfl⟩ := List.getElem_of_mem hu
  by_cases h19 : i = 19
  · subst h19
    exact Or.inl rfl
  · exact Or.inr (hrest ⟨i, hi⟩ fun h => h19 (congrArg Fin.val h))

/-- An error bit that the effect of a command set is set after the command. -/
theorem perform_errBit {f : State → State} {s : State} {u : ErrUnit} (hu : u ∈ Err.units) {j : Nat} (hj : j < u.bits.width)
    (h : bit ((f { s with out := [] }).rd u.bits u.k) j = true) : bit ((perform f s).rd u.bits u.k) j = true := by
  rcases Err.lodge_or_not_end hu with rfl | hend
  · exact finish_keeps_lodge_bit _ j hj h
  · rwa [perform_rd f s _ _ hend]

end Sys2Proof.Machine
end

section
/-! PROOFS. Reads of the register bus (R15, R16, R18, R382). -/
namespace Sys2Proof.Machine

/-- A read within one word touches that word alone. -/
theorem wordsTouched_one {a len : Nat} (ha : a < 0x4000000) (hl : 0 < len) (hw : a % 4 + len ≤ 4) : wordsTouched a len = [a / 4 * 4] := by
  have h1 : (a % 4 + len + 3) / 4 = 1 := by omega
  have h2 : a / 4 * 4 < 0x4000000 := by omega
  rw [wordsTouched, h1]
  simp [h2]

/-- A read of 8 bytes from a word touches it and the next. -/
theorem wordsTouched_two {off : Nat} (hm : off % 4 = 0) (ho : off + 4 < 0x4000000) : wordsTouched off 8 = [off, off + 4] := by
  have h1 : (off % 4 + 8 + 3) / 4 = 2 := by omega
  have h2 : (off / 4 + 0) * 4 = off := by omega
  have h3 : (off / 4 + 1) * 4 = off + 4 := by omega
  have h4 : off < 0x4000000 := by omega
  rw [wordsTouched, h1]
  simp only [List.range_succ, List.range_zero, List.nil_append, List.cons_append, List.map_cons, List.map_nil, h2, h3]
  simp [ho, h4]

/-- The register that the read of a word falls to, one lemma for each kind. -/
theorem busReadWord_undecoded {s : State} {off : Nat} (smb : Bool) (hd : isDecoded s off = false) :
    busReadWord s smb off = (0, decodeError s off) := by simp [busReadWord, hd]

theorem busReadWord_hi {s : State} {off : Nat} (smb : Bool) (hd : isDecoded s off = true) (hm : msixOffset off = false)
    (ht : timeSecOffset off = false) (hh : isHi off = true) : busReadWord s smb off = readHi s smb off := by
  simp [busReadWord, hd, hm, ht, hh]

theorem busReadWord_lo {s : State} {off : Nat} (smb : Bool) (hd : isDecoded s off = true) (hm : msixOffset off = false)
    (ht : timeSecOffset off = false) (hh : isHi off = false) (hl : isLo off = true) : busReadWord s smb off = readLo s smb off := by
  simp [busReadWord, hd, hm, ht, hh, hl]

/-- SD_TIME_SEC is a 64-bit quantity. -/
theorem timeSecOffset_false {off : Nat} (hh : isHi off = false) (hl : isLo off = false) : timeSecOffset off = false := by
  simp only [timeSecOffset, Bool.or_eq_false_iff, decide_eq_false_iff_not]
  refine ⟨?_, ?_⟩
  · rintro rfl
    exact absurd hl (by decide)
  · rintro rfl
    exact absurd hh (by decide)

theorem busReadWord_plain {s : State} {off : Nat} (smb : Bool) (hd : isDecoded s off = true) (hm : msixOffset off = false)
    (hh : isHi off = false) (hl : isLo off = false) : busReadWord s smb off = readPlain s off := by
  simp [busReadWord, hd, hm, timeSecOffset_false hh hl, hh, hl]

/-- A register that no read latches or steps answers with its fields, and its RC fields are cleared. -/
theorem readPlain_view {s : State} {off : Nat} (h1 : off ≠ F.SD_TIME_NS.NS.addr) (h2 : off ≠ F.SD_CAPQ_NS.NS.addr)
    (h3 : off ≠ F.FC_WIN_DATA.DATA.addr) (h4 : copyAt F.ETH_TSQ_NS.NS off = none) :
    readPlain s off = (viewReg s off, (fieldsAt off).foldl clearRc s) := by
  rw [readPlain, if_neg h1, if_neg h2, if_neg h3, h4]

/-- A read command of the host that touches one word. -/
theorem busRead_one {s : State} {a len off : Nat} (h : wordsTouched a len = [off]) :
    busRead s a len = (busReadWord s false off).2.emit (.readData (busReadWord s false off).1) := by
  rw [busRead, h]
  rfl

/-! Clearing on read. -/

theorem clearRc_sameUnits (s : State) (e : Fld × Nat) : s.SameUnits (clearRc s e) :=
  ite_sameUnits (State.wr_sameUnits _ _ _ _) (State.SameUnits.refl s)

theorem clearRc_out (s : State) (e : Fld × Nat) : (clearRc s e).out = s.out := by
  unfold clearRc
  split <;> rfl

/-- Clearing an RC field leaves every other copy and field. -/
theorem clearRc_rd_other (s : State) (e : Fld × Nat) (g : Fld) (k : Nat) (h : e.1.acc = .RC → (e.1.id, e.2) ≠ (g.id, k)) :
    (clearRc s e).rd g k = s.rd g k := by
  unfold clearRc
  split
  · rename_i hrc
    rw [State.rd_wr, if_neg fun hc => h hrc (Prod.ext hc.1 hc.2)]
  · rfl

theorem foldl_clearRc_rd_other (l : List (Fld × Nat)) (s : State) (g : Fld) (k : Nat)
    (h : ∀ e ∈ l, e.1.acc = .RC → (e.1.id, e.2) ≠ (g.id, k)) : (l.foldl clearRc s).rd g k = s.rd g k := by
  induction l generalizing s with
  | nil => rfl
  | cons e t ih =>
    rw [List.foldl_cons, ih _ fun e he => h e (List.mem_cons_of_mem _ he), clearRc_rd_other _ _ _ _ (h e List.mem_cons_self)]

/-- A list of fields known by their ids leaves each of its RC fields at the reset value. -/
theorem foldl_clearRc_rd (l : List (Fld × Nat)) (s : State) (e : Fld × Nat) (he : e ∈ l) (hrc : e.1.acc = .RC)
    (hid : ∀ d ∈ l, d.1.id = e.1.id → d.1 = e.1) : (l.foldl clearRc s).rd e.1 e.2 = e.1.rst e.2 % 2 ^ e.1.width := by
  induction l generalizing s with
  | nil => cases he
  | cons d t ih =>
    have hidt : ∀ d ∈ t, d.1.id = e.1.id → d.1 = e.1 := fun d hd => hid d (List.mem_cons_of_mem _ hd)
    rw [List.foldl_cons]
    by_cases ht : e ∈ t
    · exact ih _ ht hidt
    · obtain rfl : e = d := (List.mem_cons.mp he).resolve_right ht
      rw [foldl_clearRc_rd_other, clearRc, if_pos hrc, State.rd_wr_same]
      intro d hd _ hkey
      obtain ⟨hi, hk⟩ := Prod.mk.inj hkey
      exact ht (Prod.ext (hidt d hd hi) hk ▸ hd)

/-- The end of a command writes no RC field. -/
theorem RegMap.rc_not_end {f : Fld} (hf : f ∈ allFlds) (hrc : f.acc = .RC) : ∀ e ∈ endFlds, e.id ≠ f.id := by
  have h : (allFlds.all fun f => decide (f.acc = .RC → ∀ e ∈ endFlds, e.id ≠ f.id)) = true := by decide +kernel
  exact of_decide_eq_true (List.all_eq_true.mp h f hf) hrc

/-- The fields at an offset are fields of the register map. -/
theorem RegMap.mem_of_fieldsAt {off : Nat} {e : Fld × Nat} (he : e ∈ fieldsAt off) : e.1 ∈ allFlds := by
  obtain ⟨f, hf, h⟩ := List.mem_filterMap.mp he
  obtain ⟨k, -, rfl⟩ := Option.map_eq_some_iff.mp h
  exact RegMap.regBlock_subset off hf

/-! A decode error (R382). -/

theorem decodeError_sameUnits (s : State) (off : Nat) : s.SameUnits (decodeError s off) :=
  ((setErr_sameUnits s _ _ _).trans (bump_sameUnits _ _ _ _)).trans (State.wr_sameUnits _ _ _ _)

theorem cntAdd_out (s : State) (k n : Nat) : (cntAdd s k n).out = s.out := by
  unfold cntAdd
  dsimp only
  split <;> rfl

/-- A count sends nothing out. -/
theorem bump_out (s : State) (f : Fld) (k n : Nat) : (bump s f k n).out = s.out := by
  unfold bump belvAdd
  split
  · rfl
  · refine foldl_out _ (fun u c => ?_) _ _
    split
    · exact cntAdd_out u c n
    · rfl

theorem decodeError_out (s : State) (off : Nat) : (decodeError s off).out = s.out := (bump_out _ _ _ _).trans (setErr_out _ _ _ _)

/-- A decode error leaves every field but its own, the fabric's error fields and Belvedere's counters. -/
theorem decodeError_rd_other (s : State) (off : Nat) (g : Fld) (k : Nat)
    (h : ∀ e ∈ F.CL_REG_ADDR.OFFSET :: F.CL_REG_DECODE.COUNT :: Err.CL.unit.flds ++ cntFlds, e.id ≠ g.id) :
    (decodeError s off).rd g k = s.rd g k := by
  simp only [List.cons_append, List.forall_mem_cons, List.forall_mem_append] at h
  obtain ⟨haddr, hcount, herr, hcnt⟩ := h
  rw [decodeError, State.rd_wr_other _ _ _ _ _ _ haddr, bump_rd _ _ _ _ _ _ hcount hcnt, setErr_rd_flds _ _ _ _ _ _ herr]

/-- A decode error is kept with its offset, and counted. -/
theorem decodeError_rd (s : State) (off : Nat) (ho : off < 0x4000000) :
    bit ((decodeError s off).rd F.CL_ERR.BITS 0) Err.CL.REG_DECODE = true ∧ (decodeError s off).rd F.CL_REG_ADDR.OFFSET 0 = off ∧
    (decodeError s off).rd F.CL_REG_DECODE.COUNT 0 = min (s.rd F.CL_REG_DECODE.COUNT 0 + 1) (2 ^ 32 - 1) := by
  refine ⟨?_, ?_, ?_⟩
  · rw [decodeError, State.rd_wr_other _ _ _ _ _ _ (by decide), bump_rd _ _ _ _ _ _ (by decide) (by decide)]
    exact setErr_bit s Err.CL.unit Err.CL.REG_DECODE 0 (by decide)
  · rw [decodeError, State.rd_wr_same]
    exact Nat.mod_eq_of_lt ho
  · rw [decodeError, State.rd_wr_other _ _ _ _ _ _ (by decide), bump_rd_same _ _ _ _ (by decide), setErr_rd_flds _ _ _ _ _ _ (by decide)]
    rfl

/-- A read that falls to a plain register answers with its view and clears its RC fields; the rest is left. -/
theorem perform_busRead_plain {s : State} {a len off : Nat} (hone : wordsTouched a len = [off]) (hd : isDecoded s off = true)
    (hm : msixOffset off = false) (hh : isHi off = false) (hl : isLo off = false) (h1 : off ≠ F.SD_TIME_NS.NS.addr)
    (h2 : off ≠ F.SD_CAPQ_NS.NS.addr) (h3 : off ≠ F.FC_WIN_DATA.DATA.addr) (h4 : copyAt F.ETH_TSQ_NS.NS off = none) :
    (perform (busRead · a len) s).out = [.readData (viewReg s off)] ∧
    (∀ e ∈ fieldsAt off, e.1.acc = .RC → (perform (busRead · a len) s).rd e.1 e.2 = e.1.rst e.2 % 2 ^ e.1.width) ∧
    s.SameRegs (perform (busRead · a len) s) [] ((fieldsAt off).filter fun e => decide (e.1.acc = .RC)) ∧
    s.SameUnits (perform (busRead · a len) s) := by
  have hbus : busRead { s with out := [] } a len =
      ((fieldsAt off).foldl clearRc { s with out := [] }).emit (.readData (viewReg s off)) := by
    rw [busRead_one hone, busReadWord_plain _ ((isDecoded_out s [] off).trans hd) hm hh hl, readPlain_view h1 h2 h3 h4, viewReg_out]
  refine ⟨?_, fun e he hrc => ?_, perform_sameRegs fun g k _ hc => ?_, perform_keepsUnits ?_ rfl⟩
  · rw [perform_out, hbus, State.emit_out, foldl_out _ clearRc_out, List.nil_append]
  · rw [perform_rd _ _ _ _ (RegMap.rc_not_end (RegMap.mem_of_fieldsAt he) hrc), hbus, State.emit_rd]
    exact foldl_clearRc_rd _ _ e he hrc fun d hd hid => RegMap.eq_of_id (RegMap.mem_of_fieldsAt hd) (RegMap.mem_of_fieldsAt he) hid
  · rw [hbus, State.emit_rd]
    exact foldl_clearRc_rd_other _ _ _ _ fun e he hrc => hc e (List.mem_filter.mpr ⟨he, decide_eq_true hrc⟩)
  · rw [hbus]
    exact ((State.SameUnits.out_set s []).trans (foldl_sameUnits _ clearRc_sameUnits _ _)).trans (State.emit_sameUnits _ _)

/-- A read of no register answers 0 and is a decode error; the rest is left. -/
theorem perform_busRead_undecoded {s : State} {a len off : Nat} (hone : wordsTouched a len = [off]) (ho : off < 0x4000000)
    (hd : isDecoded s off = false) :
    (perform (busRead · a len) s).out = [.readData 0] ∧ bit ((perform (busRead · a len) s).rd F.CL_ERR.BITS 0) Err.CL.REG_DECODE = true ∧
    (perform (busRead · a len) s).rd F.CL_REG_ADDR.OFFSET 0 = off ∧
    (perform (busRead · a len) s).rd F.CL_REG_DECODE.COUNT 0 = min (s.rd F.CL_REG_DECODE.COUNT 0 + 1) (2 ^ 32 - 1) ∧
    s.SameRegs (perform (busRead · a len) s) (F.CL_REG_ADDR.OFFSET :: F.CL_REG_DECODE.COUNT :: Err.CL.unit.flds ++ cntFlds) [] ∧
    s.SameUnits (perform (busRead · a len) s) := by
  have hbus : busRead { s with out := [] } a len = (decodeError { s with out := [] } off).emit (.readData 0) := by
    rw [busRead_one hone, busReadWord_undecoded _ ((isDecoded_out s [] off).trans hd)]
  obtain ⟨hbit, haddr, hcount⟩ := decodeError_rd { s with out := [] } off ho
  refine ⟨?_, ?_, ?_, ?_, perform_sameRegs fun g k hf _ => ?_, perform_keepsUnits ?_ rfl⟩
  · rw [perform_out, hbus, State.emit_out, decodeError_out, List.nil_append]
  · rwa [perform_rd _ _ _ _ (by decide), hbus]
  · rwa [perform_rd _ _ _ _ (by decide), hbus]
  · rwa [perform_rd _ _ _ _ (by decide), hbus]
  · rw [hbus]
    exact decodeError_rd_other _ _ _ _ hf
  · rw [hbus]
    exact ((State.SameUnits.out_set s []).trans (decodeError_sameUnits _ _)).trans (State.emit_sameUnits _ _)

/-- Settles O19: the word read falls to a plain register, or to none. -/
theorem registerReadAnswers : Obligations.RegisterReadAnswers := by
  unfold Obligations.RegisterReadAnswers
  intro s a len off hs ha hlen hword hoff
  have hone : wordsTouched a len = [off] := hoff ▸ wordsTouched_one ha hlen hword
  have hread : exec (.rcRead ⟨a, len⟩) s = .next (perform (busRead · a len) s) := readRow_reached hs ha rfl
  exact ⟨fun hd hm hh hl h1 h2 h3 h4 => ⟨_, hread, perform_busRead_plain hone hd hm hh hl h1 h2 h3 h4⟩,
    fun hd => ⟨_, hread, perform_busRead_undecoded hone (by omega) hd⟩⟩

/-! The holding registers of reads (R16). -/

/-- A key taken out of a table is listed no more. -/
theorem Tab.find_del_same {κ α : Type} [DecidableEq κ] (t : Tab κ α) (k : κ) : Tab.find (Tab.del t k) k = none := by
  induction t with
  | nil => rfl
  | cons e t ih =>
    obtain ⟨j, v⟩ := e
    by_cases h : j = k <;> simp_all [Tab.del, Tab.find]

/-- A command whose effect is an answer and new read holding registers does nothing else. -/
theorem perform_holdRd {f : State → State} {s : State} {outs : List Output} {t : Tab Nat Nat}
    (h : f { s with out := [] } = { s with out := outs, ko := { s.ko with holdRd := t } }) :
    (perform f s).out = outs ∧ (perform f s).ko.holdRd = t ∧ s.SameRegs (perform f s) [] [] ∧
    State.SameUnits { s with ko := { s.ko with holdRd := (perform f s).ko.holdRd } } (perform f s) := by
  have hold : (perform f s).ko.holdRd = t := by
    rw [(perform_sameUnits f s).holdRd, h]
  refine ⟨?_, hold, perform_sameRegs fun g k _ _ => ?_, ?_⟩
  · rw [perform_out, h]
  · rw [h]
    rfl
  · rw [hold]
    refine perform_keepsUnits ?_ rfl
    rw [h]
    rfl

/-- A word is answered and the read holding registers are replaced. -/
def State.answerHold (s : State) (v : Nat) (t : Tab Nat Nat) : State := (setHoldRd s false t).emit (.readData v)

/-- The host reads a _LO word: it gets bits [31:0], and bits [63:32] are held. -/
theorem busReadOne_lo {s : State} {off : Nat} (hd : isDecoded s off = true) (hm : msixOffset off = false)
    (ht : timeSecOffset off = false) (hh : isHi off = false) (hl : isLo off = true) :
    busReadOne s off = s.answerHold (viewReg s off % 2 ^ 32) (Tab.put s.ko.holdRd off (viewReg s off / 2 ^ 32)) := by
  rw [busReadOne, busReadWord_lo _ hd hm ht hh hl]
  rfl

/-- The host reads a _HI word whose upper half is held: it gets what is held, and the holding register is empty. -/
theorem busReadOne_hi {s : State} {off v : Nat} (hd : isDecoded s off = true) (hm : msixOffset off = false)
    (ht : timeSecOffset off = false) (hh : isHi off = true) (hv : Tab.find s.ko.holdRd (off - 4) = some v) :
    busReadOne s off = s.answerHold v (Tab.del s.ko.holdRd (off - 4)) := by
  have hr : readHi s false off = (v, setHoldRd s false (Tab.del s.ko.holdRd (off - 4))) := by
    rw [readHi, show holdRd s false = s.ko.holdRd from rfl, hv]
  rw [busReadOne, busReadWord_hi _ hd hm ht hh, hr]
  rfl

/-- Settles O20: a read of a _LO word puts the upper half in the holding register, from which the read of the _HI word takes it. -/
theorem wideReadIsCoherent : Obligations.WideReadIsCoherent := by
  unfold Obligations.WideReadIsCoherent
  intro s off hs ho hal hd hm ht
  have hone : wordsTouched off 4 = [off] := by
    rw [wordsTouched_one ho (by decide) (by omega), Nat.div_mul_cancel (Nat.dvd_of_mod_eq_zero hal)]
  refine ⟨fun hh hl => ?_, fun hh v hv => ?_, fun hh hl hd4 hm4 hh4 ht4 ho4 => ?_⟩
  · have hbus : busRead { s with out := [] } off 4 =
        State.answerHold { s with out := [] } (viewReg s off % 2 ^ 32) (Tab.put s.ko.holdRd off (viewReg s off / 2 ^ 32)) := by
      rw [busRead, hone, List.foldl_cons, List.foldl_nil]
      exact busReadOne_lo hd hm ht hh hl
    obtain ⟨hout, hold, hrest⟩ := perform_holdRd (f := (busRead · off 4)) hbus
    exact ⟨_, readRow_reached hs ho hl, hout, hold ▸ Tab.find_put_same _ _ _, hrest⟩
  · have hbus : busRead { s with out := [] } off 4 = State.answerHold { s with out := [] } v (Tab.del s.ko.holdRd (off - 4)) := by
      rw [busRead, hone, List.foldl_cons, List.foldl_nil]
      exact busReadOne_hi hd hm ht hh hv
    obtain ⟨hout, hold, hrest⟩ := perform_holdRd (f := (busRead · off 4)) hbus
    exact ⟨_, readRow_reached hs ho rfl, hout, hold ▸ Tab.find_del_same _ _, hrest⟩
  · have hbus : busRead { s with out := [] } off 8 =
        (State.answerHold { s with out := [] } (viewReg s off % 2 ^ 32) (Tab.put s.ko.holdRd off (viewReg s off / 2 ^ 32))).answerHold
          (viewReg s off / 2 ^ 32) (Tab.del (Tab.put s.ko.holdRd off (viewReg s off / 2 ^ 32)) off) := by
      rw [busRead, wordsTouched_two hal ho4, List.foldl_cons, List.foldl_cons, List.foldl_nil,
        busReadOne_lo ((isDecoded_out s [] off).trans hd) hm ht hh hl]
      exact busReadOne_hi hd4 hm4 ht4 hh4 (Tab.find_put_same _ _ _)
    obtain ⟨hout, hold, hrest⟩ := perform_holdRd (f := (busRead · off 8)) hbus
    exact ⟨_, readRow_reached hs ho rfl, hout, hold ▸ Tab.find_del_same _ _, hrest⟩

end Sys2Proof.Machine
end

section
/-! PROOFS. Writes of the register bus: partial and poisoned ones (R15, R340), 64-bit quantities (R16), field classes (R19), reserved
encodings (R21) and sticky errors (R24). -/
namespace Sys2Proof.Machine

/-- A whole word is written at its offset. -/
theorem busWrite_word {s : State} {off v : Nat} (h : off % 4 = 0) : busWrite s off v 15 false = busWriteWord s off v := by
  rw [busWrite, if_neg Bool.false_ne_true, if_neg (not_not.mpr h), if_pos rfl]

/-- A poisoned write is reported through AER alone. -/
theorem busWrite_poisoned (s : State) (off v be : Nat) : busWrite s off v be true = aerReport s aerPOISONED := if_pos rfl

/-! Partial writes. -/

theorem partialWord_decoded {s : State} {off : Nat} (hd : isDecoded s off = true) :
    partialWord s off = setErr s Err.KIOSK.unit Err.KIOSK.PARTIAL_WR 0 := if_pos hd

/-- An error of the Kiosk powers no domain down, so the words decode as before. -/
theorem isDecoded_kioskErr (s : State) (i info off : Nat) : isDecoded (setErr s Err.KIOSK.unit i info) off = isDecoded s off := by
  have hdom : ∀ d, domState (setErr s Err.KIOSK.unit i info) d = domState s d := fun d => setErr_rd_flds _ _ _ _ _ _ (by decide)
  unfold isDecoded
  simp only [hdom]

/-- The words of a partial write, all decoded, set one error bit. -/
theorem foldl_partialWord_decoded (l : List Nat) (s : State) (h : ∀ w ∈ l, isDecoded s w = true) :
    l.foldl partialWord s = l.foldl (fun u _ => setErr u Err.KIOSK.unit Err.KIOSK.PARTIAL_WR 0) s := by
  induction l generalizing s with
  | nil => rfl
  | cons w t ih =>
    rw [List.foldl_cons, List.foldl_cons, partialWord_decoded (h w List.mem_cons_self)]
    exact ih _ fun x hx => (isDecoded_kioskErr s _ _ x).trans (h x (List.mem_cons_of_mem _ hx))

/-- A write whose words are ignored one by one sets KIOSK_ERR.PARTIAL_WR and leaves the rest. -/
theorem perform_partial {f : State → State} {s : State} {l : List Nat} (hl : l ≠ []) (hd : ∀ w ∈ l, isDecoded s w = true)
    (hf : f { s with out := [] } = l.foldl partialWord { s with out := [] }) :
    bit ((perform f s).rd F.KIOSK_ERR.BITS 0) Err.KIOSK.PARTIAL_WR = true ∧ (perform f s).out = [] ∧
    s.SameRegs (perform f s) Err.KIOSK.unit.flds [] ∧ s.SameUnits (perform f s) := by
  replace hf := hf.trans (foldl_partialWord_decoded l _ hd)
  refine ⟨?_, ?_, perform_sameRegs fun g k hg _ => ?_, perform_keepsUnits ?_ rfl⟩
  · refine perform_errBit (u := Err.KIOSK.unit) (by simp [Err.units]) (by decide) ?_
    rw [hf, ← List.dropLast_append_getLast hl, List.foldl_append]
    exact setErr_bit _ Err.KIOSK.unit _ _ (by decide)
  · rw [perform_out, hf]
    exact foldl_out _ (fun u _ => setErr_out u _ _ _) _ _
  · rw [hf]
    exact foldl_rd _ g k (fun u _ => setErr_rd_flds u _ _ _ g k hg) _ _
  · rw [hf]
    exact (State.SameUnits.out_set s []).trans (foldl_sameUnits _ (fun u _ => setErr_sameUnits u _ _ _) _ _)

/-- Settles O22: a partial or unaligned write falls to `partialWord` at each word of its bytes, a poisoned one to AER. -/
theorem partialWriteIsIgnored : Obligations.PartialWriteIsIgnored := by
  unfold Obligations.PartialWriteIsIgnored
  intro s off data be hs ho
  refine ⟨fun hbe hal hd => ⟨_, registerWrite_reached hs ho, ?_⟩, fun hal hw hd => ⟨_, registerWrite_reached hs ho, ?_⟩,
    ⟨_, registerWrite_reached hs ho, ?_⟩⟩
  · refine perform_partial (l := [off]) (List.cons_ne_nil _ _) (by simpa using hd) ?_
    rw [busWrite, if_neg Bool.false_ne_true, if_neg (not_not.mpr hal), if_neg hbe]
    rfl
  · refine perform_partial hw hd ?_
    rw [busWrite, if_neg Bool.false_ne_true, if_pos hal]
  · have hbus : busWrite { s with out := [] } off data.toNat be true = aerReport { s with out := [] } aerPOISONED :=
      busWrite_poisoned _ _ _ _
    have haer : (perform (busWrite · off data.toNat be true) s).ko.aer = setBit s.ko.aer aerPOISONED := by
      rw [(perform_sameUnits _ s).aer, hbus]
      rfl
    refine ⟨?_, ?_, perform_sameRegs fun g k _ _ => ?_, ?_⟩
    · rw [haer, bit_setBit_same]
    · rw [perform_out, hbus]
      rfl
    · rw [hbus]
      rfl
    · rw [haer]
      refine perform_keepsUnits ?_ rfl
      rw [hbus]
      rfl

end Sys2Proof.Machine
end

section
/-! PROOFS. What a write of a register does to its fields (R18, R19, R21, R24), and the registers of the statements. -/
namespace Sys2Proof.Machine

/-- A field that is read and written and holds its value against no unit: neither class S, nor a scan setting, nor GLH_CTL.EN. -/
def Fld.plain (f : Fld) : Bool := decide (f.acc = .RW) && decide (f.cls ≠ .S) && !isScanSetting f && decide (f.id ≠ F.GLH_CTL.EN.id)

theorem fieldHeld_plain {f : Fld} (h : f.plain = true) (s : State) (k v : Nat) : fieldHeld s f k v = false := by
  simp only [Fld.plain, Bool.and_eq_true, decide_eq_true_eq, Bool.not_eq_true'] at h
  obtain ⟨⟨⟨hacc, hcls⟩, hscan⟩, hen⟩ := h
  simp [fieldHeld, hacc, hcls, hscan, hen]

/-- A class S field of a running unit takes no new value. -/
theorem fieldHeld_running {s : State} {f : Fld} {k v : Nat} (hacc : f.acc = .RW) (hcls : f.cls = .S) (hs : stoppedFor s f k = false)
    (hv : v ≠ s.rd f k) : fieldHeld s f k v = true := by
  simp [fieldHeld, hacc, hcls, hs, hv]

/-- A plain field takes its part of a write. -/
theorem writeField_plain {e : Fld × Nat} (h : e.1.plain = true) (s0 s : State) (v : Nat) :
    writeField s0 v s e = s.wr e.1 e.2 (bits v e.1.lo e.1.width) := by
  have hacc : e.1.acc = .RW := by
    simp only [Fld.plain, Bool.and_eq_true, decide_eq_true_eq] at h
    exact h.1.1.1
  simp [writeField, hacc, fieldHeld_plain h]

/-- A field that is held keeps its value. -/
theorem writeField_held {e : Fld × Nat} {s0 : State} {v : Nat} (hacc : e.1.acc = .RW)
    (h : fieldHeld s0 e.1 e.2 (bits v e.1.lo e.1.width) = true) (s : State) : writeField s0 v s e = s := by
  simp [writeField, hacc, h]

/-- A bit written 1 to a sticky register is cleared. -/
theorem writeField_w1c {e : Fld × Nat} (hacc : e.1.acc = .W1C) (s0 s : State) (v : Nat) :
    writeField s0 v s e = s.wr e.1 e.2 (s.rd e.1 e.2 - (s.rd e.1 e.2 &&& bits v e.1.lo e.1.width)) := by
  simp [writeField, hacc]

/-- The write of a field leaves every other field. -/
theorem writeField_rd_other (s0 s : State) (v : Nat) (e : Fld × Nat) (g : Fld) (k : Nat) (h : e.1.id ≠ g.id) :
    (writeField s0 v s e).rd g k = s.rd g k := by
  have hw : ∀ x, (s.wr e.1 e.2 x).rd g k = s.rd g k := fun x => State.rd_wr_other _ _ _ _ _ _ h
  exact ite_rd (ite_rd rfl (hw _)) (ite_rd (hw _) rfl)

/-- A write under a reserved encoding is ignored whole (R21). -/
theorem regWrite_reserved {s : State} {off v : Nat} (ht : off ≠ F.SD_TOD_SET.SEC.addr) (hr : writeReserved s off v = true) :
    regWrite s off v = cfgIgnored s off := by
  rw [regWrite, if_neg fun h => ht h.1, if_pos hr]

/-- A write of a register that sets nothing off and is no ring's writes its fields, and reports those held. -/
theorem regWrite_taken {s : State} {off v : Nat} (ht : off ≠ F.SD_TOD_SET.SEC.addr) (hr : writeReserved s off v = false)
    (hring : copyAt F.KIOSK_RING_CFG.EN off = none) (hhook : ∀ u, writeHook s u off v = u) :
    regWrite s off v =
      (let u := (fieldsAt off).foldl releaseFirst ((fieldsAt off).foldl (writeField s v) s)
       if partHeld s off v then cfgIgnored u off else u) := by
  have hw : ringWaiting s off v = none := by rw [ringWaiting, hring]
  rw [regWrite, if_neg fun h => ht h.1, hr, if_neg Bool.false_ne_true, hw]
  exact hhook _

/-- A write of a register of plain fields that sets nothing off writes its fields. -/
theorem regWrite_plain {s : State} {off v : Nat} {l : List (Fld × Nat)} (hf : fieldsAt off = l) (hp : (l.all fun e => e.1.plain) = true)
    (hfirst : (l.all fun e => Err.units.all fun u => decide (u.bits.id ≠ e.1.id)) = true) (ht : off ≠ F.SD_TOD_SET.SEC.addr)
    (hr : writeReserved s off v = false) (hring : copyAt F.KIOSK_RING_CFG.EN off = none) (hhook : ∀ u, writeHook s u off v = u) :
    regWrite s off v = l.foldl (fun u e => u.wr e.1 e.2 (bits v e.1.lo e.1.width)) s := by
  have hall : ∀ e ∈ l, e.1.plain = true := List.all_eq_true.mp hp
  have hheld : partHeld s off v = false := by
    rw [partHeld, hf, List.any_eq_false]
    exact fun e he => Bool.eq_false_iff.mp (fieldHeld_plain (hall e he) _ _ _)
  rw [regWrite_taken ht hr hring hhook, hf, hheld, releaseFirst_foldl l _ hfirst]
  exact List.foldl_ext _ _ _ fun u e he => writeField_plain (hall e he) _ _ _

/-- A word of a register that is no half of a 64-bit quantity takes the write. -/
theorem busWriteWord_reg {s : State} {off v : Nat} (hd : isDecoded s off = true) (hm : msixOffset off = false) (hh : isHi off = false)
    (hl : isLo off = false) : busWriteWord s off v = regWrite s off v := by
  simp [busWriteWord, hd, hm, hh, hl]

/-! The fields of the registers of the statements. -/

theorem fieldsAt_GLOBAL_RESET_CTL : fieldsAt F.GLOBAL_RESET_CTL.DATA_KEEP.addr =
    [(F.GLOBAL_RESET_CTL.INCL_SUNDIAL, 0), (F.GLOBAL_RESET_CTL.DATA_KEEP, 0)] := rfl
theorem fieldsAt_PR_CFG : fieldsAt F.PR_CFG.M.addr =
    [(F.PR_CFG.PROG_BASE, 0), (F.PR_CFG.REQ_SHIFT, 0), (F.PR_CFG.FILT_SHIFT, 0), (F.PR_CFG.P, 0), (F.PR_CFG.M, 0)] := rfl
theorem fieldsAt_GLOBAL_DP_CFG : fieldsAt F.GLOBAL_DP_CFG.MODE4.addr =
    [(F.GLOBAL_DP_CFG.T_CODE, 0), (F.GLOBAL_DP_CFG.MODE4, 0), (F.GLOBAL_DP_CFG.N_BLK, 0)] := rfl
theorem fieldsAt_POWER_ERR : fieldsAt F.POWER_ERR.BITS.addr = [(F.POWER_ERR.BITS, 0)] := rfl

/-! Field classes at work. -/

/-- The error register of every offset is that of a unit. -/
theorem regUnit_mem (off : Nat) : regUnit off ∈ Err.units := by
  have heth : ∀ p, p < 4 → Err.ETH.unit p ∈ Err.units := by
    intro p hp
    interval_cases p <;> simp [Err.units]
  have hite : ∀ {c : Prop} [Decidable c] {a b : ErrUnit}, a ∈ Err.units → b ∈ Err.units → (if c then a else b) ∈ Err.units :=
    fun {c} _ {a b} ha hb => by split <;> assumption
  unfold regUnit
  repeat' refine hite ?_ ?_
  any_goals exact heth _ (Nat.mod_lt _ (by decide))
  all_goals simp [Err.units]

/-- Every error register holds bit 0, CFG_IGNORED. -/
theorem Err.width_pos {u : ErrUnit} (hu : u ∈ Err.units) : 0 < u.bits.width := by
  have h : (Err.units.all fun u => decide (0 < u.bits.width)) = true := by decide
  exact of_decide_eq_true (List.all_eq_true.mp h u hu)

/-- A command that is ignored with CFG_IGNORED sets that bit of its unit and leaves the rest. -/
theorem perform_ignored {f : State → State} {s : State} {off : Nat} (h : f { s with out := [] } = cfgIgnored { s with out := [] } off) :
    bit ((perform f s).rd (regUnit off).bits (regUnit off).k) 0 = true ∧ (perform f s).out = [] ∧
    s.SameRegs (perform f s) (regUnit off).flds [] ∧ s.SameUnits (perform f s) := by
  have hu := regUnit_mem off
  refine ⟨perform_errBit hu (Err.width_pos hu) ?_, ?_, perform_sameRegs fun g k hg _ => ?_, perform_keepsUnits ?_ rfl⟩
  · rw [h]
    exact setErr_bit _ _ 0 _ (Err.width_pos hu)
  · rw [perform_out, h]
    exact setErr_out _ _ _ _
  · rw [h]
    exact setErr_rd_flds _ _ _ _ g k hg
  · rw [h]
    exact (State.SameUnits.out_set s []).trans (setErr_sameUnits _ _ _ _)

/-- A live field takes effect at once: GLOBAL_RESET_CTL. -/
theorem perform_write_GLOBAL_RESET_CTL (s : State) (v : Nat) :
    let t := perform (busWrite · F.GLOBAL_RESET_CTL.DATA_KEEP.addr v 15 false) s
    t.rd F.GLOBAL_RESET_CTL.DATA_KEEP 0 = bits v F.GLOBAL_RESET_CTL.DATA_KEEP.lo 1 ∧
    t.rd F.GLOBAL_RESET_CTL.INCL_SUNDIAL 0 = bits v F.GLOBAL_RESET_CTL.INCL_SUNDIAL.lo 1 ∧ t.out = [] ∧
    s.SameRegs t [F.GLOBAL_RESET_CTL.DATA_KEEP, F.GLOBAL_RESET_CTL.INCL_SUNDIAL] [] ∧ s.SameUnits t := by
  intro t
  have hbus : busWrite { s with out := [] } F.GLOBAL_RESET_CTL.DATA_KEEP.addr v 15 false =
      (({ s with out := [] } : State).wr F.GLOBAL_RESET_CTL.INCL_SUNDIAL 0 (bits v F.GLOBAL_RESET_CTL.INCL_SUNDIAL.lo 1)).wr
        F.GLOBAL_RESET_CTL.DATA_KEEP 0 (bits v F.GLOBAL_RESET_CTL.DATA_KEEP.lo 1) := by
    rw [busWrite_word rfl, busWriteWord_reg rfl rfl rfl rfl,
      regWrite_plain fieldsAt_GLOBAL_RESET_CTL (by decide) (by decide) (by decide) rfl rfl fun _ => rfl]
    rfl
  refine ⟨?_, ?_, ?_, perform_sameRegs fun g k hg _ => ?_, perform_keepsUnits ?_ rfl⟩
  · rw [perform_rd _ _ _ _ (by decide), hbus, State.rd_wr_same]
    exact Nat.mod_mod _ _
  · rw [perform_rd _ _ _ _ (by decide), hbus, State.rd_wr_other _ _ _ _ _ _ (by decide), State.rd_wr_same]
    exact Nat.mod_mod _ _
  · rw [perform_out, hbus]
    rfl
  · rw [hbus, State.rd_wr_other _ _ _ _ _ _ (hg _ (by simp)), State.rd_wr_other _ _ _ _ _ _ (hg _ (by simp))]
    rfl
  · rw [hbus]
    rfl

/-- An E field is written in its shadow copy: PR_CFG.M. -/
theorem perform_write_PR_CFG {s : State} {v : Nat} (hdom : domState s 17 ≠ pdOFF) (hr : writeReserved s F.PR_CFG.M.addr v = false) :
    let t := perform (busWrite · F.PR_CFG.M.addr v 15 false) s
    t.rd F.PR_CFG.M 0 = bits v F.PR_CFG.M.lo F.PR_CFG.M.width ∧ t.ac F.PR_CFG.M 0 = s.ac F.PR_CFG.M 0 ∧ t.act = s.act := by
  intro t
  have hd : isDecoded { s with out := [] } F.PR_CFG.M.addr = true := decide_eq_true hdom
  have hbus : busWrite { s with out := [] } F.PR_CFG.M.addr v 15 false =
      [(F.PR_CFG.PROG_BASE, 0), (F.PR_CFG.REQ_SHIFT, 0), (F.PR_CFG.FILT_SHIFT, 0), (F.PR_CFG.P, 0), (F.PR_CFG.M, 0)].foldl
        (fun u e => u.wr e.1 e.2 (bits v e.1.lo e.1.width)) { s with out := [] } := by
    rw [busWrite_word rfl, busWriteWord_reg hd rfl rfl rfl]
    exact regWrite_plain fieldsAt_PR_CFG (by decide) (by decide) (by decide) hr rfl fun _ => rfl
  have hact : t.act = s.act := by
    rw [(perform_sameUnits _ s).act, hbus]
    rfl
  refine ⟨?_, by rw [State.ac, hact, State.ac], hact⟩
  rw [perform_rd _ _ _ _ (by decide), hbus]
  simp only [List.foldl_cons, List.foldl_nil, State.rd_wr_same]
  exact Nat.mod_mod _ _

/-- An S field of a running data plane keeps its value, with CFG_IGNORED: GLOBAL_DP_CFG.MODE4. -/
theorem perform_write_GLOBAL_DP_CFG {s : State} {v : Nat} (hdp : s.dpStopped = false)
    (hv : bits v F.GLOBAL_DP_CFG.MODE4.lo 1 ≠ s.rd F.GLOBAL_DP_CFG.MODE4 0) :
    let t := perform (busWrite · F.GLOBAL_DP_CFG.MODE4.addr v 15 false) s
    t.rd F.GLOBAL_DP_CFG.MODE4 0 = s.rd F.GLOBAL_DP_CFG.MODE4 0 ∧ bit (t.rd F.GLOBAL_ERR.BITS 0) Err.GLOBAL.CFG_IGNORED = true := by
  intro t
  have hbus : ∃ u : State, u.rd F.GLOBAL_DP_CFG.MODE4 0 = s.rd F.GLOBAL_DP_CFG.MODE4 0 ∧
      busWrite { s with out := [] } F.GLOBAL_DP_CFG.MODE4.addr v 15 false = cfgIgnored u F.GLOBAL_DP_CFG.MODE4.addr := by
    rw [busWrite_word rfl, busWriteWord_reg rfl rfl rfl rfl]
    cases hr : writeReserved { s with out := [] } F.GLOBAL_DP_CFG.MODE4.addr v with
    | true => exact ⟨{ s with out := [] }, rfl, regWrite_reserved (by decide) hr⟩
    | false =>
      have hheld : fieldHeld { s with out := [] } F.GLOBAL_DP_CFG.MODE4 0 (bits v F.GLOBAL_DP_CFG.MODE4.lo F.GLOBAL_DP_CFG.MODE4.width) = true :=
        fieldHeld_running rfl rfl hdp hv
      have hpart : partHeld { s with out := [] } F.GLOBAL_DP_CFG.MODE4.addr v = true := by
        rw [partHeld, fieldsAt_GLOBAL_DP_CFG, List.any_eq_true]
        exact ⟨(F.GLOBAL_DP_CFG.MODE4, 0), by simp, hheld⟩
      rw [regWrite_taken (by decide) hr rfl fun _ => rfl, hpart, fieldsAt_GLOBAL_DP_CFG, releaseFirst_foldl _ _ (by decide)]
      refine ⟨_, ?_, rfl⟩
      simp only [List.foldl_cons, List.foldl_nil]
      rw [writeField_rd_other _ _ _ _ _ _ (by decide), writeField_held rfl hheld, writeField_rd_other _ _ _ _ _ _ (by decide)]
      rfl
  obtain ⟨u, hu, hbus⟩ := hbus
  refine ⟨?_, perform_errBit (u := Err.GLOBAL.unit) (by simp [Err.units]) (by decide) ?_⟩
  · rw [perform_rd _ _ _ _ (by decide), hbus, cfgIgnored]
    exact (setErr_rd_flds _ _ _ _ _ _ (by decide)).trans hu
  · rw [hbus]
    exact setErr_bit u Err.GLOBAL.unit 0 _ (by decide)

/-- POWER_ERR loses the bits written 1, and is then looked at for its first-error capture. -/
theorem busWrite_POWER_ERR (s : State) (v : Nat) :
    busWrite s F.POWER_ERR.BITS.addr v 15 false =
      releaseFirst (s.wr F.POWER_ERR.BITS 0 (s.rd F.POWER_ERR.BITS 0 - (s.rd F.POWER_ERR.BITS 0 &&& bits v 0 3))) (F.POWER_ERR.BITS, 0) := by
  rw [busWrite_word rfl, busWriteWord_reg rfl rfl rfl rfl, regWrite_taken (by decide) rfl rfl fun _ => rfl, fieldsAt_POWER_ERR]
  simp only [List.foldl_cons, List.foldl_nil, writeField_w1c (e := (F.POWER_ERR.BITS, 0)) rfl]
  rfl

/-- POWER_ERR at zero releases its first error and time. -/
theorem releaseFirst_POWER_ERR (s : State) :
    releaseFirst s (F.POWER_ERR.BITS, 0) =
      if s.rd F.POWER_ERR.BITS 0 = 0 then (s.wr F.POWER_ERR_FIRST.WORD 0 0).wr F.POWER_ERR_FIRST_TS.TS 0 0 else s := rfl

/-- The release leaves every field but the first error and its time. -/
theorem releaseFirst_POWER_ERR_rd_other (s : State) (g : Fld) (k : Nat) (hfirst : F.POWER_ERR_FIRST.WORD.id ≠ g.id)
    (hts : F.POWER_ERR_FIRST_TS.TS.id ≠ g.id) : (releaseFirst s (F.POWER_ERR.BITS, 0)).rd g k = s.rd g k :=
  ite_rd ((State.rd_wr_other _ _ _ _ _ _ hts).trans (State.rd_wr_other _ _ _ _ _ _ hfirst)) rfl

theorem releaseFirst_POWER_ERR_sameUnits (s : State) : s.SameUnits (releaseFirst s (F.POWER_ERR.BITS, 0)) :=
  ite_sameUnits ((State.wr_sameUnits _ _ _ _).trans (State.wr_sameUnits _ _ _ _)) (State.SameUnits.refl s)

/-- A sticky error register loses the bits written 1; at zero its first error and time are released: POWER_ERR. -/
theorem perform_write_POWER_ERR (s : State) (v : Nat) :
    let t := perform (busWrite · F.POWER_ERR.BITS.addr v 15 false) s
    t.rd F.POWER_ERR.BITS 0 = (s.rd F.POWER_ERR.BITS 0 - (s.rd F.POWER_ERR.BITS 0 &&& bits v 0 3)) % 8 ∧
    (t.rd F.POWER_ERR.BITS 0 = 0 → t.rd F.POWER_ERR_FIRST.WORD 0 = 0 ∧ t.rd F.POWER_ERR_FIRST_TS.TS 0 = 0) ∧
    (t.rd F.POWER_ERR.BITS 0 ≠ 0 → t.rd F.POWER_ERR_FIRST.WORD 0 = s.rd F.POWER_ERR_FIRST.WORD 0) ∧
    t.out = [] ∧ s.SameRegs t Err.POWER.unit.flds [] ∧ s.SameUnits t := by
  intro t
  have hbus := busWrite_POWER_ERR { s with out := [] } v
  have hrd : t.rd F.POWER_ERR.BITS 0 = (s.rd F.POWER_ERR.BITS 0 - (s.rd F.POWER_ERR.BITS 0 &&& bits v 0 3)) % 8 := by
    rw [perform_rd _ _ _ _ (by decide), hbus, releaseFirst_POWER_ERR_rd_other _ _ _ (by decide) (by decide), State.rd_wr_same]
    rfl
  refine ⟨hrd, fun h0 => ?_, fun h0 => ?_, ?_, perform_sameRegs fun g k hg _ => ?_, perform_keepsUnits ?_ rfl⟩
  · rw [perform_rd _ _ _ _ (by decide), perform_rd _ _ _ _ (by decide), hbus, releaseFirst_POWER_ERR,
      if_pos ((State.rd_wr_same _ _ _ _).trans (hrd.symm.trans h0)), State.rd_wr_same, State.rd_wr_other _ _ _ _ _ _ (by decide),
      State.rd_wr_same]
    exact ⟨rfl, rfl⟩
  · rw [perform_rd _ _ _ _ (by decide), hbus, releaseFirst_POWER_ERR,
      if_neg fun h => h0 (hrd.trans ((State.rd_wr_same _ _ _ _).symm.trans h))]
    exact State.rd_wr_other _ _ _ _ _ _ (by decide)
  · rw [perform_out, hbus, releaseFirst_POWER_ERR]
    split <;> rfl
  · rw [hbus, releaseFirst_POWER_ERR_rd_other _ _ _ (hg F.POWER_ERR_FIRST.WORD (by simp [ErrUnit.flds, Err.POWER.unit]))
      (hg F.POWER_ERR_FIRST_TS.TS (by simp [ErrUnit.flds, Err.POWER.unit]))]
    exact State.rd_wr_other _ _ _ _ _ _ (hg F.POWER_ERR.BITS (by simp [ErrUnit.flds, Err.POWER.unit]))
  · rw [hbus]
    exact (State.SameUnits.out_set s []).trans ((State.wr_sameUnits _ _ _ _).trans (releaseFirst_POWER_ERR_sameUnits _))

/-- Settles O23: each register is written through `regWrite`, whose cases are the classes. -/
theorem fieldClassesRuleWrites : Obligations.FieldClassesRuleWrites := by
  unfold Obligations.FieldClassesRuleWrites
  intro s data hs
  refine ⟨⟨_, registerWrite_reached hs (by decide), perform_write_GLOBAL_RESET_CTL s _⟩,
    fun hdom hr => ⟨_, registerWrite_reached hs (by decide), perform_write_PR_CFG hdom hr⟩,
    fun hdp hv => ⟨_, registerWrite_reached hs (by decide), perform_write_GLOBAL_DP_CFG hdp hv⟩,
    fun off ho hal hd hm hh hl hr => ⟨_, registerWrite_reached hs ho, perform_ignored ?_⟩,
    ⟨_, writeRow_reached hs (by decide) (by decide), perform_write_POWER_ERR s _⟩⟩
  have htod : off ≠ F.SD_TOD_SET.SEC.addr := by
    rintro rfl
    exact absurd hl (by decide)
  rw [busWrite_word hal, busWriteWord_reg ((isDecoded_out s [] off).trans hd) hm hh hl]
  exact regWrite_reserved htod ((writeReserved_out s [] off _).trans hr)

end Sys2Proof.Machine
end

section
/-! PROOFS. A 64-bit quantity is written at once (R16): SD_EV_SEC. -/
namespace Sys2Proof.Machine

/-- The fields of SD_EV_SEC. -/
theorem fieldsAt_SD_EV_SEC (k : Nat) (hk : k < 64) : fieldsAt (F.SD_EV_SEC.SEC.addr + F.SD_EV_SEC.SEC.stride * k) = [(F.SD_EV_SEC.SEC, k)] :=
  (fieldsAt_eq F.SD_EV_SEC.SEC RegMap.sundial k hk (by decide)
    (regBlock_range F.SD_EV_SEC.SEC k 0x2c00000 0x3000000 _ hk (by decide) (by decide) regBlock_sundial) (by decide)).trans rfl

/-- A write of SD_EV_SEC sets nothing off. -/
theorem writeHook_SD_EV_SEC (s0 s : State) (k v : Nat) (hk : k < 64) :
    writeHook s0 s (F.SD_EV_SEC.SEC.addr + F.SD_EV_SEC.SEC.stride * k) v = s :=
  (writeHook_eq F.SD_EV_SEC.SEC k v s0 s hk (by decide) (by decide)).trans rfl

/-- SD_EV_SEC of a slot that is not armed takes any value (R316). -/
theorem writeReserved_SD_EV_SEC {s : State} {k : Nat} (v : Nat) (hk : k < 64) (ha : evArmed s k = false) :
    writeReserved s (F.SD_EV_SEC.SEC.addr + F.SD_EV_SEC.SEC.stride * k) v = false := by
  have hcross : (crossRules.filter fun e => F.SD_EV_SEC.SEC.same e.1) = [(F.SD_EV_SEC.SEC, fun s k _ => evArmed s k)] := rfl
  have hrules := crossRules_eq F.SD_EV_SEC.SEC k v s hk (by decide) (by decide)
  rw [hcross, List.any_cons, List.any_nil, Bool.or_false] at hrules
  have hok : ([(F.SD_EV_SEC.SEC, k)].any fun e => decide (e.1.acc = .RW) && !e.1.ok e.2 (bits v e.1.lo e.1.width)) = false := rfl
  rw [writeReserved, fieldsAt_SD_EV_SEC k hk]
  exact Bool.or_eq_false_iff.mpr ⟨hok, hrules.trans ha⟩

theorem isDecoded_SD_EV_SEC (s : State) (k : Nat) (hk : k < 64) : isDecoded s (F.SD_EV_SEC.SEC.addr + F.SD_EV_SEC.SEC.stride * k) = true := by
  simp [isDecoded, fieldsAt_SD_EV_SEC k hk, regDomain_none F.SD_EV_SEC.SEC k hk (by decide)]

theorem isLo_SD_EV_SEC (k : Nat) (hk : k < 64) : isLo (F.SD_EV_SEC.SEC.addr + F.SD_EV_SEC.SEC.stride * k) = true := by
  rw [isLo, fieldsAt_SD_EV_SEC k hk]
  rfl

/-- The word before SD_EV_SEC is the _LO of no quantity. -/
theorem isHi_SD_EV_SEC (k : Nat) (hk : k < 64) : isHi (F.SD_EV_SEC.SEC.addr + F.SD_EV_SEC.SEC.stride * k) = false :=
  isHi_false F.SD_EV_SEC.SEC RegMap.sundial k hk (by decide)
    (regBlock_sundial _ (by show 0x2c00000 ≤ 0x2c00404 + 32 * k - 4; omega) (by show 0x2c00404 + 32 * k - 4 < 0x3000000; omega)) (by decide)

/-- The _HI word of SD_EV_SEC is that of the 64-bit quantity. -/
theorem isHi_SD_EV_SEC_hi (k : Nat) (hk : k < 64) : isHi (F.SD_EV_SEC.SEC.addr + F.SD_EV_SEC.SEC.stride * k + 4) = true := by
  rw [isHi, hiFieldsAt, if_neg (by omega), Nat.add_sub_cancel, fieldsAt_SD_EV_SEC k hk]
  rfl

/-- A write of SD_EV_SEC_LO of a slot that is not armed is held. -/
theorem busWriteWord_SD_EV_SEC_lo {s : State} {k : Nat} (v : Nat) (hk : k < 64) (ha : evArmed s k = false) :
    busWriteWord s (F.SD_EV_SEC.SEC.addr + F.SD_EV_SEC.SEC.stride * k) v =
      { s with ko := { s.ko with holdWr := Tab.put s.ko.holdWr (F.SD_EV_SEC.SEC.addr + F.SD_EV_SEC.SEC.stride * k) v } } := by
  have hsec := copyAt_same F.SD_EV_SEC.SEC F.SD_EV_SEC.SEC k hk (by decide) (by decide)
  have hper := copyAt_far 0 F.SD_EV_SEC.SEC F.SD_EV_PERIOD.PERIOD k hk (Nat.zero_le _) (by decide)
  rw [Nat.sub_zero] at hper
  have hm := msixOffset_false F.SD_EV_SEC.SEC k hk (by decide)
  simp [busWriteWord, isDecoded_SD_EV_SEC s k hk, hm, isHi_SD_EV_SEC k hk, isLo_SD_EV_SEC k hk, writeLo, hsec, hper, ha]

theorem isDecoded_SD_EV_SEC_hi (s : State) (k : Nat) (hk : k < 64) :
    isDecoded s (F.SD_EV_SEC.SEC.addr + F.SD_EV_SEC.SEC.stride * k + 4) = true := by
  have hr : regDomain (F.SD_EV_SEC.SEC.addr + F.SD_EV_SEC.SEC.stride * k + 4) = none := by
    show regDomain (0x2c00404 + 32 * k + 4) = none
    unfold regDomain
    repeat rw [if_neg (by omega)]
  have hh : (!(hiFieldsAt (F.SD_EV_SEC.SEC.addr + F.SD_EV_SEC.SEC.stride * k + 4)).isEmpty) = true := isHi_SD_EV_SEC_hi k hk
  rw [isDecoded, hr, hh]
  simp

/-- A write of SD_EV_SEC_HI takes the held word as bits [31:0] and writes the whole quantity. -/
theorem busWriteWord_SD_EV_SEC_hi {s : State} {k lo : Nat} (hi : Nat) (hk : k < 64) (ha : evArmed s k = false)
    (hlo : Tab.find s.ko.holdWr (F.SD_EV_SEC.SEC.addr + F.SD_EV_SEC.SEC.stride * k) = some lo) :
    busWriteWord s (F.SD_EV_SEC.SEC.addr + F.SD_EV_SEC.SEC.stride * k + 4) hi =
      State.wr { s with ko := { s.ko with holdWr := Tab.del s.ko.holdWr (F.SD_EV_SEC.SEC.addr + F.SD_EV_SEC.SEC.stride * k) } }
        F.SD_EV_SEC.SEC k (bits (hi * 2 ^ 32 + lo) 0 64) := by
  have hm : msixOffset (F.SD_EV_SEC.SEC.addr + F.SD_EV_SEC.SEC.stride * k + 4) = false := by
    show msixOffset (0x2c00404 + 32 * k + 4) = false
    simp only [msixOffset, Bool.or_eq_false_iff, Bool.and_eq_false_iff, decide_eq_false_iff_not]
    omega
  have htod : F.SD_EV_SEC.SEC.addr + F.SD_EV_SEC.SEC.stride * k ≠ F.SD_TOD_SET.SEC.addr := by
    show 0x2c00404 + 32 * k ≠ 0x2c00030
    omega
  have hring : copyAt F.KIOSK_RING_CFG.EN (F.SD_EV_SEC.SEC.addr + F.SD_EV_SEC.SEC.stride * k) = none :=
    copyAt_far 0 F.SD_EV_SEC.SEC F.KIOSK_RING_CFG.EN k hk (Nat.zero_le _) (by decide)
  have hword : busWriteWord s (F.SD_EV_SEC.SEC.addr + F.SD_EV_SEC.SEC.stride * k + 4) hi =
      writeHi s (F.SD_EV_SEC.SEC.addr + F.SD_EV_SEC.SEC.stride * k + 4) hi := by
    simp [busWriteWord, isDecoded_SD_EV_SEC_hi s k hk, hm, isHi_SD_EV_SEC_hi k hk]
  rw [hword, writeHi, Nat.add_sub_cancel, hlo]
  exact regWrite_plain (fieldsAt_SD_EV_SEC k hk) (l := [(F.SD_EV_SEC.SEC, k)]) rfl rfl htod
    (writeReserved_SD_EV_SEC _ hk ha) hring fun u => writeHook_SD_EV_SEC _ u k _ hk

/-- Settles O21: the _LO write goes to the holding register, from which the _HI write takes it into one write of the field. -/
theorem wideWriteIsOneStep : Obligations.WideWriteIsOneStep := by
  unfold Obligations.WideWriteIsOneStep
  intro s e lo hi hs ha off
  have hoff : off = 0x2c00404 + 32 * e.val := rfl
  have hal : off % 4 = 0 := by omega
  have hal4 : (off + 4) % 4 = 0 := by omega
  refine ⟨⟨_, writeRow_reached hs (by omega) (isLo_SD_EV_SEC e e.isLt), ?_⟩,
    fun hheld => ⟨_, writeRow_reached hs (by omega) (isHi_SD_EV_SEC_hi e e.isLt), ?_⟩⟩
  · have hbus : busWrite { s with out := [] } off lo.toNat 15 false =
        { s with out := [], ko := { s.ko with holdWr := Tab.put s.ko.holdWr off lo.toNat } } :=
      (busWrite_word hal).trans (busWriteWord_SD_EV_SEC_lo _ e.isLt ha)
    have hold : (perform (busWrite · off lo.toNat 15 false) s).ko.holdWr = Tab.put s.ko.holdWr off lo.toNat := by
      rw [(perform_sameUnits _ s).holdWr, hbus]
    refine ⟨hold ▸ Tab.find_put_same _ _ _, ?_, perform_sameRegs fun g k _ _ => ?_, ?_⟩
    · rw [perform_out, hbus]
    · rw [hbus]
      rfl
    · rw [hold]
      refine perform_keepsUnits ?_ rfl
      rw [hbus]
      rfl
  · have hbus : busWrite { s with out := [] } (off + 4) hi.toNat 15 false =
        State.wr { s with out := [], ko := { s.ko with holdWr := Tab.del s.ko.holdWr off } } F.SD_EV_SEC.SEC e
          (bits (hi.toNat * 2 ^ 32 + lo.toNat) 0 64) :=
      (busWrite_word hal4).trans (busWriteWord_SD_EV_SEC_hi _ e.isLt ha hheld)
    have hold : (perform (busWrite · (off + 4) hi.toNat 15 false) s).ko.holdWr = Tab.del s.ko.holdWr off := by
      rw [(perform_sameUnits _ s).holdWr, hbus]
      rfl
    refine ⟨?_, hold ▸ Tab.find_del_same _ _, ?_, perform_sameRegs fun g k _ hc => ?_, ?_⟩
    · have hh := hi.isLt
      have hl := lo.isLt
      rw [perform_rd _ _ _ _ (by decide), hbus, State.rd_wr_same]
      show (hi.toNat * 2 ^ 32 + lo.toNat) / 2 ^ 0 % 2 ^ 64 % 2 ^ 64 = _
      omega
    · rw [perform_out, hbus]
      rfl
    · rw [hbus, State.rd_wr, if_neg fun h => hc _ List.mem_cons_self (Prod.ext h.1 h.2)]
      rfl
    · rw [hold]
      refine perform_keepsUnits ?_ rfl
      rw [hbus]
      rfl

end Sys2Proof.Machine
end

section
/-! PROOFS. What the Kiosk writes to the host, and the index registers that go with it (R341, R343, R353). -/
namespace Sys2Proof.Machine

/-- Whether the Kiosk may issue requests rests on three fields of KIOSK_STATUS and on the resets. -/
theorem pcieReady_congr {s t : State} (hg : t.glob = s.glob)
    (hr : ∀ f ∈ [F.KIOSK_STATUS.LINK_UP, F.KIOSK_STATUS.D3, F.KIOSK_STATUS.BME], t.rd f 0 = s.rd f 0) : pcieReady t = pcieReady s := by
  simp only [List.forall_mem_cons, List.not_mem_nil, false_implies, implies_true, and_true] at hr
  obtain ⟨hlink, hd3, hbme⟩ := hr
  rw [pcieReady, pcieReady, hlink, hd3, hbme, hg]

/-- While requests may be issued, a write of the host that carries no index goes out. -/
theorem hostPut_entry {s : State} (h : pcieReady s = true) (a : Nat) (bytes : List Byte) :
    hostPut s { addr := a, bytes := bytes } = s.emit (.hostWrite a bytes) := by simp [hostPut, h]

/-- While requests may be issued, a write of the host that carries an index goes out, and the ring's register follows. -/
theorem hostPut_index {s : State} (h : pcieReady s = true) (a : Nat) (bytes : List Byte) (r d : Nat) :
    hostPut s { addr := a, bytes := bytes, dev := some (r, d) } =
      (s.emit (.hostWrite a bytes)).wr F.KIOSK_RING_STATUS.DEV_IDX r d := by simp [hostPut, h]

/-- A vector signalled writes no register. -/
@[simp] theorem signal_rd (s : State) (v : Nat) (g : Fld) (k : Nat) : (signal s v).rd g k = s.rd g k :=
  ite_rd (ite_rd rfl rfl) rfl

/-- An advance of an index signals its vector in no register. -/
@[simp] theorem ringSignal_rd (s : State) (r : Nat) (g : Fld) (k : Nat) : (ringSignal s r).rd g k = s.rd g k := by
  unfold ringSignal
  split
  · rfl
  · exact ite_rd (signal_rd _ _ _ _) (ite_rd rfl (signal_rd _ _ _ _))

/-- An entry that a channel moves is counted, and nothing else changes. -/
theorem moveEntry_sameUnits (s : State) (c : Nat) : s.SameUnits (moveEntry s c) :=
  (bump_sameUnits s _ _ _).trans (foldl_sameUnits _ (fun u d => bump_sameUnits u _ d 1) _ _)

/-- The fields that no entry moved touches. -/
theorem moveEntry_rd (s : State) (c : Nat) (g : Fld) (k : Nat) (hb : F.DMA_CH_BYTES.BYTES.id ≠ g.id)
    (hm : ∀ e ∈ moveFlds, e.id ≠ g.id) : (moveEntry s c).rd g k = s.rd g k := by
  simp only [moveFlds, List.forall_mem_cons] at hm
  obtain ⟨hp, hc⟩ := hm
  rw [moveEntry, foldl_rd _ g k fun u d => bump_rd u _ d 1 g k hp hc]
  exact bump_rd s _ c 64 g k hb hc

/-- An index that advances shows its low 16 bits in the ring's register (Table 16-22). -/
theorem advanceDev_devIdx {s : State} (h : pcieReady s = true) (r n : Nat) (quiet : Bool) :
    (advanceDev s r n quiet).rd F.KIOSK_RING_STATUS.DEV_IDX r = ((getRing s r).devIdx + n) % 2 ^ 16 := by
  have hset : ∀ x, pcieReady (setRing s r x) = true := fun _ => h
  have hmod : ((getRing s r).devIdx + n) % 2 ^ 32 % 2 ^ 16 = ((getRing s r).devIdx + n) % 2 ^ 16 :=
    Nat.mod_mod_of_dvd _ (by decide)
  rw [advanceDev, hostPut_index (hset _), ite_rd rfl (ringSignal_rd _ _ _ _), bump_rd _ _ _ _ _ _ (by decide) (by decide), State.rd_wr_same]
  exact hmod

theorem State.SameUnits.rings {s t : State} (h : s.SameUnits t) : t.ko.rings = s.ko.rings := by rw [h]

/-- An entry that is moved leaves the Kiosk as ready as it was. -/
theorem moveEntry_pcieReady (s : State) (c : Nat) : pcieReady (moveEntry s c) = pcieReady s :=
  pcieReady_congr (moveEntry_sameUnits s c).glob fun f hf => by
    have hapart : ∀ f ∈ [F.KIOSK_STATUS.LINK_UP, F.KIOSK_STATUS.D3, F.KIOSK_STATUS.BME],
        F.DMA_CH_BYTES.BYTES.id ≠ f.id ∧ ∀ e ∈ moveFlds, e.id ≠ f.id := by decide
    obtain ⟨hbytes, hmove⟩ := hapart f hf
    exact moveEntry_rd s c f 0 hbytes hmove

/-- An entry that is moved leaves the rings. -/
theorem moveEntry_getRing (s : State) (c r : Nat) : getRing (moveEntry s c) r = getRing s r := by
  rw [getRing, getRing, (moveEntry_sameUnits s c).rings]

/-- An entry written advances its ring's index by one. -/
theorem writeEntry_devIdx {s : State} (h : pcieReady s = true) (r : Nat) (bytes : List Byte) (quiet : Bool) :
    (writeEntry s r bytes quiet).rd F.KIOSK_RING_STATUS.DEV_IDX r = ((getRing s r).devIdx + 1) % 2 ^ 16 := by
  have hemit : ∀ o, pcieReady (s.emit o) = true := fun _ => h
  rw [writeEntry, hostPut_entry h, advanceDev_devIdx ((moveEntry_pcieReady _ r).trans (hemit _)), moveEntry_getRing]
  rfl

/-- A record written on the event ring advances its index by one. -/
theorem writeEvent_devIdx {s : State} (h : pcieReady s = true) (e : EvRec) :
    (writeEvent s e).rd F.KIOSK_RING_STATUS.DEV_IDX 2 = ((getRing s 2).devIdx + 1) % 2 ^ 16 := by
  rw [writeEvent, signal_rd, State.rd_mk, State.regs_rd]
  exact writeEntry_devIdx h 2 _ true

/-- With no event lost, the oldest event is what goes onto a ring that takes one. -/
theorem writeOldest_writeLost {s : State} {e : EvRec} {q : List EvRec} (hq : s.ko.evq = e :: q) (hl : s.ko.evLost = 0)
    (h : eventReady s = true) : writeOldest (writeLost s) = writeEvent { s with ko := { s.ko with evq := q } } e := by
  rw [writeLost, if_pos hl]
  simp only [writeOldest, hq, if_pos h]

/-- The event ring takes a record only while the Kiosk may issue requests. -/
theorem pcieReady_of_eventReady {s : State} (h : eventReady s = true) : pcieReady s = true := by
  simp only [eventReady, Bool.and_eq_true] at h
  obtain ⟨⟨hpcie, -⟩, -⟩ := h
  exact hpcie

/-- EVENT_RECORD_WRITE with an event held and a ring that takes it is performed. -/
theorem exec_eventRecordWrite {s : State} {e : EvRec} {q : List EvRec} (hheld : s.held = false) (hq : s.ko.evq = e :: q)
    (h : eventReady s = true) : exec .eventRecordWrite s = .next (perform (fun s => writeOldest (writeLost s)) s) :=
  congrArg _ (run_eq _ _ s hheld (by simp [h, hq]))

/-- EVENT_RECORD_WRITE with no event lost leaves the low 16 bits of the event ring's index in its register. -/
theorem eventRecordWrite_devIdx {s t : State} {e : EvRec} {q : List EvRec} (hheld : s.held = false) (hq : s.ko.evq = e :: q)
    (hl : s.ko.evLost = 0) (h : eventReady s = true) (ht : exec .eventRecordWrite s = .next t) :
    t.rd F.KIOSK_RING_STATUS.DEV_IDX 2 = ((getRing s 2).devIdx + 1) % 2 ^ 16 := by
  have hready : ∀ o, eventReady { s with out := o } = true := fun _ => h
  have hevent : writeOldest (writeLost { s with out := [] }) = writeEvent { s with out := [], ko := { s.ko with evq := q } } e :=
    writeOldest_writeLost hq hl (hready [])
  obtain rfl := Host.Outcome.next.inj ((exec_eventRecordWrite hheld hq h).symm.trans ht)
  rw [perform_rd _ _ _ _ (by decide), hevent]
  exact writeEvent_devIdx (s := { s with out := [], ko := { s.ko with evq := q } }) (pcieReady_of_eventReady h) e

/-- Refutes O29: KIOSK_RING_STATUS.DEV_IDX holds DEV_IDX[15:0] (Table 16-22) of an index of 32 bits (R341), so after the record that
takes the index from 65,535 to 65,536 it reads 0. -/
theorem not_eventsAndInterruptsLeave : ¬ Obligations.EventsAndInterruptsLeave := by
  unfold Obligations.EventsAndInterruptsLeave
  intro h
  let e : EvRec := { kind := 4, code := 1, tb := 0, body := [] }
  let s : State :=
    { ((State.reset.wr F.KIOSK_STATUS.LINK_UP 0 1).wr F.KIOSK_STATUS.BME 0 1).wr F.KIOSK_RING_STATUS.STATE 2 rgRUN with
      glob := { coldHeld := false, perstHeld := false }
      ko := { rings := [(2, { hostIdx := 65535, devIdx := 65535 })], evq := [e] } }
  have hready : eventReady s = true := by decide
  obtain ⟨holdest, -⟩ := h s 0 rfl
  obtain ⟨t, ht, -, -, -, -, hclaimed, -⟩ := holdest e [] rfl rfl hready
  have hindex : (getRing s 2).devIdx = 65535 := rfl
  have hread : t.rd F.KIOSK_RING_STATUS.DEV_IDX 2 = ((getRing s 2).devIdx + 1) % 2 ^ 16 := eventRecordWrite_devIdx rfl rfl rfl hready ht
  rw [hclaimed, hindex] at hread
  exact absurd hread (by decide)

end Sys2Proof.Machine
end

section
/-! PROOFS. Operations in sequence: what the shared operations keep beside the registers, and what the operations on one Yargil lane keep. -/
namespace Sys2Proof.Machine

/-- A command whose condition holds, with no cold reset held, completes in the state that its effect leaves. -/
theorem completes_run {c : Instr} {cond : State → Bool} {f : State → State} {s : State} {P : State → Prop}
    (hexec : exec c s = .next (run cond f s)) (hheld : s.held = false) (hcond : cond s = true) (h : P (perform f s)) : Completes c s P :=
  ⟨_, hexec.trans (congrArg _ (run_eq _ _ _ hheld hcond)), h⟩

/-- A fold of a function that keeps a part of the state keeps it. -/
theorem foldl_keeps {α β : Type} (p : State → β) (f : State → α → State) (h : ∀ (s : State) a, p (f s a) = p s) (l : List α) (s : State) :
    p (l.foldl f s) = p s := by
  induction l generalizing s with
  | nil => rfl
  | cons a t ih => rw [List.foldl_cons, ih, h]

theorem ite_keeps {β : Type} {p : State → β} {c : Prop} [Decidable c] {s t u : State} (h : p t = p s) (h' : p u = p s) :
    p (if c then t else u) = p s := by split <;> assumption

theorem cntAdd_ko (s : State) (k n : Nat) : (cntAdd s k n).ko = s.ko := ite_keeps (p := State.ko) rfl rfl

/-- A count tells the Kiosk nothing. -/
theorem bump_ko (s : State) (f : Fld) (k n : Nat) : (bump s f k n).ko = s.ko := by
  rw [bump, belvAdd]
  exact ite_keeps (p := State.ko) (s := s.wr f k _) rfl (foldl_keeps _ _ (fun u c => ite_keeps (p := State.ko) (cntAdd_ko u c n) rfl) _ _)

theorem setErr_ko (s : State) (u : ErrUnit) (i info : Nat) : (setErr s u i info).ko = s.ko := by
  rw [setErr]
  exact ite_keeps (p := State.ko) (s := s) rfl rfl

theorem setAlert_ko (s : State) (i : Nat) : (setAlert s i).ko = s.ko := by
  rw [setAlert]
  exact ite_keeps (p := State.ko) rfl rfl

theorem setAlert_out (s : State) (i : Nat) : (setAlert s i).out = s.out := by
  rw [setAlert]
  exact ite_keeps (p := State.out) rfl rfl

theorem raise_out (s : State) (code : Nat) (args : List Nat) : (raise s code args).out = s.out := by
  rw [raise, pushEvent]
  exact ite_keeps (p := State.out) rfl rfl

/-- The clocks counted leave what neither a count nor a free value taken touches. -/
theorem countClocks_keeps {β : Type} (p : State → β) (hcnt : ∀ (u : State) c n, p (cntAdd u c n) = p u)
    (hfree : ∀ u : State, p u.takeFree.2 = p u) (s : State) (dt : Nat) : p (countClocks s dt) = p s := by
  refine ite_keeps (p := p) rfl (foldl_keeps p _ (fun u c => ?_) _ _)
  exact ite_keeps (p := p) (hcnt u c _) ((hcnt _ c _).trans (hfree u))

/-- The passing of time sends nothing out. -/
theorem advanceTo_out (s : State) (x : Nat) : (advanceTo s x).out = s.out :=
  ite_keeps (p := State.out) rfl (countClocks_keeps State.out cntAdd_out (fun _ => rfl) s _)

/-- The passing of time tells the Kiosk nothing. -/
theorem advanceTo_ko (s : State) (x : Nat) : (advanceTo s x).ko = s.ko :=
  ite_keeps (p := State.ko) rfl (countClocks_keeps State.ko cntAdd_ko (fun _ => rfl) s _)

/-- Events that wait go on waiting as another is raised. -/
theorem raise_evq (s : State) (code : Nat) (args : List Nat) : s.ko.evq <+: (raise s code args).ko.evq := by
  rw [raise, pushEvent]
  split
  · exact List.prefix_append _ _
  · exact List.prefix_refl _

/-- An event raised while the queue has room waits in it. -/
theorem raise_mem {s : State} {code : Nat} {args : List Nat} (h : s.ko.evq.length < 1024) :
    ∃ e ∈ (raise s code args).ko.evq, e.kind = 4 ∧ e.code = code ∧ e.body = argFields 16 args := by
  rw [raise, pushEvent, if_pos h]
  exact ⟨_, List.mem_append_right _ (List.mem_singleton.mpr rfl), rfl, rfl, rfl⟩

/-- The event that the effect of a command raised first waits after the command, if nothing took it out. -/
theorem raised_of_prefix {s u t : State} {code : Nat} {args : List Nat} (hu : u.ko.evq = s.ko.evq)
    (ht : (raise u code args).ko.evq <+: t.ko.evq) : s.Raised t 0 code args := fun hroom => by
  obtain ⟨e, he, h⟩ := raise_mem (s := u) (code := code) (args := args) (by rw [hu]; exact hroom)
  exact ⟨e, ht.subset he, h⟩

/-! The hidden state of the lanes. -/

@[simp] theorem getLane_setLane_same (s : State) (k : Nat) (x : Lane) : getLane (setLane s k x) k = x := by simp [getLane, setLane]

theorem getLane_setLane_other (s : State) {k j : Nat} (x : Lane) (h : j ≠ k) : getLane (setLane s k x) j = getLane s j := by
  simp [getLane, setLane, Ne.symm h]

@[simp] theorem setLane_rd (s : State) (k : Nat) (x : Lane) (g : Fld) (j : Nat) : (setLane s k x).rd g j = s.rd g j := rfl

theorem State.SameUnits.getLane {s t : State} (h : s.SameUnits t) (k : Nat) : getLane t k = getLane s k := by
  rw [Machine.getLane, Machine.getLane, h.yg]

/-- Work on lane k: it takes `d` units of time, sends out `o`, writes no other registers than the fields of `W` and copy k of the fields of
`L`, and of the units no other than the lane; events that waited go on waiting. -/
structure LaneOp (k : Nat) (W L : List Fld) (d : Nat) (o : List Output) (s t : State) : Prop where
  units : State.SameUnits { s with yg := { s.yg with lanes := t.yg.lanes }, tb := t.tb, el := t.el } t
  later : s.Later t d
  out : t.out = s.out ++ o
  others : ∀ j, j ≠ k → getLane t j = getLane s j
  regs : ∀ g j, (∀ e ∈ W, e.id ≠ g.id) → (j = k → ∀ e ∈ L, e.id ≠ g.id) → t.rd g j = s.rd g j
  events : s.ko.evq <+: t.ko.evq

namespace LaneOp

variable {k : Nat} {W L : List Fld} {d : Nat} {o : List Output} {s t u : State}

theorem refl : LaneOp k W L 0 [] s s :=
  ⟨rfl, ⟨rfl, rfl⟩, (List.append_nil _).symm, fun _ _ => rfl, fun _ _ _ _ => rfl, List.prefix_refl _⟩

theorem trans_units (h : State.SameUnits { s with yg := { s.yg with lanes := t.yg.lanes }, tb := t.tb, el := t.el } t)
    (h' : State.SameUnits { t with yg := { t.yg with lanes := u.yg.lanes }, tb := u.tb, el := u.el } u) :
    State.SameUnits { s with yg := { s.yg with lanes := u.yg.lanes }, tb := u.tb, el := u.el } u := by
  unfold State.SameUnits at *
  rw [h']
  rw [h]

/-- Work of no time that sends nothing out, after other work. -/
theorem andThen (h : LaneOp k W L d o s t) (h' : LaneOp k W L 0 [] t u) : LaneOp k W L d o s u where
  units := trans_units h.units h'.units
  later := ⟨h'.later.1.trans h.later.1, h'.later.2.trans h.later.2⟩
  out := by rw [h'.out, List.append_nil, h.out]
  others j hj := (h'.others j hj).trans (h.others j hj)
  regs g j hW hL := (h'.regs g j hW hL).trans (h.regs g j hW hL)
  events := h.events.trans h'.events

/-- Work that sends something out, after work that sent out nothing. -/
theorem trans (h : LaneOp k W L d [] s t) (h' : LaneOp k W L 0 o t u) : LaneOp k W L d o s u where
  units := trans_units h.units h'.units
  later := ⟨h'.later.1.trans h.later.1, h'.later.2.trans h.later.2⟩
  out := by rw [h'.out, h.out, List.append_nil]
  others j hj := (h'.others j hj).trans (h.others j hj)
  regs g j hW hL := (h'.regs g j hW hL).trans (h.regs g j hW hL)
  events := h.events.trans h'.events

theorem ite {c : Prop} [Decidable c] (h : c → LaneOp k W L d o s t) (h' : ¬ c → LaneOp k W L d o s u) :
    LaneOp k W L d o s (if c then t else u) := by
  split
  · exact h ‹_›
  · exact h' ‹_›

/-- An operation that keeps every unit. -/
theorem of_sameUnits (h : s.SameUnits t) (hout : t.out = s.out)
    (hregs : ∀ g j, (∀ e ∈ W, e.id ≠ g.id) → (j = k → ∀ e ∈ L, e.id ≠ g.id) → t.rd g j = s.rd g j) (hev : s.ko.evq <+: t.ko.evq) :
    LaneOp k W L 0 [] s t where
  units := by rw [h.yg, h.tb, h.el]; exact h
  later := ⟨h.tb, h.el⟩
  out := by rw [hout, List.append_nil]
  others j _ := h.getLane j
  regs := hregs
  events := hev

theorem wr {f : Fld} (hf : f ∈ W ++ L) (v : Nat) : LaneOp k W L 0 [] s (s.wr f k v) :=
  of_sameUnits rfl rfl (fun g j hW hL => by
    rw [State.rd_wr, if_neg]
    rintro ⟨hid, rfl⟩
    rcases List.mem_append.mp hf with h | h
    · exact hW f h hid
    · exact hL rfl f h hid) (List.prefix_refl _)

theorem bump {f : Fld} (hf : f ∈ W ++ L) (hc : cntFlds ⊆ W) (n : Nat) : LaneOp k W L 0 [] s (bump s f k n) :=
  of_sameUnits (bump_sameUnits _ _ _ _) (bump_out _ _ _ _) (fun g j hW hL =>
    (belvAdd_rd _ _ _ g j fun e he => hW e (hc he)).trans ((wr hf _).regs g j hW hL)) (by rw [bump_ko])

theorem setErr {v : ErrUnit} (hv : v.flds ⊆ W) (i info : Nat) : LaneOp k W L 0 [] s (setErr s v i info) :=
  of_sameUnits (setErr_sameUnits _ _ _ _) (setErr_out _ _ _ _) (fun g j hW _ => setErr_rd_flds _ _ _ _ g j fun e he => hW e (hv he))
    (by rw [setErr_ko])

theorem raise (code : Nat) (args : List Nat) : LaneOp k W L 0 [] s (raise s code args) :=
  of_sameUnits (raise_sameUnits _ _ _) (raise_out _ _ _) (fun _ _ _ _ => raise_rd _ _ _ _ _) (raise_evq _ _ _)

theorem setLane (x : Lane) : LaneOp k W L 0 [] s (setLane s k x) :=
  ⟨rfl, ⟨rfl, rfl⟩, (List.append_nil _).symm, fun _ hj => getLane_setLane_other s x hj, fun _ _ _ _ => rfl, List.prefix_refl _⟩

theorem emit (m : Output) : LaneOp k W L 0 [m] s (s.emit m) :=
  ⟨rfl, ⟨rfl, rfl⟩, rfl, fun _ _ => rfl, fun _ _ _ _ => rfl, List.prefix_refl _⟩

theorem enterLane (h : F.YG_LANE_STATUS.STATE ∈ W ++ L) (st : Nat) : LaneOp k W L 0 [] s (enterLane s k st) :=
  (wr h st).andThen (setLane _)

theorem laneCount (i n : Nat) : LaneOp k W L 0 [] s (laneCount s k i n) := setLane _

theorem wrAll {l : List (Fld × Nat)} (h : ∀ e ∈ l, e.1 ∈ W ++ L) : LaneOp k W L 0 [] s (wrAll s k l) := by
  induction l generalizing s with
  | nil => exact refl
  | cons e t ih => exact (wr (h e List.mem_cons_self) _).andThen (ih fun e he => h e (List.mem_cons_of_mem _ he))

/-- The passing of time up to an instant of the timebase. -/
theorem advanceTo (hc : cntFlds ⊆ W) (x : Nat) : LaneOp k W L (x - s.tb) [] s (advanceTo s x) where
  units := by
    rw [advanceTo_tb, advanceTo_el]
    exact (congrArg (fun y => State.SameUnits { s with yg := { s.yg with lanes := y.lanes }, tb := _, el := _ } _)
      (advanceTo_sameUnits s x).yg).mpr (advanceTo_sameUnits s x)
  later := ⟨(advanceTo_tb s x).trans (by omega), advanceTo_el s x⟩
  out := by rw [advanceTo_out, List.append_nil]
  others j _ := by rw [getLane, getLane, (advanceTo_sameUnits s x).yg]
  regs g j hW _ := advanceTo_rd s x g j fun e he => hW e (hc he)
  events := by rw [advanceTo_ko]

/-- The passing of time up to an elapsed time. -/
theorem advanceEl (hc : cntFlds ⊆ W) (e : Nat) : LaneOp k W L (e - s.el) [] s (advanceEl s e) := by
  have h := advanceTo (k := k) (W := W) (L := L) (s := s) hc (s.tb + (e - s.el))
  rwa [Nat.add_sub_cancel_left] at h

theorem getLane_advanceEl (s : State) (e j : Nat) : getLane (Machine.advanceEl s e) j = getLane s j := by
  rw [getLane, getLane, Machine.advanceEl, (advanceTo_sameUnits _ _).yg]

/-- A field that the work does not write. -/
theorem rd (h : LaneOp k W L d o s t) (g : Fld) (j : Nat) (hW : ∀ e ∈ W, e.id ≠ g.id) (hL : ∀ e ∈ L, e.id ≠ g.id) : t.rd g j = s.rd g j :=
  h.regs g j hW fun _ => hL

end LaneOp

/-- The hidden state of a lane after a command is that which its effect left. -/
theorem perform_getLane (f : State → State) (s : State) (j : Nat) : getLane (perform f s) j = getLane (f { s with out := [] }) j := by
  rw [getLane, getLane, (perform_sameUnits f s).yg]

section
variable {k : Nat} {W L : List Fld} {d : Nat} {o : List Output} {f : State → State} {s : State}

theorem perform_tb (f : State → State) (s : State) : (perform f s).tb = (f { s with out := [] }).tb := (perform_sameUnits f s).tb
theorem perform_el (f : State → State) (s : State) : (perform f s).el = (f { s with out := [] }).el := (perform_sameUnits f s).el

/-- A command whose effect is work on a lane leaves the registers that the work leaves. -/
theorem LaneOp.sameRegs (h : LaneOp k W L d o { s with out := [] } (f { s with out := [] })) :
    s.SameRegs (perform f s) W (L.map fun e => (e, k)) :=
  perform_sameRegs fun g j hW hL => h.regs g j hW fun hj e he hid => hL (e, k) (List.mem_map_of_mem he) (by rw [hid, hj])

theorem LaneOp.performLater (h : LaneOp k W L d o { s with out := [] } (f { s with out := [] })) : s.Later (perform f s) d :=
  ⟨(perform_tb f s).trans h.later.1, (perform_el f s).trans h.later.2⟩

theorem LaneOp.performOut (h : LaneOp k W L d o { s with out := [] } (f { s with out := [] })) : (perform f s).out = o :=
  (perform_out f s).trans h.out

theorem LaneOp.performOthers (h : LaneOp k W L d o { s with out := [] } (f { s with out := [] })) :
    ∀ j, j ≠ k → getLane (perform f s) j = getLane s j := fun j hj => (perform_getLane f s j).trans (h.others j hj)

/-- Such a command leaves every unit but the lane and the time. -/
theorem LaneOp.performUnits (h : LaneOp k W L d o { s with out := [] } (f { s with out := [] })) :
    State.SameUnits { s with yg := { s.yg with lanes := (perform f s).yg.lanes }, tb := (perform f s).tb, el := (perform f s).el } (perform f s) := by
  rw [(perform_sameUnits f s).yg, perform_tb, perform_el]
  exact perform_keepsUnits h.units rfl

/-- Such a command of no time leaves every unit but the lane. -/
theorem LaneOp.performUnits_zero (h : LaneOp k W L 0 o { s with out := [] } (f { s with out := [] })) :
    State.SameUnits { s with yg := { s.yg with lanes := (perform f s).yg.lanes } } (perform f s) := by
  have hu := h.performUnits
  obtain ⟨htb, hel⟩ := h.performLater
  rw [htb, hel] at hu
  exact hu

end

end Sys2Proof.Machine
end

section
/-! PROOFS. The training of a lane (R95, R96, R100 to R102, Table 4-7). -/
namespace Sys2Proof.Machine

/-! The fields of a lane that are written together. -/

theorem wrAll_rd_other {l : List (Fld × Nat)} (s : State) (k : Nat) (g : Fld) (j : Nat) (h : ∀ e ∈ l, e.1.id ≠ g.id) :
    (wrAll s k l).rd g j = s.rd g j := by
  induction l generalizing s with
  | nil => rfl
  | cons e t ih =>
    exact (ih _ fun e he => h e (List.mem_cons_of_mem _ he)).trans (State.rd_wr_other _ _ _ _ _ _ (h e List.mem_cons_self))

/-- Each of a list of fields known by their ids holds the value written to it. -/
theorem wrAll_zip_rd {fs : List Fld} (hfs : (fs.map Fld.id).Nodup) (vs : List Nat) (s : State) (k : Nat) :
    ∀ e ∈ fs.zip vs, (wrAll s k (fs.zip vs)).rd e.1 k = e.2 % 2 ^ e.1.width := by
  induction fs generalizing vs s with
  | nil => simp
  | cons f fs ih =>
    cases vs with
    | nil => simp
    | cons v vs =>
      obtain ⟨hnot, hrest⟩ := List.nodup_cons.mp hfs
      intro e he
      rcases List.mem_cons.mp he with rfl | he
      · refine (wrAll_rd_other (l := fs.zip vs) _ _ _ _ fun d hd hid => hnot ?_).trans (State.rd_wr_same s f k v)
        exact List.mem_map.mpr ⟨d.1, (List.of_mem_zip hd).1, hid⟩
      · exact ih hrest vs _ e he

/-- Every tap holds the code of the setting written to it. -/
theorem wrAll_taps_rd (s : State) (k : Nat) (taps : List Int) :
    ∀ e ∈ tapFields.zip taps, (wrAll s k (tapFields.zip (taps.map (unsigned 8)))).rd e.1 k = unsigned 8 e.2 := by
  intro e he
  have hmem : (e.1, unsigned 8 e.2) ∈ tapFields.zip (taps.map (unsigned 8)) := by
    rw [List.zip_map_right]
    exact List.mem_map_of_mem (f := Prod.map id (unsigned 8)) he
  have hwidth : ∀ f ∈ tapFields, f.width = 8 := by decide
  have hlt : unsigned 8 e.2 < 2 ^ 8 := by
    unfold unsigned
    omega
  rw [wrAll_zip_rd (by decide) _ _ _ _ hmem, hwidth _ (List.of_mem_zip he).1, Nat.mod_eq_of_lt hlt]

theorem getLane_wrAll (s : State) (k : Nat) (l : List (Fld × Nat)) (j : Nat) : getLane (wrAll s k l) j = getLane s j :=
  (foldl_sameUnits (fun u (e : Fld × Nat) => u.wr e.1 k e.2) (fun u e => State.wr_sameUnits u e.1 k e.2) l s).getLane j

/-! The state of a lane. -/

theorem getLane_enterLane (s : State) (k st : Nat) :
    getLane (enterLane s k st) k = { getLane s k with train := { (getLane s k).train with stateAt := s.el } } :=
  getLane_setLane_same _ _ _

theorem laneState_enterLane (s : State) (k : Nat) {st : Nat} (h : st < 8) : laneState (enterLane s k st) k = st :=
  (State.rd_wr_same _ _ _ _).trans (Nat.mod_eq_of_lt h)

/-- Work that does not write the lane's state leaves it. -/
theorem LaneOp.laneState {k : Nat} {W L : List Fld} {d : Nat} {o : List Output} {s t : State} (h : LaneOp k W L d o s t)
    (hW : ∀ e ∈ W, e.id ≠ F.YG_LANE_STATUS.STATE.id) (hL : ∀ e ∈ L, e.id ≠ F.YG_LANE_STATUS.STATE.id) : laneState t k = laneState s k :=
  h.rd _ _ hW hL

theorem perform_laneState (f : State → State) (s : State) (k : Nat) : laneState (perform f s) k = laneState (f { s with out := [] }) k :=
  perform_rd _ _ _ _ (by decide)

/-- Beside lane k and the time, t is s. -/
def State.OnlyLane (s t : State) (k : Nat) : Prop :=
  (∀ j, j ≠ k → getLane t j = getLane s j) ∧
  State.SameUnits { s with yg := { s.yg with lanes := t.yg.lanes }, tb := t.tb, el := t.el } t

/-- A command whose effect is work on a lane completes: the time passes that the work takes, what the work sends goes out, and the
registers and units that the work leaves are left. -/
theorem completes_lane {c : Instr} {cond : State → Bool} {f : State → State} {s u : State} {P : State → Prop} (k : Nat) (W L : List Fld)
    {d : Nat} {o : List Output} (hexec : exec c s = .next (run cond f s)) (hheld : s.held = false) (hcond : cond s = true)
    (hu : f { s with out := [] } = u) (hop : LaneOp k W L d o { s with out := [] } u)
    (h : s.Later (perform (fun _ => u) s) d → (perform (fun _ => u) s).out = o →
      s.SameRegs (perform (fun _ => u) s) W (L.map fun e => (e, k)) → s.OnlyLane (perform (fun _ => u) s) k → P (perform (fun _ => u) s)) :
    Completes c s P := by
  subst hu
  exact completes_run hexec hheld hcond (h hop.performLater hop.performOut hop.sameRegs ⟨hop.performOthers, hop.performUnits⟩)

/-! Signal, clock and equaliser. -/

/-- The signal of a lane starts its training timer (R101). -/
theorem signalDetect_completes {s : State} {k : Fin 64} (hs : s.held = false) (hst : laneState s k = lnSIGNAL_WAIT) :
    Completes (.signalDetect k) s fun t =>
      laneState t k = lnCDR ∧ t.rd F.YG_LANE_STATUS.LOS k = 0 ∧
      getLane t k = { getLane s k with train := { (getLane s k).train with timerAt := s.el, stateAt := s.el } } ∧ s.Later t 0 ∧ t.out = [] ∧
      s.SameRegs t [] [(F.YG_LANE_STATUS.STATE, k.val), (F.YG_LANE_STATUS.LOS, k.val)] ∧ s.OnlyLane t k := by
  refine completes_lane k [] [F.YG_LANE_STATUS.STATE, F.YG_LANE_STATUS.LOS] rfl hs (decide_eq_true hst) rfl
    (((LaneOp.wr (by simp) 0).andThen (.enterLane (by simp) lnCDR)).andThen (.setLane _))
    fun hlater hout hregs honly => ⟨?_, ?_, ?_, hlater, hout, hregs, honly⟩
  · rw [perform_laneState]
    exact laneState_enterLane _ _ (by decide)
  · rw [perform_rd _ _ _ _ (by decide)]
    exact (State.rd_wr_other _ _ _ _ _ _ (by decide)).trans (State.rd_wr_same _ _ _ _)
  · rw [perform_getLane]
    exact (getLane_setLane_same _ _ _).trans (by rw [getLane_enterLane]; rfl)

theorem startAdapt_op {k : Nat} {W L : List Fld} {s : State} (h : ∀ f ∈ eqFields, f ∈ W ++ L) : LaneOp k W L 0 [] s (startAdapt s k) :=
  .ite (fun _ => .wrAll fun _ he => h _ (List.of_mem_zip he).1) fun _ => .refl

theorem getLane_startAdapt (s : State) (k j : Nat) : getLane (startAdapt s k) j = getLane s j :=
  ite_keeps (p := (getLane · j)) (getLane_wrAll _ _ _ _) rfl

/-- The equaliser starts from its defaults or from its last values (R102). -/
theorem startAdapt_rd (s : State) (k : Nat) : ∀ e ∈ eqFields.zip ((List.range 14).map Config.eqDefault),
    (startAdapt s k).rd e.1 k = if s.rd F.YG_LANE_CTL.COLD_TRAIN k = 1 then e.2 % 2 ^ e.1.width else s.rd e.1 k := by
  intro e he
  rw [startAdapt]
  split
  · exact wrAll_zip_rd (by decide) _ _ _ _ he
  · rfl

/-- The clock of a lane is recovered within its time (R95, R101), and the equaliser starts (R102). -/
theorem cdrLock_completes {s : State} {k : Fin 64} {ppm : Int} (hs : s.held = false) (hst : laneState s k = lnCDR)
    (hppm : ppm.natAbs ≤ 2000) (htimer : s.el ≤ (getLane s k).train.timerAt + 2 * msUnits) :
    Completes (.cdrLock k ppm) s fun t =>
      laneState t k = lnADAPT ∧ t.rd F.YG_LANE_STATUS.CDR_LOCK k = 1 ∧ t.rd F.YG_LANE_STATUS.PPM k = unsigned 16 ppm ∧
      getLane t k = { getLane s k with train := { (getLane s k).train with stateAt := s.el } } ∧ s.Later t 0 ∧ t.out = [] ∧
      (∀ e ∈ eqFields.zip ((List.range 14).map Config.eqDefault), t.rd e.1 k =
        if s.rd F.YG_LANE_CTL.COLD_TRAIN k = 1 then e.2 % 2 ^ e.1.width else s.rd e.1 k) ∧
      s.SameRegs t [] ((F.YG_LANE_STATUS.STATE :: F.YG_LANE_STATUS.CDR_LOCK :: F.YG_LANE_STATUS.PPM :: eqFields).map fun f => (f, k.val)) ∧
      s.OnlyLane t k := by
  have hstart : ∀ (u : State) (g : Fld), (∀ e ∈ eqFields, e.id ≠ g.id) → (startAdapt u k).rd g k = u.rd g k := fun u g hg =>
    (startAdapt_op (k := k) (W := []) (L := eqFields) (s := u) fun _ h => h).rd g k (by simp) hg
  have hunsigned : unsigned 16 ppm < 2 ^ 16 := by
    unfold unsigned
    omega
  refine completes_lane k [] (F.YG_LANE_STATUS.STATE :: F.YG_LANE_STATUS.CDR_LOCK :: F.YG_LANE_STATUS.PPM :: eqFields) rfl hs
    (by simp [hst, hppm, withinTimer, htimer]) rfl
    ((((LaneOp.wr (by simp) 1).andThen (.wr (by simp) (unsigned 16 ppm))).andThen (.enterLane (by simp) lnADAPT)).andThen
      (startAdapt_op fun f hf => by simp [hf]))
    fun hlater hout hregs honly => ⟨?_, ?_, ?_, ?_, hlater, hout, ?_, hregs, honly⟩
  · rw [perform_laneState, laneState, hstart _ _ (by decide)]
    exact laneState_enterLane _ _ (by decide)
  · rw [perform_rd _ _ _ _ (by decide), hstart _ _ (by decide)]
    exact (State.rd_wr_other _ _ _ _ _ _ (by decide)).trans ((State.rd_wr_other _ _ _ _ _ _ (by decide)).trans (State.rd_wr_same _ _ _ _))
  · rw [perform_rd _ _ _ _ (by decide), hstart _ _ (by decide)]
    exact (State.rd_wr_other _ _ _ _ _ _ (by decide)).trans ((State.rd_wr_same _ _ _ _).trans (Nat.mod_eq_of_lt hunsigned))
  · rw [perform_getLane, getLane_startAdapt, getLane_enterLane]
    rfl
  · intro e he
    have hmem : ∀ f ∈ eqFields, (∀ d ∈ endFlds, d.id ≠ f.id) ∧ F.YG_LANE_STATUS.STATE.id ≠ f.id ∧ F.YG_LANE_STATUS.CDR_LOCK.id ≠ f.id ∧
        F.YG_LANE_STATUS.PPM.id ≠ f.id ∧ F.YG_LANE_CTL.COLD_TRAIN.id ≠ f.id := by decide
    obtain ⟨hend, hstate, hcdr, hppm', -⟩ := hmem _ (List.of_mem_zip he).1
    rw [perform_rd _ _ _ _ hend, startAdapt_rd _ _ _ he]
    have hkept : ∀ g : Fld, F.YG_LANE_STATUS.STATE.id ≠ g.id → F.YG_LANE_STATUS.CDR_LOCK.id ≠ g.id → F.YG_LANE_STATUS.PPM.id ≠ g.id →
        (enterLane ((({ s with out := [] } : State).wr F.YG_LANE_STATUS.CDR_LOCK k 1).wr F.YG_LANE_STATUS.PPM k (unsigned 16 ppm)) k lnADAPT).rd g k =
          s.rd g k := fun g h1 h2 h3 =>
      (State.rd_wr_other _ _ _ _ _ _ h1).trans ((State.rd_wr_other _ _ _ _ _ _ h3).trans (State.rd_wr_other _ _ _ _ _ _ h2))
    rw [hkept _ (by decide) (by decide) (by decide), hkept _ hstate hcdr hppm']

/-- The equaliser of a lane is settled within its time, and the tuning of its transmitter begins (R96, R100, R101). -/
theorem adaptDone_completes {s : State} {k : Fin 64} {ctle vga : Nat} {taps : List Int} (hs : s.held = false) (hst : laneState s k = lnADAPT)
    (htimer : s.el ≤ (getLane s k).train.timerAt + 12 * msUnits) :
    Completes (.adaptDone k ctle vga taps) s fun t =>
      laneState t k = lnTX_TRAIN ∧ t.rd F.YG_LANE_EQ.CTLE k = ctle % 16 ∧ t.rd F.YG_LANE_EQ.VGA k = vga % 256 ∧
      (∀ e ∈ tapFields.zip taps, t.rd e.1 k = unsigned 8 e.2) ∧ t.rd F.YG_LANE_STATUS.TXEQ_TIMEOUT k = 0 ∧
      getLane t k = { getLane s k with train :=
        { (getLane s k).train with
          stateAt := s.el, requests := 0, preReq := 0, postReq := 0, matchAt := s.el, reqAt := s.el,
          fin := decide (s.rd F.YG_LANE_CTL.TXEQ_SKIP k = 1), sent := 0,
          txFrom := if s.rd F.YG_LANE_CTL.COLD_TRAIN k = 1 then (Config.eqDefault 14, Config.eqDefault 15)
            else (s.rd F.YG_LANE_EQ.TX_PRE k, s.rd F.YG_LANE_EQ.TX_POST k) } } ∧ s.Later t 0 ∧ t.out = [] ∧
      s.SameRegs t [] ((F.YG_LANE_STATUS.STATE :: F.YG_LANE_STATUS.TXEQ_TIMEOUT :: F.YG_LANE_EQ.CTLE :: F.YG_LANE_EQ.VGA :: tapFields).map
        fun f => (f, k.val)) ∧ s.OnlyLane t k := by
  have htaps : ∀ (u : State) (g : Fld), (∀ e ∈ tapFields, e.id ≠ g.id) →
      (wrAll u k (tapFields.zip (taps.map (unsigned 8)))).rd g k = u.rd g k := fun u g hg =>
    wrAll_rd_other _ _ _ _ fun e he => hg _ (List.of_mem_zip he).1
  have hstate : ∀ (u : State) (g : Fld), F.YG_LANE_STATUS.STATE.id ≠ g.id → F.YG_LANE_STATUS.TXEQ_TIMEOUT.id ≠ g.id →
      (enterLane (u.wr F.YG_LANE_STATUS.TXEQ_TIMEOUT k 0) k lnTX_TRAIN).rd g k = u.rd g k := fun u g h1 h2 =>
    (State.rd_wr_other _ _ _ _ _ _ h1).trans (State.rd_wr_other _ _ _ _ _ _ h2)
  refine completes_lane k [] (F.YG_LANE_STATUS.STATE :: F.YG_LANE_STATUS.TXEQ_TIMEOUT :: F.YG_LANE_EQ.CTLE :: F.YG_LANE_EQ.VGA :: tapFields) rfl hs
    (by simp [hst, withinTimer, htimer]) rfl
    ((((((LaneOp.wr (by simp) ctle).andThen (.wr (by simp) vga)).andThen
      (.wrAll fun e he => by simp [(List.of_mem_zip he).1])).andThen (.wr (by simp) 0)).andThen (.enterLane (by simp) lnTX_TRAIN)).andThen (.setLane _))
    fun hlater hout hregs honly => ⟨?_, ?_, ?_, ?_, ?_, ?_, hlater, hout, hregs, honly⟩
  · rw [perform_laneState]
    exact laneState_enterLane _ _ (by decide)
  · rw [perform_rd _ _ _ _ (by decide), setLane_rd, hstate _ _ (by decide) (by decide), htaps _ _ (by decide),
      State.rd_wr_other _ _ _ _ _ _ (by decide), State.rd_wr_same]
    rfl
  · rw [perform_rd _ _ _ _ (by decide), setLane_rd, hstate _ _ (by decide) (by decide), htaps _ _ (by decide), State.rd_wr_same]
    rfl
  · intro e he
    have hmem : ∀ f ∈ tapFields, (∀ d ∈ endFlds, d.id ≠ f.id) ∧ F.YG_LANE_STATUS.STATE.id ≠ f.id ∧
        F.YG_LANE_STATUS.TXEQ_TIMEOUT.id ≠ f.id := by decide
    obtain ⟨hend, h1, h2⟩ := hmem _ (List.of_mem_zip he).1
    rw [perform_rd _ _ _ _ hend, setLane_rd, hstate _ _ h1 h2]
    exact wrAll_taps_rd _ _ _ _ he
  · rw [perform_rd _ _ _ _ (by decide), setLane_rd]
    exact (State.rd_wr_other _ _ _ _ _ _ (by decide)).trans (State.rd_wr_same _ _ _ _)
  · rw [perform_getLane, getLane_setLane_same, getLane_enterLane]
    have hlane : ∀ u : State, getLane (u.wr F.YG_LANE_STATUS.TXEQ_TIMEOUT k 0) k = getLane u k := fun _ => rfl
    have hel : (wrAll ((({ s with out := [] } : State).wr F.YG_LANE_EQ.CTLE k ctle).wr F.YG_LANE_EQ.VGA k vga) k
        (tapFields.zip (taps.map (unsigned 8)))).el = s.el :=
      (foldl_keeps State.el (fun (u : State) (e : Fld × Nat) => u.wr e.1 k e.2) (fun _ _ => rfl) _ _).trans rfl
    rw [hlane, getLane_wrAll, State.wr_el, hel]
    rfl

end Sys2Proof.Machine
end

section
/-! PROOFS. The reports and requests of TX_TRAIN (R100), and the training of a lane as a whole. -/
namespace Sys2Proof.Machine

/-- What a report carries of the hidden state of its lane: the request and the counts. -/
def Lane.reported (x : Lane) : (Nat × Nat × Nat) × List Nat := ((x.train.reqNum, x.train.preReq, x.train.postReq), x.counts)

/-- The fields that a report looks at. -/
def reportFlds : List Fld := [F.YG_LANE_STATUS.STATE, F.YG_LANE_STATUS.DEGRADED, F.YG_LANE_CTL.ROLE, F.YG_CFG.MIRROR_EN]

theorem effRole_congr {s t : State} {k : Nat} (hrole : t.rd F.YG_LANE_CTL.ROLE k = s.rd F.YG_LANE_CTL.ROLE k)
    (hmirror : t.rd F.YG_CFG.MIRROR_EN 0 = s.rd F.YG_CFG.MIRROR_EN 0) : effRole t k = effRole s k := by
  rw [effRole, effRole, hrole, hmirror]

/-- Two states that agree in what a report carries make the same report. -/
theorem laneReport_congr {s t : State} {k : Nat} (hlane : (getLane t k).reported = (getLane s k).reported)
    (hregs : ∀ f ∈ reportFlds, ∀ j, t.rd f j = s.rd f j) (htb : t.tb = s.tb) : laneReport t k = laneReport s k := by
  simp only [Lane.reported, Prod.mk.injEq] at hlane
  obtain ⟨⟨hreq, hpre, hpost⟩, hcounts⟩ := hlane
  simp only [reportFlds, List.forall_mem_cons] at hregs
  obtain ⟨hstate, hdegraded, hrole, hmirror, -⟩ := hregs
  have hsec : t.sec = s.sec := by rw [State.sec, State.sec, htb]
  have hns : t.ns = s.ns := by rw [State.ns, State.ns, htb]
  rw [laneReport, laneReport, laneState, laneState, effRole_congr (hrole k) (hmirror 0), hreq, hpre, hpost, hcounts, hstate, hdegraded, hsec, hns]

theorem trainReport_congr {s t : State} {k : Nat} (hlane : getLane t k = getLane s k)
    (hregs : ∀ f ∈ reportFlds, ∀ j, t.rd f j = s.rd f j) (htb : t.tb = s.tb) (hel : t.el = s.el) (j : Nat) :
    trainReport t k j = trainReport s k j := by
  have hat : codewordAt t k j = codewordAt s k j := by rw [codewordAt, codewordAt, hlane]
  have hstart : ∀ x, laneReport { t with tb := x } k = laneReport { s with tb := x } k := fun x =>
    laneReport_congr (congrArg Lane.reported hlane) hregs rfl
  rw [trainReport, trainReport, hat, htb, hel]
  exact hstart _

/-- The reports of TX_TRAIN due on lane k (R100): the first carries the counts, the others counts of zero. -/
def trainSent (s : State) (k : Nat) : List Output :=
  let x := getLane s k
  let n := codewordsBy s k
  if n ≤ x.train.sent then []
  else .report k (trainReport s k x.train.sent) :: (List.range' (x.train.sent + 1) (n - x.train.sent - 1)).map fun j =>
    .report k (trainReport (setLane s k { x with counts := [0, 0, 0, 0, 0], train := { x.train with sent := n } }) k j)

theorem trainSent_length (s : State) (k : Nat) : (trainSent s k).length = codewordsBy s k - (getLane s k).train.sent := by
  rw [trainSent]
  split
  · rw [List.length_nil]
    omega
  · rw [List.length_cons, List.length_map, List.length_range']
    omega

theorem mem_trainSent {s : State} {k : Nat} : ∀ m ∈ trainSent s k, ∃ r, m = .report k r := by
  intro m hm
  rw [trainSent] at hm
  split at hm
  · exact absurd hm List.not_mem_nil
  · rcases List.mem_cons.mp hm with rfl | hm
    · exact ⟨_, rfl⟩
    · obtain ⟨j, -, rfl⟩ := List.mem_map.mp hm
      exact ⟨_, rfl⟩

theorem trainSent_head {s : State} {k : Nat} (h : (getLane s k).train.sent < codewordsBy s k) :
    (trainSent s k).head? = some (.report k (trainReport s k (getLane s k).train.sent)) := by
  rw [trainSent, if_neg (Nat.not_le.mpr h), List.head?_cons]

/-- Reports sent one after another, none of which looks at what was sent before. -/
theorem foldl_emit_report (k : Nat) (l : List Nat) (s : State) :
    l.foldl (fun s j => s.emit (.report k (trainReport s k j))) s = { s with out := s.out ++ l.map fun j => .report k (trainReport s k j) } := by
  induction l generalizing s with
  | nil => simp
  | cons j t ih =>
    rw [List.foldl_cons, ih, List.map_cons, State.emit_out, List.append_assoc]
    rfl

/-- The lane after the reports of TX_TRAIN that are due. -/
theorem getLane_trainReports (s : State) (k : Nat) :
    getLane (trainReports s k) k = { getLane s k with
      counts := if (getLane s k).train.sent < codewordsBy s k then [0, 0, 0, 0, 0] else (getLane s k).counts
      train := { (getLane s k).train with sent := max (getLane s k).train.sent (codewordsBy s k) } } := by
  rw [trainReports]
  split
  · rw [if_neg (by omega), max_eq_left (by assumption)]
  · rw [if_pos (by omega), max_eq_right (by omega), foldl_emit_report]
    exact getLane_setLane_same _ _ _

theorem trainReports_op {k : Nat} {W L : List Fld} {s : State} : LaneOp k W L 0 (trainSent s k) s (trainReports s k) := by
  rw [trainReports, trainSent]
  split
  · exact .refl
  · rw [foldl_emit_report]
    exact ⟨rfl, ⟨rfl, rfl⟩, List.append_assoc s.out [_] _, fun _ hj => getLane_setLane_other s _ hj, fun _ _ _ _ => rfl,
      List.prefix_refl _⟩

/-- The reports that t sent on lane k as TX_TRAIN went on: one to a codeword that has started, the first with the counts, which start anew;
the reading of clocks and registers is that of u. -/
def Reported (s u t : State) (k : Nat) (T' : LaneTrain) : Prop :=
  let n := codewordsBy u k
  let T := (getLane s k).train
  getLane t k = { getLane s k with counts := if T.sent < n then [0, 0, 0, 0, 0] else (getLane s k).counts, train := { T' with sent := max T.sent n } } ∧
  t.out.length = n - T.sent ∧ (∀ o ∈ t.out, ∃ r, o = .report k r) ∧ (T.sent < n → t.out.head? = some (.report k (trainReport u k T.sent)))

/-- The reports due in v are those of a state u that has the same clock and reads the same. -/
theorem Reported.of_trainSent {s u v t : State} {k : Nat} (U : LaneTrain → LaneTrain) (hU : ∀ T n, U { T with sent := n } = { U T with sent := n })
    (hs : getLane v k = getLane s k) (hu : getLane u k = getLane s k) (hregs : ∀ f ∈ reportFlds, ∀ j, u.rd f j = v.rd f j) (htb : u.tb = v.tb)
    (hel : u.el = v.el) (hout : t.out = trainSent v k)
    (hlane : getLane t k = { getLane (trainReports v k) k with train := U (getLane (trainReports v k) k).train }) :
    Reported s u t k (U (getLane s k).train) := by
  have hn : codewordsBy u k = codewordsBy v k := by rw [codewordsBy, codewordsBy, hel, hu, hs]
  rw [Reported, hn, ← hs, hout]
  refine ⟨?_, trainSent_length v k, mem_trainSent, fun h => ?_⟩
  · rw [hlane, getLane_trainReports, hU]
  · rw [trainSent_head h, trainReport_congr (hu.trans hs.symm) hregs htb hel]

/-- A command that reports as TX_TRAIN goes on, after some time. -/
theorem Reported.of_advance {s u : State} {k e : Nat} {W L : List Fld} (U : LaneTrain → LaneTrain)
    (hU : ∀ T n, U { T with sent := n } = { U T with sent := n })
    (hkept : ∀ g ∈ reportFlds, (∀ e ∈ endFlds, e.id ≠ g.id) ∧ (∀ e ∈ W, e.id ≠ g.id) ∧ ∀ e ∈ L, e.id ≠ g.id)
    (hop : LaneOp k W L 0 [] (trainReports (advanceEl { s with out := [] } e) k) u)
    (hlane : getLane u k =
      { getLane (trainReports (advanceEl { s with out := [] } e) k) k with
        train := U (getLane (trainReports (advanceEl { s with out := [] } e) k) k).train }) :
    Reported s { perform (fun _ => u) s with yg := s.yg } (perform (fun _ => u) s) k (U (getLane s k).train) := by
  have hv : getLane (advanceEl { s with out := [] } e) k = getLane s k := LaneOp.getLane_advanceEl _ _ _
  have hreports : LaneOp k W L 0 (trainSent (advanceEl { s with out := [] } e) k) (advanceEl { s with out := [] } e) u :=
    trainReports_op.andThen hop
  refine Reported.of_trainSent (v := advanceEl { s with out := [] } e) U hU hv rfl (fun g hg j => ?_) ?_ ?_ ?_ ?_
  · obtain ⟨hend, hW, hL⟩ := hkept g hg
    exact (perform_rd (fun _ => u) s g j hend).trans (hreports.rd g j hW hL)
  · exact (perform_tb (fun _ => u) s).trans hreports.later.1
  · exact (perform_el (fun _ => u) s).trans hreports.later.2
  · rw [perform_out, hreports.out, advanceEl, advanceTo_out]
    rfl
  · rw [perform_getLane, hlane]

/-- No time passes up to the present. -/
theorem advanceEl_self (s : State) : advanceEl s s.el = s := by
  rw [advanceEl, Nat.sub_self, Nat.add_zero, advanceTo, if_pos (Nat.le_refl _)]

/-- When the evaluation of the request in force is over (R100). -/
def evalAt (s : State) (k : Nat) : Nat :=
  if (getLane s k).train.requests = 0 then s.el else (getLane s k).train.reqAt + 200 * usUnits

/-- The tuning of a transmitter ends. -/
def endTuning (s : State) (k : Nat) : State := setLane s k { getLane s k with train := { (getLane s k).train with fin := true } }

/-- What follows an evaluation: a new request, or the end of the tuning. -/
def tune (s : State) (k : Nat) (request : Option (Nat × Nat)) : State :=
  match request with
  | none => endTuning s k
  | some (pre, post) => if 150 ≤ (getLane s k).train.requests then endTuning s k else nextRequest s k pre post

/-- The training of a lane after an evaluation that is over at `now`. -/
def LaneTrain.tuned (T : LaneTrain) (request : Option (Nat × Nat)) (now : Nat) : LaneTrain :=
  match request with
  | none => { T with fin := true }
  | some (pre, post) => if 150 ≤ T.requests then { T with fin := true } else
      { T with reqNum := (T.reqNum + 1) % 256, preReq := pre % 4, postReq := post % 4, requests := T.requests + 1, reqAt := now }

theorem exec_txeqRequestEval (k : Fin 64) (request : Option (Nat × Nat)) (s : State) :
    exec (.txeqRequestEval k request) s =
      .next (run (fun s => decide (laneState s k = lnTX_TRAIN) && !(getLane s k).train.fin)
        (fun s => tune (trainReports (advanceEl s (evalAt s k)) k) k request) s) := by
  refine congrArg (fun f => Host.Outcome.next (run _ f s)) (funext fun u => ?_)
  have hnow : (if (getLane u k).train.requests = 0 then u else advanceEl u ((getLane u k).train.reqAt + 200 * usUnits)) =
      advanceEl u (evalAt u k) := by
    rw [evalAt]
    split
    · exact (advanceEl_self u).symm
    · rfl
  dsimp only
  rw [hnow]
  rfl

theorem tune_op {k : Nat} {W L : List Fld} {s : State} (request : Option (Nat × Nat)) : LaneOp k W L 0 [] s (tune s k request) := by
  match request with
  | none => exact .setLane _
  | some (pre, post) => exact .ite (fun _ => .setLane _) fun _ => .setLane _

theorem getLane_tune (s : State) (k : Nat) (request : Option (Nat × Nat)) :
    getLane (tune s k request) k = { getLane s k with train := (getLane s k).train.tuned request s.el } := by
  match request with
  | none => exact getLane_setLane_same _ _ _
  | some (pre, post) =>
    simp only [tune, LaneTrain.tuned]
    split
    · exact getLane_setLane_same _ _ _
    · exact getLane_setLane_same _ _ _

/-- The training after an evaluation has sent the reports that it had sent before. -/
theorem LaneTrain.tuned_sent (T : LaneTrain) (request : Option (Nat × Nat)) (now n : Nat) :
    ({ T with sent := n } : LaneTrain).tuned request now = { T.tuned request now with sent := n } := by
  match request with
  | none => rfl
  | some (pre, post) =>
    simp only [LaneTrain.tuned]
    split <;> rfl

/-- A request is evaluated for its time; the reports go on, and the tuning goes on or ends (R100). -/
theorem txeqRequestEval_completes {s : State} {k : Fin 64} (request : Option (Nat × Nat)) (hs : s.held = false)
    (hst : laneState s k = lnTX_TRAIN) (hfin : (getLane s k).train.fin = false) :
    Completes (.txeqRequestEval k request) s fun t =>
      Reported s { t with yg := s.yg } t k ((getLane s k).train.tuned request t.el) ∧
      s.Later t (if (getLane s k).train.requests = 0 then 0 else (getLane s k).train.reqAt + 200 * usUnits - s.el) ∧
      s.SameRegs t cntFlds [] ∧ s.OnlyLane t k := by
  have htune : ∀ v : State, LaneOp k cntFlds [] 0 [] v (tune v k request) := fun _ => tune_op request
  have hd : evalAt s k - s.el = if (getLane s k).train.requests = 0 then 0 else (getLane s k).train.reqAt + 200 * usUnits - s.el := by
    rw [evalAt]
    split
    · exact Nat.sub_self _
    · rfl
  refine completes_lane k cntFlds [] (u := tune (trainReports (advanceEl { s with out := [] } (evalAt s k)) k) k request)
    (exec_txeqRequestEval k request s) hs (by simp [hst, hfin]) rfl
    (((LaneOp.advanceEl (List.Subset.refl _) _).trans trainReports_op).andThen (htune _))
    fun hlater _ hregs honly => ⟨?_, hd ▸ hlater, hregs, honly⟩
  refine Reported.of_advance (LaneTrain.tuned · request _) (fun T n => T.tuned_sent request _ n) (by decide) (htune _) ?_
  rw [perform_el, (htune _).later.2]
  exact getLane_tune _ _ _

/-- No answer to a request comes for its time: the tuning ends (R100). -/
theorem txeqTimeout_completes {s : State} {k : Fin 64} (hs : s.held = false)
    (hst : laneState s k = lnTX_TRAIN) (hfin : (getLane s k).train.fin = false) :
    Completes (.txeqTimeout k) s fun t =>
      Reported s { t with yg := s.yg } t k { (getLane s k).train with fin := true } ∧ t.rd F.YG_LANE_STATUS.TXEQ_TIMEOUT k = 1 ∧
      bit (t.rd F.YG_ERR.BITS 0) Err.YG.TXEQ_TIMEOUT = true ∧ s.Later t ((getLane s k).train.matchAt + msUnits - s.el) ∧
      s.SameRegs t (Err.YG.unit.flds ++ cntFlds) [(F.YG_LANE_STATUS.TXEQ_TIMEOUT, k.val)] ∧ s.OnlyLane t k := by
  have hafter : ∀ u : State, LaneOp k (Err.YG.unit.flds ++ cntFlds) [F.YG_LANE_STATUS.TXEQ_TIMEOUT] 0 [] u
      (setErr ((endTuning u k).wr F.YG_LANE_STATUS.TXEQ_TIMEOUT k 1) Err.YG.unit Err.YG.TXEQ_TIMEOUT k) := fun u =>
    ((LaneOp.setLane _).andThen (.wr (by simp) 1)).andThen (.setErr (List.subset_append_left _ _) _ _)
  obtain ⟨due, hdue⟩ : ∃ due, (getLane s k).train.matchAt + msUnits = due := ⟨_, rfl⟩
  rw [hdue]
  refine completes_lane k (Err.YG.unit.flds ++ cntFlds) [F.YG_LANE_STATUS.TXEQ_TIMEOUT] rfl hs (by simp [hst, hfin])
    (u := setErr ((endTuning (trainReports (advanceEl { s with out := [] } due) k) k).wr F.YG_LANE_STATUS.TXEQ_TIMEOUT k 1)
      Err.YG.unit Err.YG.TXEQ_TIMEOUT k) (by rw [← hdue]; rfl)
    (((LaneOp.advanceEl (List.subset_append_right _ _) _).trans trainReports_op).andThen (hafter _))
    fun hlater _ hregs honly => ⟨?_, ?_, ?_, hlater, hregs, honly⟩
  · exact Reported.of_advance ({ · with fin := true }) (fun _ _ => rfl) (by decide) (hafter _)
      (((setErr_sameUnits _ _ _ _).getLane _).trans (getLane_setLane_same _ _ _))
  · rw [perform_rd _ _ _ _ (by decide), setErr_rd_flds _ _ _ _ _ _ (by decide)]
    exact State.rd_wr_same _ _ _ _
  · rw [perform_rd _ _ _ _ (by decide)]
    exact setErr_bit _ Err.YG.unit _ _ (by decide)

/-- A TSTAT gives the cursors of the transmitter, and answers the request in force when it names it (R100). -/
theorem tstatReceive_completes {s : State} {k : Fin 64} {reqNum pre post status : Nat} (hs : s.held = false) (hst : laneState s k = lnTX_TRAIN) :
    Completes (.tstatReceive k reqNum pre post status) s fun t =>
      t.rd F.YG_LANE_EQ.TX_PRE k = pre % 16 ∧ t.rd F.YG_LANE_EQ.TX_POST k = post % 16 ∧
      getLane t k = { getLane s k with
        train := if reqNum = (getLane s k).train.reqNum then { (getLane s k).train with matchAt := s.el } else (getLane s k).train } ∧
      s.Later t 0 ∧ t.out = [] ∧ s.SameRegs t [] [(F.YG_LANE_EQ.TX_PRE, k.val), (F.YG_LANE_EQ.TX_POST, k.val)] ∧ s.OnlyLane t k := by
  have hrd : ∀ {c : Prop} [Decidable c] (u : State) (x : Lane) (g : Fld), (if c then setLane u k x else u).rd g k = u.rd g k :=
    fun u x g => ite_rd rfl rfl
  refine completes_lane k [] [F.YG_LANE_EQ.TX_PRE, F.YG_LANE_EQ.TX_POST] rfl hs (by simp [hst]) rfl
    (((LaneOp.wr (by simp) pre).andThen (.wr (by simp) post)).andThen (.ite (fun _ => .setLane _) fun _ => .refl))
    fun hlater hout hregs honly => ⟨?_, ?_, ?_, hlater, hout, hregs, honly⟩
  · rw [perform_rd _ _ _ _ (by decide)]
    exact (hrd _ _ _).trans ((State.rd_wr_other _ _ _ _ _ _ (by decide)).trans (State.rd_wr_same _ _ _ _))
  · rw [perform_rd _ _ _ _ (by decide)]
    exact (hrd _ _ _).trans (State.rd_wr_same _ _ _ _)
  · rw [perform_getLane]
    by_cases h : reqNum = (getLane s k).train.reqNum
    · rw [if_pos h]
      exact (congrArg (getLane · _) (if_pos h)).trans (getLane_setLane_same _ _ _)
    · rw [if_neg h]
      exact (congrArg (getLane · _) (if_neg h)).trans rfl

/-- A tuning that is over within its time leaves the lane to seek its codewords (R95, R101). -/
theorem txTrainDone_completes {s : State} {k : Fin 64} (hs : s.held = false) (hst : laneState s k = lnTX_TRAIN)
    (hfin : (getLane s k).train.fin = true) (htimer : s.el ≤ (getLane s k).train.timerAt + 42 * msUnits) :
    Completes (.txTrainDone k) s fun t =>
      laneState t k = lnCW_LOCK ∧ Reported s s t k { (getLane s k).train with stateAt := s.el } ∧ s.Later t 0 ∧
      s.SameRegs t [] [(F.YG_LANE_STATUS.STATE, k.val)] ∧ s.OnlyLane t k := by
  refine completes_lane k [] [F.YG_LANE_STATUS.STATE] rfl hs (by simp [hst, hfin, withinTimer, htimer]) rfl
    (trainReports_op.andThen (.enterLane (by simp) lnCW_LOCK)) fun hlater hout hregs honly => ⟨?_, ?_, hlater, hregs, honly⟩
  · rw [perform_laneState]
    exact laneState_enterLane _ _ (by decide)
  · refine Reported.of_trainSent (v := { s with out := [] }) ({ · with stateAt := s.el }) (fun _ _ => rfl) rfl rfl (fun _ _ _ => rfl) rfl rfl hout ?_
    have hel : (trainReports { s with out := [] } k).el = s.el :=
      (trainReports_op (k := k) (W := []) (L := []) (s := { s with out := [] })).later.2
    rw [perform_getLane, getLane_enterLane, hel]

/-- Settles O44: each step of the training is a command on its lane, within its time of Table 4-7. -/
theorem lanesTrain : Obligations.LanesTrain := by
  unfold Obligations.LanesTrain
  intro s k ppm ctle vga reqNum pre post status taps hs
  refine ⟨fun hst => signalDetect_completes hs hst, fun hst hppm htimer => cdrLock_completes hs hst hppm htimer,
    fun hst htimer => adaptDone_completes hs hst htimer, fun hst => ⟨fun hfin => ⟨fun hreq => ?_, fun hreq => ?_, ?_, ?_⟩, ?_, fun hfin htimer => ?_⟩⟩
  · have h := txeqRequestEval_completes (some (pre, post)) hs hst hfin
    simp only [LaneTrain.tuned, if_neg (Nat.not_le.mpr hreq)] at h
    exact h
  · have h := txeqRequestEval_completes (some (pre, post)) hs hst hfin
    simp only [LaneTrain.tuned, if_pos hreq] at h
    exact h
  · exact txeqRequestEval_completes none hs hst hfin
  · exact txeqTimeout_completes hs hst hfin
  · exact tstatReceive_completes hs hst
  · exact txTrainDone_completes hs hst hfin htimer

end Sys2Proof.Machine
end

section
/-! PROOFS. The reports of an UP lane (R98, Table 4-6), its degraded windows (R103) and the measured frequency offset (R95). -/
namespace Sys2Proof.Machine

/-- A command whose effect is work on a lane after some time completes: `v` stands for the state when the time has passed. -/
theorem completes_after {c : Instr} {cond : State → Bool} {f : State → State} {s : State} {P : State → Prop} (k : Nat) (W L : List Fld)
    (due : Nat) (g : State → State) {o : State → List Output} (hexec : exec c s = .next (run cond f s)) (hheld : s.held = false)
    (hcond : cond s = true) (hu : f { s with out := [] } = g (advanceEl { s with out := [] } due)) (hc : cntFlds ⊆ W)
    (hop : ∀ v, LaneOp k W L 0 (o v) v (g v))
    (h : ∀ v : State, LaneOp k cntFlds [] (due - s.el) [] { s with out := [] } v → getLane v k = getLane s k → v.ko = s.ko →
      s.Later (perform (fun _ => g v) s) (due - s.el) → (perform (fun _ => g v) s).out = o v →
      s.SameRegs (perform (fun _ => g v) s) W (L.map fun e => (e, k)) → s.OnlyLane (perform (fun _ => g v) s) k → P (perform (fun _ => g v) s)) :
    Completes c s P :=
  completes_lane k W L hexec hheld hcond hu ((LaneOp.advanceEl (s := { s with out := [] }) hc due).trans (hop _))
    (h _ (LaneOp.advanceEl (s := { s with out := [] }) (List.Subset.refl _) due) (LaneOp.getLane_advanceEl _ _ _) (advanceTo_ko _ _))

/-- The event that the effect of a command raised first waits after the command. -/
theorem raised_of_effect {s w u : State} {code : Nat} {args : List Nat} (hw : w.ko.evq = s.ko.evq)
    (hu : (raise w code args).ko.evq <+: u.ko.evq) : s.Raised (perform (fun _ => u) s) 0 code args :=
  raised_of_prefix hw (hu.trans (perform_evq (fun _ => u) s))

/-! Report bursts. -/

theorem sendReport_op {k : Nat} {W L : List Fld} {s : State} :
    LaneOp k W L 0 [.burst k (laneReport s k) (burstLine s k (laneReport s k)).2] s (sendReport s k) :=
  LaneOp.andThen (.emit _) (.setLane _)

theorem getLane_sendReport (s : State) (k : Nat) :
    getLane (sendReport s k) k =
      { getLane s k with counts := [0, 0, 0, 0, 0], repAt := s.el, scram := (burstLine s k (laneReport s k)).1 } := getLane_setLane_same _ _ _

/-- The line of a burst looks at the scrambler's history and at the precoding of its lane. -/
theorem burstLine_congr {s t : State} {k : Nat} (hscram : (getLane t k).scram = (getLane s k).scram)
    (hpre : t.rd F.YG_LANE_CTL.PRECODE k = s.rd F.YG_LANE_CTL.PRECODE k) (report : List Byte) : burstLine t k report = burstLine s k report := by
  rw [burstLine, burstLine, hscram, sentLevels, sentLevels, hpre]

/-- An UP lane reports at its interval, in a burst (R98). -/
theorem reportBurst_completes {s : State} {k : Fin 64} (hs : s.held = false) (hst : laneState s k = laneUP) :
    Completes (.reportBurst k) s fun t =>
      s.Later t ((getLane s k).repAt + s.rd F.YG_CFG.REPORT_INTERVAL 0 * 100 * usUnits - s.el) ∧
      t.out = [.burst k (laneReport { t with yg := s.yg } k) (burstLine s k (laneReport { t with yg := s.yg } k)).2] ∧
      getLane t k = { getLane s k with
        counts := [0, 0, 0, 0, 0], repAt := t.el, scram := (burstLine s k (laneReport { t with yg := s.yg } k)).1 } ∧
      s.SameRegs t cntFlds [] ∧ s.OnlyLane t k := by
  obtain ⟨due, hdue⟩ : ∃ due, (getLane s k).repAt + s.rd F.YG_CFG.REPORT_INTERVAL 0 * 100 * usUnits = due := ⟨_, rfl⟩
  rw [hdue]
  refine completes_after k cntFlds [] due (sendReport · k) rfl hs (by simp [hst]) (by rw [← hdue]; rfl) (List.Subset.refl _)
    (fun _ => sendReport_op) fun v htime hlane _ hlater hout hregs honly => ?_
  have hreport : laneReport { perform (fun _ => sendReport v k) s with yg := s.yg } k = laneReport v k := by
    have hend : ∀ f ∈ reportFlds, ∀ e ∈ endFlds, e.id ≠ f.id := by decide
    exact laneReport_congr (congrArg Lane.reported hlane.symm) (fun f hf j => perform_rd (fun _ => sendReport v k) s _ _ (hend f hf))
      (perform_tb (fun _ => sendReport v k) s)
  have hline : ∀ r, burstLine v k r = burstLine s k r := burstLine_congr (congrArg Lane.scram hlane) (htime.rd _ _ (by decide) (by decide))
  rw [hreport, ← hline]
  refine ⟨hlater, hout, ?_, hregs, honly⟩
  rw [perform_getLane, getLane_sendReport, hlane, perform_el]
  rfl

/-! Degraded windows. -/

/-- The lane as a window that ends leaves it: the next window begins, and quiet windows are counted. -/
def windowEnded (s : State) (k : Nat) : Lane :=
  { getLane s k with
    winSym := 0, winAt := s.el
    quiet := if s.rd F.YG_DEGRADE.THRESH 0 < (getLane s k).winSym then 0 else (getLane s k).quiet + 1 }

/-- A window with an excess: the lane is DEGRADED. -/
theorem endWindow_excess {s : State} {k : Nat} (h : s.rd F.YG_DEGRADE.THRESH 0 < (getLane s k).winSym) :
    endWindow s k =
      if s.rd F.YG_LANE_STATUS.DEGRADED k = 1 then setLane s k (windowEnded s k)
      else raise (setErr ((setLane s k (windowEnded s k)).wr F.YG_LANE_STATUS.DEGRADED k 1) Err.YG.unit Err.YG.LANE_DEGRADED k) 17 [k] := by
  simp only [endWindow, windowEnded, decide_eq_true h, if_pos h, if_true]

/-- A window with none: the hundredth in a row ends DEGRADED. -/
theorem endWindow_quiet {s : State} {k : Nat} (h : (getLane s k).winSym ≤ s.rd F.YG_DEGRADE.THRESH 0) :
    endWindow s k =
      if 100 ≤ (getLane s k).quiet + 1 then (setLane s k (windowEnded s k)).wr F.YG_LANE_STATUS.DEGRADED k 0
      else setLane s k (windowEnded s k) := by
  have hnot : ¬ s.rd F.YG_DEGRADE.THRESH 0 < (getLane s k).winSym := Nat.not_lt.mpr h
  simp only [endWindow, windowEnded, decide_eq_false hnot, if_neg hnot, Bool.false_eq_true, if_false]

theorem endWindow_op {k : Nat} {W L : List Fld} {s : State} (herr : Err.YG.unit.flds ⊆ W) (hdeg : F.YG_LANE_STATUS.DEGRADED ∈ W ++ L) :
    LaneOp k W L 0 [] s (endWindow s k) := by
  have hlane : LaneOp k W L 0 [] s (setLane s k (windowEnded s k)) := .setLane _
  rcases Nat.lt_or_ge (s.rd F.YG_DEGRADE.THRESH 0) (getLane s k).winSym with h | h
  · rw [endWindow_excess h]
    exact .ite (fun _ => hlane) fun _ => ((hlane.andThen (.wr hdeg 1)).andThen (.setErr herr _ _)).andThen (.raise _ _)
  · rw [endWindow_quiet h]
    exact .ite (fun _ => hlane.andThen (.wr hdeg 0)) fun _ => hlane

theorem getLane_endWindow (s : State) (k : Nat) : getLane (endWindow s k) k = windowEnded s k := by
  rcases Nat.lt_or_ge (s.rd F.YG_DEGRADE.THRESH 0) (getLane s k).winSym with h | h
  · rw [endWindow_excess h]
    split
    · exact getLane_setLane_same _ _ _
    · rw [(raise_sameUnits _ _ _).getLane, (setErr_sameUnits _ _ _ _).getLane]
      exact getLane_setLane_same _ _ _
  · rw [endWindow_quiet h]
    split
    · exact getLane_setLane_same s k _
    · exact getLane_setLane_same _ _ _

/-- A window of an UP lane ends: with an excess the lane is DEGRADED, after a hundred without it is not (R103). -/
theorem degradeWindow_completes {s : State} {k : Fin 64} (hs : s.held = false) (hst : laneState s k = laneUP) :
    Completes (.degradeWindow k) s fun t =>
      s.Later t ((getLane s k).winAt + msUnits - s.el) ∧ laneState t k = laneUP ∧
      getLane t k = { getLane s k with
        winSym := 0, winAt := t.el, quiet := if s.rd F.YG_DEGRADE.THRESH 0 < (getLane s k).winSym then 0 else (getLane s k).quiet + 1 } ∧
      (s.rd F.YG_DEGRADE.THRESH 0 < (getLane s k).winSym → t.rd F.YG_LANE_STATUS.DEGRADED k = 1 ∧
        (s.rd F.YG_LANE_STATUS.DEGRADED k ≠ 1 → s.Raised t 0 17 [k.val] ∧ bit (t.rd F.YG_ERR.BITS 0) Err.YG.LANE_DEGRADED = true)) ∧
      ((getLane s k).winSym ≤ s.rd F.YG_DEGRADE.THRESH 0 →
        t.rd F.YG_LANE_STATUS.DEGRADED k = if 99 ≤ (getLane s k).quiet then 0 else s.rd F.YG_LANE_STATUS.DEGRADED k) ∧
      t.out = [] ∧ s.SameRegs t (Err.YG.unit.flds ++ cntFlds) [(F.YG_LANE_STATUS.DEGRADED, k.val)] ∧ s.OnlyLane t k := by
  obtain ⟨due, hdue⟩ : ∃ due, (getLane s k).winAt + msUnits = due := ⟨_, rfl⟩
  rw [hdue]
  have hend : ∀ v, LaneOp k (Err.YG.unit.flds ++ cntFlds) [F.YG_LANE_STATUS.DEGRADED] 0 [] v (endWindow v k) := fun _ =>
    endWindow_op (List.subset_append_left _ _) (by simp)
  refine completes_after k (Err.YG.unit.flds ++ cntFlds) [F.YG_LANE_STATUS.DEGRADED] due (endWindow · k) rfl hs (by simp [hst])
    (by rw [← hdue]; rfl) (List.subset_append_right _ _) hend fun v htime hlane hko hlater hout hregs honly => ?_
  have hthresh : v.rd F.YG_DEGRADE.THRESH 0 = s.rd F.YG_DEGRADE.THRESH 0 := htime.rd _ _ (by decide) (by decide)
  have hdeg : v.rd F.YG_LANE_STATUS.DEGRADED k = s.rd F.YG_LANE_STATUS.DEGRADED k := htime.rd _ _ (by decide) (by decide)
  refine ⟨hlater, ?_, ?_, fun hexcess => ?_, fun hquiet => ?_, hout, hregs, honly⟩
  · rw [perform_laneState, (hend v).laneState (by decide) (by decide), htime.laneState (by decide) (by decide)]
    exact hst
  · rw [perform_getLane, getLane_endWindow, windowEnded, hthresh, hlane, perform_el, (hend v).later.2]
    rfl
  · have hwindow := endWindow_excess (s := v) (k := k) (by rw [hthresh, hlane]; exact hexcess)
    rw [perform_rd _ _ _ _ (by decide), perform_rd _ _ _ _ (by decide)]
    by_cases h1 : s.rd F.YG_LANE_STATUS.DEGRADED k = 1
    · rw [if_pos (hdeg.trans h1)] at hwindow
      exact ⟨by rw [hwindow]; exact hdeg.trans h1, fun hne => absurd h1 hne⟩
    · rw [if_neg fun h => h1 (hdeg.symm.trans h)] at hwindow
      refine ⟨?_, fun _ => ⟨raised_of_effect ?_ (by rw [hwindow]), ?_⟩⟩
      · rw [hwindow, raise_rd, setErr_rd_flds _ _ _ _ _ _ (by decide), State.rd_wr_same]
        rfl
      · exact congrArg KioskSt.evq ((setErr_ko _ _ _ _).trans hko)
      · rw [hwindow, raise_rd]
        exact setErr_bit _ Err.YG.unit _ _ (by decide)
  · have h99 : 100 ≤ (getLane s k).quiet + 1 ↔ 99 ≤ (getLane s k).quiet := by omega
    rw [perform_rd _ _ _ _ (by decide), endWindow_quiet (by rw [hthresh, hlane]; exact hquiet), hlane]
    simp only [h99]
    split
    · exact State.rd_wr_same _ _ _ _
    · exact hdeg

/-! The frequency offset. -/

/-- The offset of lane k measured, when its clock is recovered. -/
def measurePpm (values : List Int) (s : State) (k : Nat) : State :=
  if s.rd F.YG_LANE_STATUS.CDR_LOCK k = 1 then s.wr F.YG_LANE_STATUS.PPM k (unsigned 16 (sat (values.getD k 0) 16)) else s

theorem measurePpm_rd_other (values : List Int) (s : State) (k : Nat) (g : Fld) (j : Nat) (h : (F.YG_LANE_STATUS.PPM.id, k) ≠ (g.id, j)) :
    (measurePpm values s k).rd g j = s.rd g j :=
  ite_rd (by rw [State.rd_wr, if_neg fun he => h (Prod.ext he.1 he.2)]) rfl

theorem measurePpm_rd (values : List Int) (s : State) (k : Nat) :
    (measurePpm values s k).rd F.YG_LANE_STATUS.PPM k =
      if s.rd F.YG_LANE_STATUS.CDR_LOCK k = 1 then unsigned 16 (sat (values.getD k 0) 16) else s.rd F.YG_LANE_STATUS.PPM k := by
  have hlt : unsigned 16 (sat (values.getD k 0) 16) < 2 ^ F.YG_LANE_STATUS.PPM.width := by
    show unsigned 16 _ < 2 ^ 16
    unfold unsigned
    omega
  rw [measurePpm]
  split
  · exact (State.rd_wr_same _ _ _ _).trans (Nat.mod_eq_of_lt hlt)
  · rfl

theorem foldl_measurePpm_sameUnits (values : List Int) (l : List Nat) (s : State) : s.SameUnits (l.foldl (measurePpm values) s) :=
  foldl_sameUnits _ (fun u _ => ite_sameUnits (State.wr_sameUnits _ _ _ _) (State.SameUnits.refl u)) _ _

theorem foldl_measurePpm_out (values : List Int) (l : List Nat) (s : State) : (l.foldl (measurePpm values) s).out = s.out := by
  refine foldl_out _ (fun u k => ?_) _ _
  rw [measurePpm]
  split <;> rfl

theorem foldl_measurePpm_ko (values : List Int) (l : List Nat) (s : State) : (l.foldl (measurePpm values) s).ko = s.ko := by
  refine foldl_keeps State.ko _ (fun u k => ?_) _ _
  rw [measurePpm]
  split <;> rfl

theorem foldl_measurePpm_rd_other (values : List Int) (l : List Nat) (s : State) (g : Fld) (j : Nat) (h : F.YG_LANE_STATUS.PPM.id ≠ g.id) :
    (l.foldl (measurePpm values) s).rd g j = s.rd g j :=
  foldl_rd _ g j (fun _ _ => measurePpm_rd_other _ _ _ _ _ fun he => h (Prod.mk.inj he).1) _ _

/-- Every lane of a list is measured by itself. -/
theorem foldl_measurePpm_rd {values : List Int} {l : List Nat} (hl : l.Nodup) (s : State) {j : Nat} (hj : j ∈ l) :
    (l.foldl (measurePpm values) s).rd F.YG_LANE_STATUS.PPM j =
      if s.rd F.YG_LANE_STATUS.CDR_LOCK j = 1 then unsigned 16 (sat (values.getD j 0) 16) else s.rd F.YG_LANE_STATUS.PPM j := by
  have hother : ∀ (l : List Nat) (u : State), j ∉ l → (l.foldl (measurePpm values) u).rd F.YG_LANE_STATUS.PPM j = u.rd F.YG_LANE_STATUS.PPM j := by
    intro l
    induction l with
    | nil => exact fun _ _ => rfl
    | cons i t ih =>
      intro u hu
      rw [List.mem_cons, not_or] at hu
      exact (ih _ hu.2).trans (measurePpm_rd_other _ _ _ _ _ fun h => hu.1 (Prod.mk.inj h).2.symm)
  induction l generalizing s with
  | nil => cases hj
  | cons i t ih =>
    obtain ⟨hit, ht⟩ := List.nodup_cons.mp hl
    rcases List.mem_cons.mp hj with rfl | hjt
    · exact (hother t _ hit).trans (measurePpm_rd _ _ _)
    · have hij : i ≠ j := fun h => hit (h ▸ hjt)
      refine (ih ht _ hjt).trans ?_
      rw [measurePpm_rd_other _ _ _ _ _ fun h => absurd (Prod.mk.inj h).1 (by decide),
        measurePpm_rd_other _ _ _ _ _ fun h => hij (Prod.mk.inj h).2]

/-- Each whole millisecond the offset of every lane whose clock is recovered is measured (R95). -/
theorem ppmUpdate_completes {s : State} (values : List Int) (hs : s.held = false) :
    Completes (.ppmUpdate values) s fun t =>
      t.tb = nextMultiple s msUnits ∧ s.Later t (t.tb - s.tb) ∧
      (∀ j, j < 64 → t.rd F.YG_LANE_STATUS.PPM j =
        if s.rd F.YG_LANE_STATUS.CDR_LOCK j = 1 then unsigned 16 (sat (values.getD j 0) 16) else s.rd F.YG_LANE_STATUS.PPM j) ∧
      t.out = [] ∧ s.SameRegs t (F.YG_LANE_STATUS.PPM :: cntFlds) [] ∧ State.SameUnits { s with tb := t.tb, el := t.el } t := by
  obtain ⟨next, hnext⟩ : ∃ next, nextMultiple s msUnits = next := ⟨_, rfl⟩
  have hlt : s.tb < next := by
    rw [← hnext, nextMultiple, Nat.mul_comm]
    exact Nat.lt_mul_div_succ _ (by decide)
  rw [hnext]
  obtain ⟨v, hv⟩ : ∃ v, advanceTo { s with out := [] } next = v := ⟨_, rfl⟩
  have htime : LaneOp 0 cntFlds [] (next - s.tb) [] { s with out := [] } v :=
    hv ▸ LaneOp.advanceTo (s := { s with out := [] }) (List.Subset.refl _) next
  have hyg : v.yg = s.yg := hv ▸ (advanceTo_sameUnits _ _).yg
  obtain ⟨lanes, hlanes⟩ : ∃ lanes, List.range 64 = lanes := ⟨_, rfl⟩
  have hmem : ∀ j, j < 64 → j ∈ lanes := fun j hj => hlanes ▸ List.mem_range.mpr hj
  have hsame : v.SameUnits (lanes.foldl (measurePpm values) v) := foldl_measurePpm_sameUnits _ _ _
  have hop : LaneOp 0 (F.YG_LANE_STATUS.PPM :: cntFlds) [] (next - s.tb) [] { s with out := [] } (lanes.foldl (measurePpm values) v) := by
    subst hv
    exact (LaneOp.advanceTo (s := { s with out := [] }) (List.subset_cons_self _ _) next).andThen
      (.of_sameUnits hsame (foldl_measurePpm_out _ _ _) (fun g j hW _ => foldl_measurePpm_rd_other _ _ _ _ _ (hW _ List.mem_cons_self))
        (by rw [foldl_measurePpm_ko]))
  refine completes_lane 0 (F.YG_LANE_STATUS.PPM :: cntFlds) [] rfl hs rfl (u := lanes.foldl (measurePpm values) v)
    (by rw [← hv, ← hlanes, ← hnext]; rfl) hop fun hlater hout hregs honly => ?_
  have htb : (perform (fun _ => lanes.foldl (measurePpm values) v) s).tb = next := by
    rw [hlater.1]
    omega
  refine ⟨htb, htb ▸ hlater, fun j hj => ?_, hout, hregs, ?_⟩
  · rw [perform_rd _ _ _ _ (by decide), foldl_measurePpm_rd (hlanes ▸ List.nodup_range) _ (hmem j hj), htime.rd _ _ (by decide) (by decide),
      htime.rd _ _ (by decide) (by decide)]
    rfl
  · have hunits := honly.2
    rw [(perform_sameUnits _ s).yg, hsame.yg, hyg] at hunits
    exact hunits

/-- The line of a burst, codeword by codeword: 16 IDLE codewords, that of the report, and two more (Table 4-6). -/
theorem burstLine_eq (s : State) (k : Nat) (report : List Byte) :
    burstLine s k report =
      let line := encodeCodewords (getLane s k).scram (List.replicate 16 idleBlocks ++ [reportBlocks report] ++ List.replicate 2 idleBlocks)
      let l := if s.rd F.YG_LANE_CTL.PRECODE k = 1 then precode 0 line.2 else line.2
      (line.1, [(0, .wake), (2000, .levels (l.take 43520)), (10192, .levels ((l.drop 43520).take 2720)),
        (10704, .levels (l.drop 46240)), (11728, .idle)]) := by
  have h16 : 16 * 2720 = 43520 := by decide
  have h17 : 17 * 2720 = 46240 := by decide
  simp only [burstLine, sentLevels, h16, h17]

/-- Settles O46: a report and the end of a window are work on their lane after some time; the offset of every lane is measured at once. -/
theorem lanesReport : Obligations.LanesReport := by
  unfold Obligations.LanesReport
  intro s k values hs
  refine ⟨fun hst => ?_, fun hst => ?_, ppmUpdate_completes values hs⟩
  · obtain ⟨t, ht, hlater, hout, hlane, hregs, hothers, hunits⟩ := reportBurst_completes (k := k) hs hst
    rw [burstLine_eq] at hout hlane
    refine ⟨t, ht, hlater, ?_, hothers, hregs, hunits⟩
    dsimp only at hout hlane ⊢
    exact ⟨hout, hlane⟩
  · obtain ⟨t, ht, hlater, hup, hlane, hexcess, hquiet, hout, hregs, hothers, hunits⟩ := degradeWindow_completes (k := k) hs hst
    exact ⟨t, ht, hlater, hup, hlane, hothers, hexcess, hquiet, hout, hregs, hunits⟩

end Sys2Proof.Machine
end

section
/-! PROOFS. The codewords of a lane (R82 to R85, R96): what each leaves of the lane, and what it counts. -/
namespace Sys2Proof.Machine

/-! The blocks of a codeword. -/

/-- A block takes part in the cell of its lane alone. -/
theorem takeBlock_eq (uncorr : Bool) (x : Lane) (b : LineBlock) :
    takeBlock uncorr x b = ({ x with cell := (takeBlock uncorr x b).1.cell, ended := (takeBlock uncorr x b).1.ended }, (takeBlock uncorr x b).2) := by
  obtain ⟨cell, ended⟩ := x
  cases b with
  | data bytes => cases cell <;> rfl
  | bad => cases cell <;> rfl
  | control t bytes =>
    cases cell
    all_goals
      simp only [takeBlock]
      repeat' split
      all_goals rfl

/-- What a block makes of the cell of a lane depends on the cell and on those ended before. -/
theorem takeBlock_congr (uncorr : Bool) {x y : Lane} (b : LineBlock) (hcell : y.cell = x.cell) (hended : y.ended = x.ended) :
    (takeBlock uncorr y b).1.cell = (takeBlock uncorr x b).1.cell ∧ (takeBlock uncorr y b).1.ended = (takeBlock uncorr x b).1.ended ∧
      (takeBlock uncorr y b).2 = (takeBlock uncorr x b).2 := by
  obtain ⟨cell, ended⟩ := x
  obtain ⟨cell', ended'⟩ := y
  obtain rfl : cell' = cell := hcell
  obtain rfl : ended' = ended := hended
  cases b with
  | data bytes => cases cell' <;> exact ⟨rfl, rfl, rfl⟩
  | bad => cases cell' <;> exact ⟨rfl, rfl, rfl⟩
  | control t bytes =>
    cases cell'
    all_goals
      simp only [takeBlock]
      repeat' split
      all_goals exact ⟨rfl, rfl, rfl⟩

/-- The blocks of a codeword take part in the cells of their lane alone. -/
theorem takeBlocks_eq (uncorr : Bool) (x : Lane) (l : List LineBlock) :
    (takeBlocks uncorr x l).1 = { x with cell := (takeBlocks uncorr x l).1.cell, ended := (takeBlocks uncorr x l).1.ended } := by
  induction l generalizing x with
  | nil => rfl
  | cons b t ih =>
    rw [takeBlocks, ih, takeBlock_eq]

theorem takeBlocks_congr (uncorr : Bool) {x y : Lane} (l : List LineBlock) (hcell : y.cell = x.cell) (hended : y.ended = x.ended) :
    (takeBlocks uncorr y l).1.cell = (takeBlocks uncorr x l).1.cell ∧ (takeBlocks uncorr y l).1.ended = (takeBlocks uncorr x l).1.ended ∧
      (takeBlocks uncorr y l).2 = (takeBlocks uncorr x l).2 := by
  induction l generalizing x y with
  | nil => exact ⟨hcell, hended, rfl⟩
  | cons b t ih =>
    obtain ⟨hc, he, hn⟩ := takeBlock_congr uncorr b hcell hended
    obtain ⟨hc', he', hn'⟩ := ih hc he
    exact ⟨hc', he', congrArg₂ (· + ·) hn hn'⟩

/-! What a codeword counts. -/

/-- The symbols that the decoder corrected. -/
def CodewordResult.corrected : CodewordResult → Nat
  | .good n => n
  | .uncorrectable => 0

/-- The counters of the decoder. -/
def fecFlds : List Fld := [F.YG_LANE_CORR_CW.COUNT, F.YG_LANE_CORR_SYM.COUNT, F.YG_LANE_UNCORR_CW.COUNT]

theorem fecCount_op {k : Nat} {W L : List Fld} {s : State} (r : CodewordResult) (hf : ∀ f ∈ fecFlds, f ∈ W ++ L) (hc : cntFlds ⊆ W) :
    LaneOp k W L 0 [] s (fecCount s k r) := by
  cases r with
  | uncorrectable => exact (LaneOp.bump (hf _ (by simp [fecFlds])) hc 1).andThen (.laneCount _ _)
  | good n =>
    refine .ite (fun _ => .refl) fun _ => ?_
    exact ((((LaneOp.bump (hf _ (by simp [fecFlds])) hc 1).andThen (.bump (hf _ (by simp [fecFlds])) hc n)).andThen (.laneCount 0 1)).andThen
      (.laneCount 2 n)).andThen (.setLane _)

theorem getLane_laneCount (s : State) (k i n : Nat) :
    getLane (laneCount s k i n) k = { getLane s k with counts := (getLane s k).counts.set i ((getLane s k).counts.getD i 0 + n) } :=
  getLane_setLane_same _ _ _

theorem getLane_bump (s : State) (f : Fld) (c n j : Nat) : getLane (bump s f c n) j = getLane s j := (bump_sameUnits _ _ _ _).getLane j

/-- A codeword moves the counts of its lane, and the degraded window by the symbols corrected. -/
theorem getLane_fecCount (s : State) (k : Nat) (r : CodewordResult) :
    ∃ c, getLane (fecCount s k r) k = { getLane s k with counts := c, winSym := (getLane s k).winSym + r.corrected } := by
  cases r with
  | uncorrectable => exact ⟨_, (getLane_laneCount _ _ _ _).trans (by rw [getLane_bump]; rfl)⟩
  | good n =>
    by_cases h : n = 0
    · subst h
      exact ⟨_, rfl⟩
    · obtain ⟨c, hc⟩ : ∃ c, getLane (laneCount (laneCount (bump (bump s F.YG_LANE_CORR_CW.COUNT k 1) F.YG_LANE_CORR_SYM.COUNT k n) k 0 1) k 2 n) k =
          { getLane s k with counts := c } := by
        rw [getLane_laneCount, getLane_laneCount, getLane_bump, getLane_bump]
        exact ⟨_, rfl⟩
      refine ⟨c, (congrArg (getLane · k) (if_neg h)).trans ((getLane_setLane_same _ _ _).trans ?_)⟩
      rw [hc]
      rfl

/-- An uncorrectable codeword is counted. -/
theorem fecCount_uncorr (s : State) (k : Nat) :
    (fecCount s k .uncorrectable).rd F.YG_LANE_UNCORR_CW.COUNT k = min (s.rd F.YG_LANE_UNCORR_CW.COUNT k + 1) (2 ^ 32 - 1) :=
  bump_rd_same _ _ _ _ (by decide)

/-- A corrected codeword is counted, and its symbols. -/
theorem fecCount_corr (s : State) (k : Nat) {n : Nat} (hn : n ≠ 0) :
    (fecCount s k (.good n)).rd F.YG_LANE_CORR_CW.COUNT k = min (s.rd F.YG_LANE_CORR_CW.COUNT k + 1) (2 ^ 32 - 1) ∧
    (fecCount s k (.good n)).rd F.YG_LANE_CORR_SYM.COUNT k = min (s.rd F.YG_LANE_CORR_SYM.COUNT k + n) (2 ^ 64 - 1) := by
  have hrd : ∀ g : Fld, (fecCount s k (.good n)).rd g k =
      (bump (bump s F.YG_LANE_CORR_CW.COUNT k 1) F.YG_LANE_CORR_SYM.COUNT k n).rd g k := fun g =>
    (congrArg (fun u : State => u.rd g k) (if_neg hn)).trans
      ((setLane_rd _ _ _ _ _).trans ((setLane_rd _ _ _ _ _).trans (setLane_rd _ _ _ _ _)))
  refine ⟨?_, ?_⟩
  · rw [hrd, bump_rd _ _ _ _ _ _ (by decide) (by decide)]
    exact bump_rd_same _ _ _ _ (by decide)
  · rw [hrd, bump_rd_same _ _ _ _ (by decide), bump_rd _ _ _ _ _ _ (by decide) (by decide)]
    rfl

/-! A codeword of an UP lane. -/

/-- The lane with the blocks of a codeword taken, before its bad blocks are counted. -/
def blocksTaken (s : State) (k : Nat) (r : CodewordResult) (blocks : List LineBlock) : State :=
  let s1 := fecCount (bump s F.YG_LANE_CW.COUNT k 1) k r
  let q := takeBlocks (decide (r = .uncorrectable)) (getLane s1 k) blocks
  setLane s1 k { q.1 with bad := if decide (r = .uncorrectable) then q.1.bad + 1 else 0 }

/-- The bad blocks of a codeword are counted. -/
def countBad (s : State) (k n : Nat) : State := if n = 0 then s else bump s F.YG_LANE_BAD_BLOCK.COUNT k n

/-- The blocks taken are those that the lane takes before anything is counted. -/
theorem upCodeword_eq (s : State) (k : Nat) (r : CodewordResult) (blocks : List LineBlock) :
    upCodeword s k r blocks = countBad (blocksTaken s k r blocks) k (takeBlocks (decide (r = .uncorrectable)) (getLane s k) blocks).2 := by
  obtain ⟨c, hc⟩ := getLane_fecCount (bump s F.YG_LANE_CW.COUNT k 1) k r
  have hn : (takeBlocks (decide (r = .uncorrectable)) (getLane (fecCount (bump s F.YG_LANE_CW.COUNT k 1) k r) k) blocks).2 =
      (takeBlocks (decide (r = .uncorrectable)) (getLane s k) blocks).2 := by
    refine (takeBlocks_congr _ blocks ?_ ?_).2.2 <;> rw [hc, getLane_bump]
  rw [← hn]
  rfl

theorem countBad_op {k : Nat} {W L : List Fld} {s : State} (n : Nat) (hb : F.YG_LANE_BAD_BLOCK.COUNT ∈ W ++ L) (hc : cntFlds ⊆ W) :
    LaneOp k W L 0 [] s (countBad s k n) := .ite (fun _ => .refl) fun _ => .bump hb hc n

theorem blocksTaken_op {k : Nat} {W L : List Fld} {s : State} (r : CodewordResult) (blocks : List LineBlock)
    (hw : F.YG_LANE_CW.COUNT ∈ W ++ L) (hf : ∀ f ∈ fecFlds, f ∈ W ++ L) (hc : cntFlds ⊆ W) : LaneOp k W L 0 [] s (blocksTaken s k r blocks) :=
  ((LaneOp.bump hw hc 1).andThen (fecCount_op r hf hc)).andThen (.setLane _)

/-- The lane after a codeword: its cells, its window, and how many uncorrectable codewords came in a row. -/
theorem getLane_upCodeword (s : State) (k : Nat) (r : CodewordResult) (blocks : List LineBlock) :
    ∃ c, getLane (upCodeword s k r blocks) k = { getLane s k with
      cell := (takeBlocks (decide (r = .uncorrectable)) (getLane s k) blocks).1.cell
      ended := (takeBlocks (decide (r = .uncorrectable)) (getLane s k) blocks).1.ended
      counts := c, winSym := (getLane s k).winSym + r.corrected
      bad := if r = .uncorrectable then (getLane s k).bad + 1 else 0 } := by
  obtain ⟨c, hc⟩ := getLane_fecCount (bump s F.YG_LANE_CW.COUNT k 1) k r
  rw [getLane_bump] at hc
  obtain ⟨hcell, hended, -⟩ := takeBlocks_congr (decide (r = .uncorrectable)) (x := getLane s k)
    (y := getLane (fecCount (bump s F.YG_LANE_CW.COUNT k 1) k r) k) blocks (by rw [hc]) (by rw [hc])
  refine ⟨c, ?_⟩
  have hcount : ∀ u n, getLane (countBad u k n) k = getLane u k := fun u n => ite_keeps (p := (getLane · k)) rfl (getLane_bump _ _ _ _ _)
  rw [upCodeword_eq, hcount, blocksTaken, getLane_setLane_same, takeBlocks_eq, hcell, hended, hc]
  simp only [decide_eq_true_eq]

end Sys2Proof.Machine
end

section
/-! PROOFS. Codeword lock, the codewords of an UP lane, and training that fails (R82 to R85, R96, R101). -/
namespace Sys2Proof.Machine

/-- A command whose effect is work on a lane of no time completes. -/
theorem completes_now {c : Instr} {cond : State → Bool} {f : State → State} {s u : State} {P : State → Prop} (k : Nat) (W L : List Fld)
    {o : List Output} (hexec : exec c s = .next (run cond f s)) (hheld : s.held = false) (hcond : cond s = true)
    (hu : f { s with out := [] } = u) (hop : LaneOp k W L 0 o { s with out := [] } u)
    (h : (perform (fun _ => u) s).out = o → (∀ j, j ≠ k → getLane (perform (fun _ => u) s) j = getLane s j) →
      s.SameRegs (perform (fun _ => u) s) W (L.map fun e => (e, k)) →
      State.SameUnits { s with yg := { s.yg with lanes := (perform (fun _ => u) s).yg.lanes } } (perform (fun _ => u) s) →
      P (perform (fun _ => u) s)) :
    Completes c s P := by
  subst hu
  exact completes_run hexec hheld hcond (h hop.performOut hop.performOthers hop.sameRegs hop.performUnits_zero)

/-- The counters of the codewords of a lane. -/
def codewordFlds : List Fld :=
  [F.YG_LANE_CW.COUNT, F.YG_LANE_CORR_CW.COUNT, F.YG_LANE_CORR_SYM.COUNT, F.YG_LANE_UNCORR_CW.COUNT, F.YG_LANE_BAD_BLOCK.COUNT]

theorem mem_codewordFlds_of_fecFlds {f : Fld} (h : f ∈ fecFlds) : f ∈ codewordFlds ++ cntFlds := by
  simp only [fecFlds, List.mem_cons, List.not_mem_nil, or_false] at h
  rcases h with rfl | rfl | rfl <;> simp [codewordFlds]

/-! Codeword lock. -/

/-- How many good codewords in a row a lane has at a boundary after one more codeword. -/
def goodRun (x : Lane) (boundary : Nat) (r : CodewordResult) : Nat :=
  if r = .uncorrectable then 0 else if x.boundary = boundary then x.good + 1 else 1

/-- The lane that seeks lock after a codeword: the run of good codewords at its boundary. -/
def runKept (s : State) (k boundary : Nat) (r : CodewordResult) : State :=
  setLane (fecCount s k r) k { getLane (fecCount s k r) k with good := goodRun (getLane s k) boundary r, boundary := boundary }

theorem lockCodeword_eq (s : State) (k boundary : Nat) (r : CodewordResult) :
    lockCodeword s k boundary r =
      if 4 ≤ goodRun (getLane s k) boundary r then laneCameUp (runKept s k boundary r) k else runKept s k boundary r := by
  obtain ⟨c, hc⟩ := getLane_fecCount s k r
  have hrun : goodRun (getLane (fecCount s k r) k) boundary r = goodRun (getLane s k) boundary r := by rw [hc]; rfl
  rw [runKept, ← hrun]
  rfl

theorem getLane_runKept (s : State) (k boundary : Nat) (r : CodewordResult) :
    ∃ c, getLane (runKept s k boundary r) k = { getLane s k with
      good := goodRun (getLane s k) boundary r, boundary := boundary, counts := c, winSym := (getLane s k).winSym + r.corrected } := by
  obtain ⟨c, hc⟩ := getLane_fecCount s k r
  exact ⟨c, (getLane_setLane_same _ _ _).trans (by rw [hc])⟩

theorem runKept_op {k : Nat} {L : List Fld} {s : State} (boundary : Nat) (r : CodewordResult) :
    LaneOp k (codewordFlds ++ cntFlds) L 0 [] s (runKept s k boundary r) :=
  (fecCount_op r (fun _ h => List.mem_append_left _ (mem_codewordFlds_of_fecFlds h)) (List.subset_append_right _ _)).andThen (.setLane _)

theorem setLane_ko (s : State) (k : Nat) (x : Lane) : (setLane s k x).ko = s.ko := rfl

theorem fecCount_ko (s : State) (k : Nat) (r : CodewordResult) : (fecCount s k r).ko = s.ko := by
  cases r with
  | uncorrectable => exact (setLane_ko _ _ _).trans (bump_ko _ _ _ _)
  | good n =>
    refine ite_keeps (p := State.ko) rfl ((setLane_ko _ _ _).trans ?_)
    rw [laneCount, setLane_ko, laneCount, setLane_ko, bump_ko, bump_ko]

/-- The lane with its codewords locked, before LANE_UP is announced. -/
def lockedUp (s : State) (k : Nat) : State :=
  let s1 := enterLane (s.wr F.YG_LANE_STATUS.CW_LOCK k 1) k laneUP
  setLane s1 k { getLane s1 k with good := 0, bad := 0, repAt := s.el, winAt := s.el, winSym := 0, quiet := 0 }

theorem laneCameUp_eq (s : State) (k : Nat) : laneCameUp s k = raise (lockedUp s k) 15 [k] := rfl

theorem lockedUp_op {k : Nat} {W : List Fld} {s : State} :
    LaneOp k W [F.YG_LANE_STATUS.STATE, F.YG_LANE_STATUS.CW_LOCK] 0 [] s (lockedUp s k) :=
  ((LaneOp.wr (by simp) 1).andThen (.enterLane (by simp) _)).andThen (.setLane _)

theorem getLane_lockedUp (s : State) (k : Nat) :
    getLane (lockedUp s k) k = { getLane s k with
      good := 0, bad := 0, repAt := s.el, winAt := s.el, winSym := 0, quiet := 0, train := { (getLane s k).train with stateAt := s.el } } :=
  (getLane_setLane_same _ _ _).trans (by rw [getLane_enterLane]; rfl)

theorem lockedUp_status (s : State) (k : Nat) : laneState (lockedUp s k) k = laneUP ∧ (lockedUp s k).rd F.YG_LANE_STATUS.CW_LOCK k = 1 :=
  ⟨laneState_enterLane _ _ (by decide), (State.rd_wr_other _ _ _ _ _ _ (by decide)).trans (State.rd_wr_same _ _ _ _)⟩

/-- A codeword of a lane that seeks lock (R83, R101). -/
theorem codewordDecode_lock {s : State} {k : Fin 64} {boundary : Nat} {levels : List Nat} {eq : Adaptation} {d : CodewordResult × List LineBlock × Nat}
    (hd : receivedCodeword s k levels = d) (hs : s.held = false) (hst : laneState s k = lnCW_LOCK) :
    Completes (.codewordDecode k boundary levels eq) s fun t =>
      ((getLane t k).descr = d.2.2 ∧ (getLane t k).lastIn = levels.getLastD 0) ∧
      (goodRun (getLane s k) boundary d.1 < 4 → laneState t k = lnCW_LOCK ∧ (getLane t k).good = goodRun (getLane s k) boundary d.1 ∧
        (getLane t k).boundary = boundary) ∧
      (4 ≤ goodRun (getLane s k) boundary d.1 → laneState t k = laneUP ∧ t.rd F.YG_LANE_STATUS.CW_LOCK k = 1 ∧ s.Raised t 0 15 [k.val] ∧
        (getLane t k).bad = 0 ∧ (getLane t k).repAt = s.el ∧ (getLane t k).winAt = s.el) ∧
      t.out = [] ∧ (∀ j, j ≠ k.val → getLane t j = getLane s j) ∧
      s.SameRegs t (codewordFlds ++ cntFlds) [(F.YG_LANE_STATUS.STATE, k.val), (F.YG_LANE_STATUS.CW_LOCK, k.val)] ∧
      State.SameUnits { s with yg := { s.yg with lanes := t.yg.lanes } } t := by
  have hnot : laneState s k ≠ laneUP := by rw [hst]; decide
  obtain ⟨v, hv⟩ : ∃ v, keepHistory { s with out := [] } k levels d.2.2 = v := ⟨_, rfl⟩
  have hvop : LaneOp k (codewordFlds ++ cntFlds) [F.YG_LANE_STATUS.STATE, F.YG_LANE_STATUS.CW_LOCK] 0 [] { s with out := [] } v := by
    rw [← hv]
    exact .setLane _
  have hvlane : getLane v k = { getLane s k with descr := d.2.2, lastIn := levels.getLastD 0 } := by
    rw [← hv]
    exact getLane_setLane_same _ _ _
  have hvko : v.ko = s.ko := by rw [← hv]; rfl
  have hrun : goodRun (getLane v k) boundary d.1 = goodRun (getLane s k) boundary d.1 := by rw [hvlane]; rfl
  obtain ⟨w, hw⟩ : ∃ w, runKept v k boundary d.1 = w := ⟨_, rfl⟩
  have hwop : LaneOp k (codewordFlds ++ cntFlds) [] 0 [] v w := hw ▸ runKept_op _ _
  have hwop' : LaneOp k (codewordFlds ++ cntFlds) [F.YG_LANE_STATUS.STATE, F.YG_LANE_STATUS.CW_LOCK] 0 [] v w := hw ▸ runKept_op _ _
  obtain ⟨c, hwlane⟩ := getLane_runKept v k boundary d.1
  rw [hw, hvlane, ← hvlane, hrun] at hwlane
  have hwko : w.ko = s.ko := by rw [← hw, show (runKept v k boundary d.1).ko = v.ko from fecCount_ko _ _ _, hvko]
  have hwel : w.el = s.el := hwop.later.2.trans hvop.later.2
  have hwstate : laneState w k = lnCW_LOCK := (hwop.laneState (by decide) (by decide)).trans (by rw [← hv]; exact hst)
  obtain ⟨u, hu⟩ : ∃ u, (if 4 ≤ goodRun (getLane s k) boundary d.1 then raise (lockedUp w k) 15 [k.val] else w) = u := ⟨_, rfl⟩
  have hop : LaneOp k (codewordFlds ++ cntFlds) [F.YG_LANE_STATUS.STATE, F.YG_LANE_STATUS.CW_LOCK] 0 [] { s with out := [] } u :=
    hu ▸ .ite (fun _ => (hvop.andThen hwop').andThen (lockedUp_op.andThen (.raise _ _))) fun _ => hvop.andThen hwop'
  refine completes_now k (codewordFlds ++ cntFlds) [F.YG_LANE_STATUS.STATE, F.YG_LANE_STATUS.CW_LOCK] rfl hs (by simp [hst])
    ((if_neg hnot).trans (by rw [← hu, ← hw, ← hrun, ← laneCameUp_eq, ← lockCodeword_eq, ← hv, ← hd]; rfl)) hop
    fun hout hothers hregs hunits => ?_
  rw [perform_getLane, perform_laneState, perform_rd _ _ _ _ (by decide)]
  refine ⟨?_, fun hlt => ?_, fun hle => ?_, hout, hothers, hregs, hunits⟩
  · rw [← hu]
    split
    · rw [(raise_sameUnits _ _ _).getLane, getLane_lockedUp, hwlane, hvlane]
      exact ⟨rfl, rfl⟩
    · rw [hwlane, hvlane]
      exact ⟨rfl, rfl⟩
  · rw [← hu, if_neg (by omega), hwlane]
    exact ⟨hwstate, rfl, rfl⟩
  · rw [if_pos hle] at hu
    obtain ⟨hup, hlock⟩ := lockedUp_status w k
    rw [← hu, (raise_sameUnits _ _ _).getLane, getLane_lockedUp]
    exact ⟨(raise_rd _ _ _ _ _).trans hup, (raise_rd _ _ _ _ _).trans hlock, raised_of_effect (w := lockedUp w k) (congrArg KioskSt.evq hwko) (List.prefix_refl _),
      rfl, hwel, hwel⟩

/-! The codewords of an UP lane. -/

theorem upCodeword_op {k : Nat} {L : List Fld} {s : State} (r : CodewordResult) (blocks : List LineBlock) :
    LaneOp k (codewordFlds ++ cntFlds) L 0 [] s (upCodeword s k r blocks) := by
  have hcnt : cntFlds ⊆ codewordFlds ++ cntFlds := List.subset_append_right _ _
  rw [upCodeword_eq]
  exact (blocksTaken_op r blocks (by simp [codewordFlds]) (fun _ h => List.mem_append_left _ (mem_codewordFlds_of_fecFlds h)) hcnt).andThen
    (countBad_op _ (by simp [codewordFlds]) hcnt)

/-- A codeword of an UP lane is counted by what the decoder made of it, and its bad blocks are counted. -/
theorem upCodeword_rd (s : State) (k : Nat) (r : CodewordResult) (blocks : List LineBlock) :
    (upCodeword s k r blocks).rd F.YG_LANE_CW.COUNT k = min (s.rd F.YG_LANE_CW.COUNT k + 1) (2 ^ 64 - 1) ∧
    (r = .uncorrectable →
      (upCodeword s k r blocks).rd F.YG_LANE_UNCORR_CW.COUNT k = min (s.rd F.YG_LANE_UNCORR_CW.COUNT k + 1) (2 ^ 32 - 1)) ∧
    (∀ n, r = .good n → n ≠ 0 →
      (upCodeword s k r blocks).rd F.YG_LANE_CORR_CW.COUNT k = min (s.rd F.YG_LANE_CORR_CW.COUNT k + 1) (2 ^ 32 - 1) ∧
      (upCodeword s k r blocks).rd F.YG_LANE_CORR_SYM.COUNT k = min (s.rd F.YG_LANE_CORR_SYM.COUNT k + n) (2 ^ 64 - 1)) ∧
    ((takeBlocks (decide (r = .uncorrectable)) (getLane s k) blocks).2 ≠ 0 →
      (upCodeword s k r blocks).rd F.YG_LANE_BAD_BLOCK.COUNT k =
        min (s.rd F.YG_LANE_BAD_BLOCK.COUNT k + (takeBlocks (decide (r = .uncorrectable)) (getLane s k) blocks).2) (2 ^ 32 - 1)) := by
  have hcw : ∀ g : Fld, F.YG_LANE_CW.COUNT.id ≠ g.id → (∀ e ∈ cntFlds, e.id ≠ g.id) →
      (bump s F.YG_LANE_CW.COUNT k 1).rd g k = s.rd g k := fun g h h' => bump_rd _ _ _ _ _ _ h h'
  have hbad : ∀ (g : Fld), F.YG_LANE_BAD_BLOCK.COUNT.id ≠ g.id → (∀ e ∈ cntFlds, e.id ≠ g.id) →
      (upCodeword s k r blocks).rd g k = (fecCount (bump s F.YG_LANE_CW.COUNT k 1) k r).rd g k := fun g h h' => by
    rw [upCodeword_eq, countBad]
    exact ite_rd rfl ((bump_rd _ _ _ _ _ _ h h').trans rfl)
  have hfec : ∀ (u : State) (g : Fld), (∀ e ∈ fecFlds ++ cntFlds, e.id ≠ g.id) → (fecCount u k r).rd g k = u.rd g k := fun u g h =>
    (fecCount_op (W := cntFlds) (L := fecFlds) r (fun _ hf => List.mem_append_right _ hf) (List.Subset.refl _)).rd g k
      (fun e he => h e (List.mem_append_right _ he)) fun e he => h e (List.mem_append_left _ he)
  refine ⟨?_, ?_, ?_, fun h => ?_⟩
  · rw [hbad _ (by decide) (by decide), hfec _ _ (by decide)]
    exact bump_rd_same _ _ _ _ (by decide)
  · rintro rfl
    rw [hbad _ (by decide) (by decide), fecCount_uncorr, hcw _ (by decide) (by decide)]
  · rintro n rfl hn
    obtain ⟨hcorr, hsym⟩ := fecCount_corr (bump s F.YG_LANE_CW.COUNT k 1) k hn
    rw [hcw _ (by decide) (by decide)] at hcorr hsym
    exact ⟨(hbad _ (by decide) (by decide)).trans hcorr, (hbad _ (by decide) (by decide)).trans hsym⟩
  · have htaken : (blocksTaken s k r blocks).rd F.YG_LANE_BAD_BLOCK.COUNT k = s.rd F.YG_LANE_BAD_BLOCK.COUNT k :=
      (hfec _ _ (by decide)).trans (hcw _ (by decide) (by decide))
    rw [upCodeword_eq, countBad, if_neg h, bump_rd_same _ _ _ _ (by decide), htaken]
    rfl

theorem adapted_op {k : Nat} {W : List Fld} {s : State} (eq : Adaptation) :
    LaneOp k W (F.YG_LANE_EQ.VGA :: tapFields) 0 [] s (adapted s k eq) :=
  (LaneOp.wr (by simp) eq.vga).andThen (.wrAll fun e he => by simp [(List.of_mem_zip he).1])

theorem adapted_vga (s : State) (k : Nat) (eq : Adaptation) : (adapted s k eq).rd F.YG_LANE_EQ.VGA k = eq.vga % 256 :=
  (wrAll_rd_other _ _ _ _ fun e he =>
    (by decide : ∀ f ∈ tapFields, f.id ≠ F.YG_LANE_EQ.VGA.id) _ (List.of_mem_zip he).1).trans (State.rd_wr_same _ _ _ _)

/-- A codeword of a lane that is UP: counted, its blocks taken into cells, the receiver adapted (R83 to R85, R96). -/
theorem codewordDecode_up {s : State} {k : Fin 64} {boundary : Nat} {levels : List Nat} {eq : Adaptation} {d : CodewordResult × List LineBlock × Nat}
    (hd : receivedCodeword s k levels = d) (hs : s.held = false) (hst : laneState s k = laneUP) (hbad : (getLane s k).bad < 8) :
    Completes (.codewordDecode k boundary levels eq) s fun t =>
      (∃ c, getLane t k = { getLane s k with
        descr := d.2.2, lastIn := levels.getLastD 0
        cell := (takeBlocks (decide (d.1 = .uncorrectable)) (getLane s k) d.2.1).1.cell
        ended := (takeBlocks (decide (d.1 = .uncorrectable)) (getLane s k) d.2.1).1.ended
        counts := c, winSym := (getLane s k).winSym + d.1.corrected
        bad := if d.1 = .uncorrectable then (getLane s k).bad + 1 else 0 }) ∧
      t.rd F.YG_LANE_EQ.VGA k = eq.vga % 256 ∧ (∀ e ∈ tapFields.zip eq.taps, t.rd e.1 k = unsigned 8 e.2) ∧
      t.rd F.YG_LANE_CW.COUNT k = min (s.rd F.YG_LANE_CW.COUNT k + 1) (2 ^ 64 - 1) ∧
      (d.1 = .uncorrectable → t.rd F.YG_LANE_UNCORR_CW.COUNT k = min (s.rd F.YG_LANE_UNCORR_CW.COUNT k + 1) (2 ^ 32 - 1)) ∧
      (∀ n, d.1 = .good n → n ≠ 0 → t.rd F.YG_LANE_CORR_CW.COUNT k = min (s.rd F.YG_LANE_CORR_CW.COUNT k + 1) (2 ^ 32 - 1) ∧
        t.rd F.YG_LANE_CORR_SYM.COUNT k = min (s.rd F.YG_LANE_CORR_SYM.COUNT k + n) (2 ^ 64 - 1)) ∧
      ((takeBlocks (decide (d.1 = .uncorrectable)) (getLane s k) d.2.1).2 ≠ 0 → t.rd F.YG_LANE_BAD_BLOCK.COUNT k =
        min (s.rd F.YG_LANE_BAD_BLOCK.COUNT k + (takeBlocks (decide (d.1 = .uncorrectable)) (getLane s k) d.2.1).2) (2 ^ 32 - 1)) ∧
      t.out = [] ∧ (∀ j, j ≠ k.val → getLane t j = getLane s j) ∧
      s.SameRegs t (codewordFlds ++ cntFlds) ((F.YG_LANE_EQ.VGA :: tapFields).map fun f => (f, k.val)) ∧
      State.SameUnits { s with yg := { s.yg with lanes := t.yg.lanes } } t := by
  obtain ⟨v, hv⟩ : ∃ v, keepHistory { s with out := [] } k levels d.2.2 = v := ⟨_, rfl⟩
  have hvop : LaneOp k (codewordFlds ++ cntFlds) (F.YG_LANE_EQ.VGA :: tapFields) 0 [] { s with out := [] } v := by
    rw [← hv]
    exact .setLane _
  have hvlane : getLane v k = { getLane s k with descr := d.2.2, lastIn := levels.getLastD 0 } := by
    rw [← hv]
    exact getLane_setLane_same _ _ _
  have hvrd : ∀ g : Fld, v.rd g k = s.rd g k := fun g => by rw [← hv]; rfl
  obtain ⟨hcell, hended, hnum⟩ := takeBlocks_congr (decide (d.1 = .uncorrectable)) (x := getLane s k) (y := getLane v k) d.2.1
    (by rw [hvlane]) (by rw [hvlane])
  obtain ⟨w, hw⟩ : ∃ w, upCodeword v k d.1 d.2.1 = w := ⟨_, rfl⟩
  have hwop : LaneOp k (codewordFlds ++ cntFlds) (F.YG_LANE_EQ.VGA :: tapFields) 0 [] v w := hw ▸ upCodeword_op _ _
  obtain ⟨c, hwlane⟩ := getLane_upCodeword v k d.1 d.2.1
  obtain ⟨hcw, huncorr, hcorr, hblocks⟩ := upCodeword_rd v k d.1 d.2.1
  simp only [hw, hvrd, hnum] at hwlane hcw huncorr hcorr hblocks
  rw [hcell, hended, hvlane] at hwlane
  have hrd : ∀ g ∈ codewordFlds, (perform (fun _ => adapted w k eq) s).rd g k = w.rd g k := fun g hg => by
    obtain ⟨hend, heq⟩ := (by decide : ∀ g ∈ codewordFlds, (∀ e ∈ endFlds, e.id ≠ g.id) ∧ ∀ e ∈ F.YG_LANE_EQ.VGA :: tapFields, e.id ≠ g.id) g hg
    exact (perform_rd (fun _ => adapted w k eq) s g k hend).trans ((adapted_op (W := []) eq).rd g k (by simp) heq)
  refine completes_now k (codewordFlds ++ cntFlds) (F.YG_LANE_EQ.VGA :: tapFields) rfl hs (by simp [hst, hbad])
    ((if_pos hst).trans (by rw [← hw, ← hv, ← hd]; rfl)) ((hvop.andThen hwop).andThen (adapted_op eq)) fun hout hothers hregs hunits => ?_
  refine ⟨⟨c, ?_⟩, ?_, fun e he => ?_, ?_, fun h => ?_, fun n h hn => ?_, fun h => ?_, hout, hothers, hregs, hunits⟩
  · rw [perform_getLane]
    exact (getLane_wrAll _ _ _ _).trans hwlane
  · rw [perform_rd _ _ _ _ (by decide), adapted_vga]
  · rw [perform_rd _ _ _ _ ((by decide : ∀ f ∈ tapFields, ∀ d ∈ endFlds, d.id ≠ f.id) _ (List.of_mem_zip he).1)]
    exact wrAll_taps_rd _ _ _ _ he
  · rw [hrd _ (by simp [codewordFlds]), hcw]
  · rw [hrd _ (by simp [codewordFlds]), huncorr h]
  · rw [hrd _ (by simp [codewordFlds]), hrd _ (by simp [codewordFlds])]
    exact hcorr n h hn
  · rw [hrd _ (by simp [codewordFlds]), hblocks h]

end Sys2Proof.Machine
end

section
/-! PROOFS. A lane that leaves its state: its cell cut, its locks lost; and training that fails (R101, Table 4-7). -/
namespace Sys2Proof.Machine

/-- The reports of TX_TRAIN that are due as the lane leaves its state. -/
def leaveSent (s : State) (k : Nat) : List Output := if laneState s k = lnTX_TRAIN then trainSent s k else []

/-- The lane as its state is left, before its cell is cut. -/
def lastReports (s : State) (k : Nat) : State := if laneState s k = lnTX_TRAIN then trainReports s k else s

/-- The lane in its next state, with its cell cut and its locks lost. -/
def departed (s : State) (k st : Nat) : State :=
  let s2 := enterLane (((truncCell (lastReports s k) k).wr F.YG_LANE_STATUS.CW_LOCK k 0).wr F.YG_LANE_STATUS.CDR_LOCK k 0) k st
  setLane s2 k { getLane s2 k with good := 0, bad := 0 }

/-- A lane that leaves its state departs; from UP that is announced. -/
theorem leaveLane_eq (s : State) (k st : Nat) :
    leaveLane s k st = if laneState s k = laneUP then announceDown (departed s k st) k else departed s k st := by
  unfold leaveLane departed lastReports
  simp only [decide_eq_true_eq]

/-- The fields of a lane that change as it departs. -/
def statusFlds : List Fld := [F.YG_LANE_STATUS.STATE, F.YG_LANE_STATUS.CW_LOCK, F.YG_LANE_STATUS.CDR_LOCK]

section
variable {k : Nat} {W L : List Fld} {s : State}

theorem lastReports_op : LaneOp k W L 0 (leaveSent s k) s (lastReports s k) := by
  rw [leaveSent, lastReports]
  split
  · exact trainReports_op
  · exact .refl

theorem truncCell_op (ht : F.YG_LANE_TRUNC.COUNT ∈ W) (hc : cntFlds ⊆ W) : LaneOp k W L 0 [] s (truncCell s k) :=
  .ite (fun _ => ((LaneOp.setLane _).andThen (.bump (List.mem_append_left _ ht) hc 1)).andThen (.laneCount _ _)) fun _ => .refl

theorem departed_op (ht : F.YG_LANE_TRUNC.COUNT ∈ W) (hc : cntFlds ⊆ W) (st : Nat) :
    LaneOp k W statusFlds 0 (leaveSent s k) s (departed s k st) :=
  ((((lastReports_op.andThen (truncCell_op ht hc)).andThen (.wr (by simp [statusFlds]) 0)).andThen (.wr (by simp [statusFlds]) 0)).andThen
    (.enterLane (by simp [statusFlds]) st)).andThen (.setLane _)

end

/-- The lane with its cell cut: the cut is counted for the report. -/
theorem getLane_truncCell (s : State) (k : Nat) :
    getLane (truncCell s k) k = { getLane s k with
      cell := none
      counts := if (getLane s k).cell.isSome then (getLane s k).counts.set 4 ((getLane s k).counts.getD 4 0 + 1) else (getLane s k).counts } := by
  rw [truncCell]
  split
  · rw [getLane_laneCount, getLane_bump, getLane_setLane_same]
  · rename_i h
    obtain hnone : (getLane s k).cell = none := by simpa using h
    rw [← hnone]

/-- A cell that is cut is counted. -/
theorem truncCell_rd {s : State} {k : Nat} (h : (getLane s k).cell.isSome = true) :
    (truncCell s k).rd F.YG_LANE_TRUNC.COUNT k = min (s.rd F.YG_LANE_TRUNC.COUNT k + 1) (2 ^ 32 - 1) := by
  rw [truncCell, if_pos h]
  exact (setLane_rd _ _ _ _ _).trans (bump_rd_same _ _ _ _ (by decide))

theorem getLane_departed (s : State) (k st : Nat) :
    getLane (departed s k st) k = { getLane (truncCell (lastReports s k) k) k with
      good := 0, bad := 0, train := { (getLane (truncCell (lastReports s k) k) k).train with stateAt := s.el } } := by
  have hel : (truncCell (lastReports s k) k).el = s.el :=
    (truncCell_op (W := F.YG_LANE_TRUNC.COUNT :: cntFlds) (L := []) List.mem_cons_self (List.subset_cons_self _ _)).later.2.trans
      (lastReports_op (W := []) (L := [])).later.2
  rw [← hel]
  exact (getLane_setLane_same _ _ _).trans (by rw [getLane_enterLane]; rfl)

theorem enterLane_rd (s : State) (k st : Nat) (g : Fld) (j : Nat) : (enterLane s k st).rd g j = (s.wr F.YG_LANE_STATUS.STATE k st).rd g j :=
  setLane_rd _ _ _ _ _

theorem departed_rd (s : State) (k st : Nat) (g : Fld) (j : Nat) :
    (departed s k st).rd g j = ((((truncCell (lastReports s k) k).wr F.YG_LANE_STATUS.CW_LOCK k 0).wr F.YG_LANE_STATUS.CDR_LOCK k 0).wr
      F.YG_LANE_STATUS.STATE k st).rd g j := by
  rw [departed, setLane_rd, enterLane_rd]

/-- The status of a lane in its next state. -/
theorem departed_status (s : State) (k : Nat) {st : Nat} (h : st < 8) :
    laneState (departed s k st) k = st ∧ (departed s k st).rd F.YG_LANE_STATUS.CW_LOCK k = 0 ∧
      (departed s k st).rd F.YG_LANE_STATUS.CDR_LOCK k = 0 := by
  rw [laneState, departed_rd, departed_rd, departed_rd]
  exact ⟨(State.rd_wr_same _ _ _ _).trans (Nat.mod_eq_of_lt h),
    (State.rd_wr_other _ _ _ _ _ _ (by decide)).trans ((State.rd_wr_other _ _ _ _ _ _ (by decide)).trans (State.rd_wr_same _ _ _ _)),
    (State.rd_wr_other _ _ _ _ _ _ (by decide)).trans (State.rd_wr_same _ _ _ _)⟩

theorem departed_trunc {s : State} {k : Nat} (st : Nat) (h : (getLane s k).cell.isSome = true) :
    (departed s k st).rd F.YG_LANE_TRUNC.COUNT k = min (s.rd F.YG_LANE_TRUNC.COUNT k + 1) (2 ^ 32 - 1) := by
  have hcell : (getLane (lastReports s k) k).cell = (getLane s k).cell := by
    rw [lastReports]
    split
    · rw [getLane_trainReports]
    · rfl
  have hrd : (lastReports s k).rd F.YG_LANE_TRUNC.COUNT k = s.rd F.YG_LANE_TRUNC.COUNT k :=
    (lastReports_op (W := []) (L := [])).rd _ _ (by simp) (by simp)
  rw [← hrd, ← truncCell_rd (by rw [hcell]; exact h), departed_rd]
  exact (State.rd_wr_other _ _ _ _ _ _ (by decide)).trans
    ((State.rd_wr_other _ _ _ _ _ _ (by decide)).trans (State.rd_wr_other _ _ _ _ _ _ (by decide)))

theorem trainReports_ko (s : State) (k : Nat) : (trainReports s k).ko = s.ko := by
  rw [trainReports]
  split
  · rfl
  · rw [foldl_emit_report]
    rfl

theorem truncCell_ko (s : State) (k : Nat) : (truncCell s k).ko = s.ko := by
  rw [truncCell]
  split
  · rw [laneCount, setLane_ko, bump_ko, setLane_ko]
  · rfl

/-- A lane that departs tells the Kiosk nothing. -/
theorem departed_ko (s : State) (k st : Nat) : (departed s k st).ko = s.ko := by
  rw [departed, setLane_ko, enterLane, setLane_ko]
  refine (truncCell_ko _ _).trans ?_
  rw [lastReports]
  split
  · exact trainReports_ko _ _
  · rfl

/-- The lane as it departs from a state outside TX_TRAIN. -/
theorem getLane_departed_quiet {s : State} {k : Nat} (st : Nat) (h : laneState s k ≠ lnTX_TRAIN) :
    getLane (departed s k st) k = { getLane s k with
      cell := none
      counts := if (getLane s k).cell.isSome then (getLane s k).counts.set 4 ((getLane s k).counts.getD 4 0 + 1) else (getLane s k).counts
      good := 0, bad := 0, train := { (getLane s k).train with stateAt := s.el } } := by
  rw [getLane_departed, lastReports, if_neg h, getLane_truncCell]

/-! Training that fails. -/


theorem codewordsBy_congr {s t : State} {k : Nat} (hel : t.el = s.el) (hlane : getLane t k = getLane s k) : codewordsBy t k = codewordsBy s k := by
  rw [codewordsBy, codewordsBy, hel, hlane]

theorem codewordsBy_perform {s u v : State} {k : Nat} (hel : u.el = v.el) (hlane : getLane v k = getLane s k) :
    codewordsBy { perform (fun _ => u) s with yg := s.yg } k = codewordsBy v k :=
  codewordsBy_congr ((perform_el (fun _ => u) s).trans hel) hlane.symm

/-- A lane that has not trained when its timer is over: it departs for TRAIN_FAIL, which is counted and announced. -/
def trainFailed (s : State) (k : Nat) : State :=
  raise (setErr (bump (departed s k lnTRAIN_FAIL) F.YG_LANE_TRAIN_FAIL.COUNT k 1) Err.YG.unit Err.YG.TRAIN_FAIL k) 18 [k]

/-- What the failed training of a lane writes. -/
def trainFailFlds : List Fld := F.YG_LANE_TRAIN_FAIL.COUNT :: F.YG_LANE_TRUNC.COUNT :: Err.YG.unit.flds ++ cntFlds

theorem trainFailed_op {k : Nat} {s : State} : LaneOp k trainFailFlds statusFlds 0 (leaveSent s k) s (trainFailed s k) := by
  have hcnt : cntFlds ⊆ trainFailFlds := fun _ h => by simp [trainFailFlds, h]
  have herr : Err.YG.unit.flds ⊆ trainFailFlds := fun _ h => by simp [trainFailFlds, h]
  exact (((departed_op (by simp [trainFailFlds]) hcnt _).andThen (.bump (by simp [trainFailFlds]) hcnt 1)).andThen (.setErr herr _ _)).andThen
    (.raise _ _)

theorem trainFailed_rd (s : State) (k : Nat) :
    laneState (trainFailed s k) k = lnTRAIN_FAIL ∧
    (trainFailed s k).rd F.YG_LANE_TRAIN_FAIL.COUNT k = min (s.rd F.YG_LANE_TRAIN_FAIL.COUNT k + 1) (2 ^ 32 - 1) ∧
    bit ((trainFailed s k).rd F.YG_ERR.BITS 0) Err.YG.TRAIN_FAIL = true := by
  have hcount : (departed s k lnTRAIN_FAIL).rd F.YG_LANE_TRAIN_FAIL.COUNT k = s.rd F.YG_LANE_TRAIN_FAIL.COUNT k :=
    (departed_op (W := F.YG_LANE_TRUNC.COUNT :: cntFlds) List.mem_cons_self (List.subset_cons_self _ _) _).rd _ _ (by decide) (by decide)
  rw [trainFailed, laneState, raise_rd, raise_rd, raise_rd, setErr_rd_flds _ _ _ _ _ _ (by decide), setErr_rd_flds _ _ _ _ _ _ (by decide),
    bump_rd _ _ _ _ _ _ (by decide) (by decide), bump_rd_same _ _ _ _ (by decide), hcount]
  exact ⟨(departed_status _ _ (by decide)).1, rfl, setErr_bit _ Err.YG.unit _ _ (by decide)⟩

/-- Nothing else than the lane departing changes what the lane holds. -/
theorem getLane_trainFailed (s : State) (k : Nat) : getLane (trainFailed s k) k = getLane (departed s k lnTRAIN_FAIL) k := by
  rw [trainFailed, (raise_sameUnits _ _ _).getLane, (setErr_sameUnits _ _ _ _).getLane, getLane_bump]

/-- Training that reaches its limit fails (R101). -/
theorem trainTimeout_completes {s : State} {k : Fin 64} (hs : s.held = false) (hlo : lnCDR ≤ laneState s k) (hhi : laneState s k ≤ lnCW_LOCK) :
    Completes (.trainTimeout k) s fun t =>
      laneState t k = lnTRAIN_FAIL ∧ s.Later t ((getLane s k).train.timerAt + 50 * msUnits - s.el) ∧ (getLane t k).train.stateAt = t.el ∧
      t.rd F.YG_LANE_TRAIN_FAIL.COUNT k = min (s.rd F.YG_LANE_TRAIN_FAIL.COUNT k + 1) (2 ^ 32 - 1) ∧
      bit (t.rd F.YG_ERR.BITS 0) Err.YG.TRAIN_FAIL = true ∧ s.Raised t 0 18 [k.val] ∧
      t.out.length = (if laneState s k = lnTX_TRAIN then codewordsBy { t with yg := s.yg } k - (getLane s k).train.sent else 0) ∧
      (∀ o ∈ t.out, ∃ r, o = .report k r) ∧ s.SameRegs t trainFailFlds (statusFlds.map fun f => (f, k.val)) ∧ s.OnlyLane t k := by
  have hnotup : laneState s k ≠ laneUP := fun h => absurd (h ▸ hhi) (by decide)
  obtain ⟨due, hdue⟩ : ∃ due, (getLane s k).train.timerAt + 50 * msUnits = due := ⟨_, rfl⟩
  rw [hdue]
  have hu : trainFailed (advanceEl { s with out := [] } due) k =
      raise (setErr (bump (leaveLane (advanceEl { s with out := [] } due) k lnTRAIN_FAIL) F.YG_LANE_TRAIN_FAIL.COUNT k 1) Err.YG.unit
        Err.YG.TRAIN_FAIL k) 18 [k.val] := by
    have hstate : laneState (advanceEl { s with out := [] } due) k = laneState s k :=
      (LaneOp.advanceEl (k := k) (W := cntFlds) (L := []) (List.Subset.refl _) due).laneState (by decide) (by decide)
    rw [leaveLane_eq, if_neg (by rw [hstate]; exact hnotup), trainFailed]
  refine completes_after k trainFailFlds statusFlds due (trainFailed · k) rfl hs (by simp [hlo, hhi])
    (by rw [hu, ← hdue]; rfl) (fun _ h => by simp [trainFailFlds, h]) (fun _ => trainFailed_op) fun v htime hlane hko hlater hout hregs honly => ?_
  have hstate : laneState v k = laneState s k := htime.laneState (by decide) (by decide)
  obtain ⟨hfail, hcount, herr⟩ := trainFailed_rd v k
  have hel : (perform (fun _ => trainFailed v k) s).el = v.el :=
    (perform_el (fun _ => trainFailed v k) s).trans trainFailed_op.later.2
  have hn : codewordsBy { perform (fun _ => trainFailed v k) s with yg := s.yg } k = codewordsBy v k :=
    codewordsBy_perform trainFailed_op.later.2 hlane
  rw [leaveSent, hstate] at hout
  obtain ⟨w, hw⟩ : ∃ w, setErr (bump (departed v k lnTRAIN_FAIL) F.YG_LANE_TRAIN_FAIL.COUNT k 1) Err.YG.unit Err.YG.TRAIN_FAIL k = w := ⟨_, rfl⟩
  have hwko : w.ko = s.ko := by rw [← hw, setErr_ko, bump_ko, departed_ko, hko]
  have hraise : raise w 18 [k.val] = trainFailed v k := by rw [← hw, trainFailed]
  have hlane' := (getLane_trainFailed v k).trans (getLane_departed v k _)
  refine ⟨?_, hlater, ?_, ?_, ?_, raised_of_effect (congrArg KioskSt.evq hwko) (by rw [hraise]), ?_, ?_, hregs, honly⟩
  · rw [perform_laneState, hfail]
  · rw [perform_getLane, hlane', hel]
  · rw [perform_rd _ _ _ _ (by decide), hcount, htime.rd _ _ (by decide) (by decide)]
    rfl
  · rw [perform_rd _ _ _ _ (by decide), herr]
  · rw [hn, hout]
    split
    · rw [trainSent_length, hlane]
    · rfl
  · rw [hout]
    split
    · exact mem_trainSent
    · exact fun _ h => absurd h List.not_mem_nil

/-- Training is tried again 10 ms after it failed (R101). -/
theorem trainFailRetry_completes {s : State} {k : Fin 64} (hs : s.held = false) (hst : laneState s k = lnTRAIN_FAIL) :
    Completes (.trainFailRetry k) s fun t =>
      laneState t k = lnSIGNAL_WAIT ∧ s.Later t ((getLane s k).train.stateAt + 10 * msUnits - s.el) ∧ t.out = [] ∧
      getLane t k = { getLane s k with train := { (getLane s k).train with stateAt := t.el } } ∧
      s.SameRegs t cntFlds [(F.YG_LANE_STATUS.STATE, k.val)] ∧ s.OnlyLane t k := by
  obtain ⟨due, hdue⟩ : ∃ due, (getLane s k).train.stateAt + 10 * msUnits = due := ⟨_, rfl⟩
  rw [hdue]
  refine completes_after k cntFlds [F.YG_LANE_STATUS.STATE] due (enterLane · k lnSIGNAL_WAIT) (o := fun _ => []) rfl hs (by simp [hst])
    (by rw [← hdue]; rfl) (List.Subset.refl _) (fun _ => .enterLane (by simp) _) fun v htime hlane hko hlater hout hregs honly => ?_
  refine ⟨?_, hlater, hout, ?_, hregs, honly⟩
  · rw [perform_laneState]
    exact laneState_enterLane _ _ (by decide)
  · rw [perform_getLane, getLane_enterLane, hlane, perform_el]
    rfl

end Sys2Proof.Machine
end

section
/-! PROOFS. Work beside a lane: what the flags of an integration and the selection of Sundial leave of the state. -/
namespace Sys2Proof.Machine

/-- A relation between the units before and after some work: it holds where no unit changed, or the accumulation alone, and of one work
after another. -/
structure UnitsRel (P : State → State → Prop) : Prop where
  same : ∀ {s t : State}, s.SameUnits t → P s t
  acs : ∀ (s : State) (a : AccSt), P s { s with acs := a }
  trans : ∀ {s t u : State}, P s t → P t u → P s u

/-- Work that relates the units by P, writes no other registers than the fields of `W`, and sends nothing out; events that waited go on
waiting. -/
structure SideOp (P : State → State → Prop) (W : List Fld) (s t : State) : Prop where
  units : P s t
  regs : ∀ g j, (∀ e ∈ W, e.id ≠ g.id) → t.rd g j = s.rd g j
  out : t.out = s.out
  events : s.ko.evq <+: t.ko.evq

namespace SideOp

variable {P : State → State → Prop} {W : List Fld} {s t u : State}

theorem mono {V : List Fld} (h : SideOp P W s t) (hV : W ⊆ V) : SideOp P V s t :=
  ⟨h.units, fun g j hg => h.regs g j fun e he => hg e (hV he), h.out, h.events⟩

variable (hP : UnitsRel P)
include hP

theorem refl : SideOp P W s s := ⟨hP.same rfl, fun _ _ _ => rfl, rfl, List.prefix_refl _⟩

theorem trans (h : SideOp P W s t) (h' : SideOp P W t u) : SideOp P W s u :=
  ⟨hP.trans h.units h'.units, fun g j hg => (h'.regs g j hg).trans (h.regs g j hg), h'.out.trans h.out, h.events.trans h'.events⟩

theorem wr {f : Fld} (hf : f ∈ W) (k v : Nat) : SideOp P W s (s.wr f k v) :=
  ⟨hP.same rfl, fun _ _ hg => State.rd_wr_other _ _ _ _ _ _ (hg f hf), rfl, List.prefix_refl _⟩

theorem bump {f : Fld} (hf : f ∈ W) (hc : cntFlds ⊆ W) (k n : Nat) : SideOp P W s (bump s f k n) :=
  ⟨hP.same (bump_sameUnits _ _ _ _), fun _ _ hg => bump_rd _ _ _ _ _ _ (hg f hf) fun e he => hg e (hc he), bump_out _ _ _ _, by rw [bump_ko]⟩

theorem setErr {v : ErrUnit} (hv : v.flds ⊆ W) (i info : Nat) : SideOp P W s (setErr s v i info) :=
  ⟨hP.same (setErr_sameUnits _ _ _ _), fun _ _ hg => setErr_rd_flds _ _ _ _ _ _ fun e he => hg e (hv he), setErr_out _ _ _ _, by rw [setErr_ko]⟩

theorem setAlert (hf : F.BELV_ALERT_STATUS.STATUS ∈ W) (i : Nat) : SideOp P W s (setAlert s i) :=
  ⟨hP.same (setAlert_sameUnits _ _), fun _ _ hg => setAlert_rd _ _ _ _ (hg _ hf), setAlert_out _ _, by rw [setAlert_ko]⟩

theorem raise (code : Nat) (args : List Nat) : SideOp P W s (raise s code args) :=
  ⟨hP.same (raise_sameUnits _ _ _), fun _ _ _ => raise_rd _ _ _ _ _, raise_out _ _ _, raise_evq _ _ _⟩

theorem acs (a : AccSt) : SideOp P W s { s with acs := a } := ⟨hP.acs s a, fun _ _ _ => rfl, rfl, List.prefix_refl _⟩

omit hP in
theorem ite {c : Prop} [Decidable c] (h : c → SideOp P W s t) (h' : ¬ c → SideOp P W s u) : SideOp P W s (if c then t else u) := by
  split
  · exact h ‹_›
  · exact h' ‹_›

end SideOp

/-! The flags of an integration (R94, R211). -/

/-- The fields that a flag put on an integration writes. -/
def flagFlds : List Fld := F.ACC_BANK_FLAGS.FLAGS :: Err.PO.unit.flds

section
variable {P : State → State → Prop} {s : State} (hP : UnitsRel P)
include hP

theorem dumpAmend_op (num flags ovf stream : Nat) : SideOp P flagFlds s (dumpAmend s num flags ovf stream) :=
  (SideOp.setErr hP (List.subset_cons_self _ _) _ _).trans hP (.raise hP _ _)

theorem flagBank_op (x flag : Nat) : SideOp P flagFlds s (flagBank s x flag) :=
  .ite (fun _ => .ite (fun _ => .refl hP) fun _ => (SideOp.wr hP List.mem_cons_self _ _).trans hP (dumpAmend_op hP _ _ _ _))
    fun _ => .wr hP List.mem_cons_self _ _

theorem flagNow_op (flag : Nat) : SideOp P flagFlds s (flagNow s flag) := by
  rw [flagNow]
  split
  · exact flagBank_op hP _ _
  · exact .ite (fun _ => .acs hP _) fun _ => .refl hP

theorem markMirror_op (kind item : Nat) : SideOp P flagFlds s (markMirror s kind item) := (flagNow_op hP _).trans hP (.raise hP _ _)

end

/-! Sundial (R293 to R300). -/

/-- Of the units, Sundial and the accumulation alone changed. -/
def SideUnits (s t : State) : Prop := State.SameUnits { s with sd := t.sd, acs := t.acs } t

theorem sideUnits_rel : UnitsRel SideUnits where
  same h := by
    unfold SideUnits
    rw [h.sd, h.acs]
    exact h
  acs _ _ := rfl
  trans h h' := by
    unfold SideUnits State.SameUnits at *
    rw [h']
    rw [h]

/-- The fields that Sundial writes as it looks at its references again. -/
def sundialFlds : List Fld :=
  [F.SD_STATUS.STATE, F.SD_STATUS.TRACEABLE, F.SD_STATUS.ALARM, F.SD_STATUS.SEL_VALID, F.SD_STATUS.SELECTED, F.SD_STATUS.DISAGREE,
   F.SD_STATUS.DISAGREE_NOSEL, F.SD_STATUS.QUALIFIED, F.SD_STATUS.WTR_RUN, F.SD_REF_STATUS.QUALIFIED, F.SD_REF_STATUS.ACTIVE,
   F.SD_REF_STATUS.FREQ_OK, F.SD_HOLDOVERS.COUNT, F.SD_SWITCHES.COUNT, F.SD_DISQUALS.COUNT, F.BELV_ALERT_STATUS.STATUS] ++
  Err.SD.unit.flds ++ cntFlds

/-- Sundial enters HOLDOVER with the frequency it had (R299). -/
def holdoverStart (s : State) (st : Nat) : State :=
  if st = sdHOLDOVER then { setRemain s 0 with sd := { (setRemain s 0).sd with holdFreq := histMean s } } else s

/-- The state of Sundial, and whether it is traceable, in its registers (R300). -/
def stateNoted (s : State) (st : Nat) : State :=
  let s1 := (s.wr F.SD_STATUS.STATE 0 st).wr F.SD_STATUS.TRACEABLE 0 (b2n (traceable st))
  if traceable st then s1 else { s1 with sd := { s1.sd with untraced := true } }

/-- The counter and the error of HOLDOVER (R297). -/
def holdoverCounted (s : State) (st : Nat) : State :=
  if st = sdHOLDOVER then setErr (bump s F.SD_HOLDOVERS.COUNT 0 1) Err.SD.unit Err.SD.HOLDOVER 0 else s

/-- The steps of a change of state. -/
theorem setSd_eq (s : State) (st : Nat) : setSd s st = if s.sdState = st then s else
    noteFreq (holdoverCounted (raise (updAlarm (stateNoted (holdoverStart s st) st)) 26 [st, s.sdState]) st) := rfl

/-- Work of Sundial. -/
def SundialOp (s t : State) : Prop := SideOp SideUnits sundialFlds s t

namespace SundialOp

variable {s t u : State}

theorem refl : SundialOp s s := SideOp.refl sideUnits_rel

theorem trans (h : SundialOp s t) (h' : SundialOp t u) : SundialOp s u := SideOp.trans sideUnits_rel h h'

theorem ite {c : Prop} [Decidable c] (h : c → SundialOp s t) (h' : ¬ c → SundialOp s u) : SundialOp s (if c then t else u) := SideOp.ite h h'

theorem wr {f : Fld} (hf : f ∈ sundialFlds) (k v : Nat) : SundialOp s (s.wr f k v) := SideOp.wr sideUnits_rel hf k v

theorem bump {f : Fld} (hf : f ∈ sundialFlds) (k n : Nat) : SundialOp s (bump s f k n) :=
  SideOp.bump sideUnits_rel hf (List.subset_append_right _ _) k n

theorem setErr (i info : Nat) : SundialOp s (setErr s Err.SD.unit i info) :=
  SideOp.setErr sideUnits_rel (fun _ h => List.mem_append_left _ (List.mem_append_right _ h)) i info

theorem raise (code : Nat) (args : List Nat) : SundialOp s (raise s code args) := SideOp.raise sideUnits_rel code args

theorem sd (x : SundialSt) : SundialOp s { s with sd := x } := ⟨rfl, fun _ _ _ => rfl, rfl, List.prefix_refl _⟩

theorem updAlarm (s : State) : SundialOp s (updAlarm s) :=
  .ite (fun _ => (wr (by simp [sundialFlds]) _ _).trans (SideOp.setAlert sideUnits_rel (by simp [sundialFlds]) 1)) fun _ =>
    wr (by simp [sundialFlds]) _ _

theorem closeSlew (s : State) : SundialOp s (closeSlew s) := by
  rw [Machine.closeSlew]
  split
  · exact .ite (fun _ => .sd _) fun _ => .refl
  · exact .refl

theorem noteFreq (s : State) : SundialOp s (noteFreq s) := (closeSlew s).trans (.sd _)

theorem setRemain (s : State) (x : Int) : SundialOp s (setRemain s x) := ((closeSlew s).trans (.sd _)).trans (noteFreq _)

theorem holdoverStart (s : State) (st : Nat) : SundialOp s (holdoverStart s st) := .ite (fun _ => (setRemain s 0).trans (.sd _)) fun _ => .refl

theorem stateNoted (s : State) (st : Nat) : SundialOp s (stateNoted s st) := by
  have hwritten := (wr (s := s) (f := F.SD_STATUS.STATE) (by simp [sundialFlds]) 0 st).trans
    (wr (f := F.SD_STATUS.TRACEABLE) (by simp [sundialFlds]) 0 (b2n (traceable st)))
  exact .ite (fun _ => hwritten) fun _ => hwritten.trans (.sd _)

theorem holdoverCounted (s : State) (st : Nat) : SundialOp s (holdoverCounted s st) :=
  .ite (fun _ => (bump (by simp [sundialFlds]) 0 1).trans (.setErr _ _)) fun _ => .refl

theorem setSd (s : State) (st : Nat) : SundialOp s (setSd s st) := by
  rw [setSd_eq]
  exact .ite (fun _ => .refl) fun _ => (((((holdoverStart s st).trans (stateNoted _ st)).trans (updAlarm _)).trans (.raise _ _)).trans
    (holdoverCounted _ st)).trans (noteFreq _)

theorem selectRef (s : State) (c : Nat) : SundialOp s (selectRef s c) :=
  (((wr (by simp [sundialFlds]) 0 1).trans (.wr (by simp [sundialFlds]) 0 c)).trans (.sd _)).trans (noteFreq _)

theorem switchTo (s : State) (c : Nat) : SundialOp s (switchTo s c) := by
  refine SundialOp.trans ?_ (setSd _ _)
  refine (selectRef s c).trans ?_
  split
  · exact (SundialOp.sd _).trans (setRemain _ _)
  · exact setRemain _ _

theorem takeChoice (s : State) (c : Nat) : SundialOp s (takeChoice s c) :=
  .ite (fun _ => (selectRef s c).trans (setSd _ _)) fun _ =>
    .ite (fun _ => (bump (by simp [sundialFlds]) 0 1).trans (switchTo _ c)) fun _ => switchTo s c

theorem loseSelection (s : State) : SundialOp s (loseSelection s) := by
  have hlost : SundialOp s { s.wr F.SD_STATUS.SEL_VALID 0 0 with sd := { s.sd with lockSince := none, revert := none } } :=
    (wr (by simp [sundialFlds]) 0 0).trans (.sd _)
  exact .ite (fun _ => hlost.trans (setSd _ _)) fun _ => .ite (fun _ => hlost.trans (setSd _ _)) fun _ => hlost

theorem noteDisagree (s : State) (d n : Bool) : SundialOp s (noteDisagree s d n) := by
  have hbits := ((wr (s := s) (f := F.SD_STATUS.DISAGREE) (by simp [sundialFlds]) 0 (b2n d)).trans
    (wr (f := F.SD_STATUS.DISAGREE_NOSEL) (by simp [sundialFlds]) 0 (b2n n))).trans (updAlarm _)
  exact .ite (fun _ => (hbits.trans (.setErr _ _)).trans (.raise _ _)) fun _ => hbits

theorem followChoice (s : State) : SundialOp s (followChoice s) := by
  have hnoted := noteDisagree s (choose s).disagree (choose s).nosel
  rw [Machine.followChoice]
  split
  · exact .ite (fun _ => hnoted) fun _ => .ite (fun _ => hnoted.trans (loseSelection _)) fun _ => hnoted
  · exact .ite (fun _ => hnoted.trans (takeChoice _ _)) fun _ => .ite (fun _ => hnoted.trans (takeChoice _ _)) fun _ => hnoted

theorem keepWtr (s : State) : SundialOp s (keepWtr s) := (SundialOp.sd _).trans (.wr (by simp [sundialFlds]) 0 _)

theorem reselect (s : State) : SundialOp s (reselect s) := (followChoice s).trans (keepWtr _)

theorem setQualified (s : State) (r : Nat) (q : Bool) : SundialOp s (setQualified s r q) :=
  (wr (by simp [sundialFlds]) _ _).trans (.wr (by simp [sundialFlds]) _ _)

theorem refTimer (s : State) (r : Nat) (restart : Bool) : SundialOp s (refTimer s r restart) :=
  ((SundialOp.sd _).trans (.wr (by simp [sundialFlds]) _ _)).trans (.wr (by simp [sundialFlds]) _ _)

theorem disqualify (s : State) (r cond : Nat) : SundialOp s (disqualify s r cond) :=
  .ite (fun _ => (((setQualified s r false).trans (.bump (by simp [sundialFlds]) 0 1)).trans (.setErr _ _)).trans (.raise _ _)) fun _ => .refl

theorem refCheck (s : State) (r : Nat) : SundialOp s (refCheck s r) :=
  .ite (fun _ => (refTimer s r false).trans (disqualify _ _ _)) fun _ => refTimer s r false

theorem refEval (s : State) (r : Nat) : SundialOp s (refEval s r) := (refCheck s r).trans (reselect _)

theorem rclkGate (s : State) (running : Bool) : SundialOp s (rclkGate s running) :=
  .ite (fun _ => refEval s 2) fun _ => (SundialOp.sd _).trans (refEval _ 2)

end SundialOp

end Sys2Proof.Machine
end

section
/-! PROOFS. A departure from UP: what is announced beside the lane, and the burst (R94, R97, R101, R397). -/
namespace Sys2Proof.Machine

/-- The departure counted and told. -/
def downCounted (s : State) (k : Nat) : State := setErr (bump s F.YG_LANE_DOWN_CNT.COUNT k 1) Err.YG.unit Err.YG.LANE_DOWN k

/-- The departure announced, and the mirror marked degraded where the lane is one of a pair. -/
def downMarked (s : State) (k : Nat) : State :=
  if s.dp = dpRUNNING ∧ 2 ≤ effRole s k then markMirror (raise (downCounted s k) 16 [k]) 1 k else raise (downCounted s k) 16 [k]

/-- An eye scan that runs on the lane is aborted. -/
def eyeStopped (s : State) (k : Nat) : State :=
  if s.rd F.BELV_EYE_STATUS.STATE k = 1 then eyeAbort (s.takeFree).2 k 2 (s.takeFree).1 else s

/-- The recovered clock of the lane is gated off. -/
def clockGated (s : State) (k : Nat) : State := if s.rd F.YG_CFG.RCLK_LANE 0 = k then rclkGate s false else s

/-- The fields of an eye scan that ends. -/
def eyeFlds : List Fld := [F.BELV_EYE_STATUS.STATE, F.BELV_EYE_STATUS.CAUSE, F.BELV_EYE_ERRS.ERRS, F.BELV_EYE_SYMS.SYMS]

/-- The fields of a departure from UP, beside those of the state of the lane. -/
def downFlds : List Fld := F.YG_LANE_DOWN_CNT.COUNT :: Err.YG.unit.flds ++ flagFlds ++ eyeFlds ++ sundialFlds

theorem downCounted_op {s : State} (k : Nat) : SideOp SideUnits (F.YG_LANE_DOWN_CNT.COUNT :: Err.YG.unit.flds ++ cntFlds) s (downCounted s k) :=
  (SideOp.bump sideUnits_rel (by simp) (fun _ h => by simp [h]) k 1).trans sideUnits_rel (.setErr sideUnits_rel (fun _ h => by simp [h]) _ _)

/-- After the announcement the mirror alone is looked at. -/
theorem downMarked_op {s : State} (k : Nat) : SideOp SideUnits flagFlds (raise (downCounted s k) 16 [k]) (downMarked s k) :=
  .ite (fun _ => markMirror_op sideUnits_rel _ _) fun _ => .refl sideUnits_rel

theorem takeFree_op {s : State} : SideOp SideUnits eyeFlds s s.takeFree.2 := ⟨rfl, fun _ _ _ => rfl, rfl, List.prefix_refl _⟩

theorem eyeAbort_op {s : State} (k cause errs : Nat) : SideOp SideUnits eyeFlds s (eyeAbort s k cause errs) := by
  have hwr : ∀ {v : State} {f : Fld} (_ : f ∈ eyeFlds) (n : Nat), SideOp SideUnits eyeFlds v (v.wr f k n) := fun hf n => .wr sideUnits_rel hf k n
  exact (((hwr (by simp [eyeFlds]) _).trans sideUnits_rel (hwr (by simp [eyeFlds]) _)).trans sideUnits_rel
    (hwr (by simp [eyeFlds]) _)).trans sideUnits_rel (hwr (by simp [eyeFlds]) _)

theorem eyeStopped_op {s : State} (k : Nat) : SideOp SideUnits eyeFlds s (eyeStopped s k) :=
  .ite (fun _ => takeFree_op.trans sideUnits_rel (eyeAbort_op _ _ _)) fun _ => .refl sideUnits_rel

theorem clockGated_op {s : State} (k : Nat) : SideOp SideUnits sundialFlds s (clockGated s k) :=
  .ite (fun _ => SundialOp.rclkGate s false) fun _ => .refl sideUnits_rel

/-- The scan of a lane that departs is ABORTED by the departure (R397). -/
theorem eyeStopped_rd {s : State} {k : Nat} (h : s.rd F.BELV_EYE_STATUS.STATE k = 1) :
    (eyeStopped s k).rd F.BELV_EYE_STATUS.STATE k = 3 ∧ (eyeStopped s k).rd F.BELV_EYE_STATUS.CAUSE k = 2 := by
  rw [eyeStopped, if_pos h, eyeAbort]
  refine ⟨?_, ?_⟩
  · rw [State.rd_wr_other _ _ _ _ _ _ (by decide), State.rd_wr_other _ _ _ _ _ _ (by decide), State.rd_wr_other _ _ _ _ _ _ (by decide),
      State.rd_wr_same]
    rfl
  · rw [State.rd_wr_other _ _ _ _ _ _ (by decide), State.rd_wr_other _ _ _ _ _ _ (by decide), State.rd_wr_same]
    rfl

/-- The state in which the burst of a departure is sent. -/
def downState (s : State) (k : Nat) : State := clockGated (eyeStopped (downMarked s k) k) k

/-- The burst ends the announcement of a departure. -/
theorem announceDown_eq (s : State) (k : Nat) : announceDown s k = sendReport (downState s k) k := rfl

/-- What follows the announcement. -/
theorem downState_after (s : State) (k : Nat) : SideOp SideUnits downFlds (raise (downCounted s k) 16 [k]) (downState s k) := by
  have hflag : flagFlds ⊆ downFlds := fun _ h => by simp [downFlds, h]
  have heye : eyeFlds ⊆ downFlds := fun _ h => by simp [downFlds, h]
  have hsundial : sundialFlds ⊆ downFlds := fun _ h => by simp [downFlds, h]
  exact (((downMarked_op k).mono hflag).trans sideUnits_rel ((eyeStopped_op k).mono heye)).trans sideUnits_rel ((clockGated_op k).mono hsundial)

theorem downState_op (s : State) (k : Nat) : SideOp SideUnits downFlds s (downState s k) := by
  have hcnt : cntFlds ⊆ sundialFlds := List.subset_append_right _ _
  have hcounted : F.YG_LANE_DOWN_CNT.COUNT :: Err.YG.unit.flds ++ cntFlds ⊆ downFlds := by
    intro e he
    rcases List.mem_append.mp he with h | h
    · simp only [downFlds, List.append_assoc]
      exact List.mem_append_left _ h
    · exact List.mem_append_right _ (hcnt h)
  exact (((downCounted_op k).mono hcounted).trans sideUnits_rel (.raise sideUnits_rel _ _)).trans sideUnits_rel (downState_after s k)

/-- The fields of the departure are not those that a report looks at, nor those of the state of the lane. -/
theorem downState_rd (s : State) (k : Nat) : ∀ g ∈ F.YG_LANE_CTL.PRECODE :: F.YG_LANE_STATUS.LOS :: F.YG_LANE_TRUNC.COUNT :: statusFlds ++ reportFlds,
    ∀ j, (downState s k).rd g j = s.rd g j := fun g hg j =>
  (downState_op s k).regs g j ((by decide : ∀ g ∈ F.YG_LANE_CTL.PRECODE :: F.YG_LANE_STATUS.LOS :: F.YG_LANE_TRUNC.COUNT :: statusFlds ++ reportFlds,
    ∀ e ∈ downFlds, e.id ≠ g.id) g hg)

theorem downState_keeps (s : State) (k : Nat) : (downState s k).yg = s.yg ∧ (downState s k).tb = s.tb ∧ (downState s k).el = s.el := by
  have h : State.SameUnits { s with sd := (downState s k).sd, acs := (downState s k).acs } (downState s k) := (downState_op s k).units
  have hyg := h.yg
  have htb := h.tb
  have hel := h.el
  exact ⟨hyg, htb, hel⟩

theorem getLane_downState (s : State) (k j : Nat) : getLane (downState s k) j = getLane s j := by
  rw [getLane, getLane, (downState_keeps s k).1]

/-- The burst of a departure carries the report of the lane in its next state. -/
theorem laneReport_downState (s : State) (k : Nat) : laneReport (downState s k) k = laneReport s k :=
  laneReport_congr (by rw [getLane_downState]) (fun f hf j => downState_rd s k f (List.mem_append_right _ hf) j) (downState_keeps s k).2.1

theorem burstLine_downState (s : State) (k : Nat) (r : List Byte) : burstLine (downState s k) k r = burstLine s k r :=
  burstLine_congr (by rw [getLane_downState]) (downState_rd s k _ List.mem_cons_self _) r

/-- One burst leaves with a departure. -/
theorem announceDown_out (s : State) (k : Nat) :
    (announceDown s k).out = s.out ++ [.burst k (laneReport s k) (burstLine s k (laneReport s k)).2] := by
  rw [announceDown_eq, (sendReport_op (k := k) (W := []) (L := []) (s := downState s k)).out, (downState_op s k).out, laneReport_downState, burstLine_downState]

/-- The lane after the burst. -/
theorem getLane_announceDown (s : State) (k : Nat) :
    getLane (announceDown s k) k =
      { getLane s k with counts := [0, 0, 0, 0, 0], repAt := s.el, scram := (burstLine s k (laneReport s k)).1 } := by
  rw [announceDown_eq, getLane_sendReport, getLane_downState, laneReport_downState, burstLine_downState, (downState_keeps s k).2.2]

theorem getLane_announceDown_other (s : State) {k j : Nat} (h : j ≠ k) : getLane (announceDown s k) j = getLane s j :=
  ((sendReport_op (k := k) (W := []) (L := []) (s := downState s k)).others j h).trans (getLane_downState s k j)

/-- The burst writes no register. -/
theorem announceDown_rd (s : State) (k : Nat) (g : Fld) (j : Nat) : (announceDown s k).rd g j = (downState s k).rd g j :=
  (sendReport_op (k := k) (W := []) (L := []) (s := downState s k)).rd g j (by simp) (by simp)

/-- A departure is counted, with its error bit (R101). -/
theorem announceDown_counted (s : State) (k : Nat) :
    (announceDown s k).rd F.YG_LANE_DOWN_CNT.COUNT k = min (s.rd F.YG_LANE_DOWN_CNT.COUNT k + 1) (2 ^ 32 - 1) ∧
      bit ((announceDown s k).rd F.YG_ERR.BITS 0) Err.YG.LANE_DOWN = true := by
  have hafter : ∀ g, (∀ e ∈ flagFlds ++ eyeFlds ++ sundialFlds, e.id ≠ g.id) → ∀ j, (announceDown s k).rd g j = (downCounted s k).rd g j :=
    fun g hg j => by
      have hsub : ∀ {V : List Fld}, V ⊆ flagFlds ++ eyeFlds ++ sundialFlds → ∀ e ∈ V, e.id ≠ g.id := fun hV e he => hg e (hV he)
      rw [announceDown_rd, downState, (clockGated_op k).regs g j (hsub (by simp)),
        (eyeStopped_op k).regs g j (hsub fun _ h => by simp [h]), (downMarked_op k).regs g j (hsub fun _ h => by simp [h]), raise_rd]
  rw [hafter _ (by decide), hafter _ (by decide), downCounted, setErr_rd_flds _ _ _ _ _ _ (by decide), bump_rd_same _ _ _ _ (by decide)]
  exact ⟨rfl, setErr_bit _ Err.YG.unit _ _ (by decide)⟩

/-- The scan of a lane that departs ends ABORTED (R397). -/
theorem announceDown_eye {s : State} {k : Nat} (h : s.rd F.BELV_EYE_STATUS.STATE k = 1) :
    (announceDown s k).rd F.BELV_EYE_STATUS.STATE k = 3 ∧ (announceDown s k).rd F.BELV_EYE_STATUS.CAUSE k = 2 := by
  have hmarked : (downMarked s k).rd F.BELV_EYE_STATUS.STATE k = 1 := by
    rw [(downMarked_op k).regs _ _ (by decide), raise_rd, (downCounted_op k).regs _ _ (by decide), h]
  obtain ⟨hstate, hcause⟩ := eyeStopped_rd hmarked
  rw [announceDown_rd, announceDown_rd, downState, (clockGated_op k).regs _ _ (by decide), (clockGated_op k).regs _ _ (by decide)]
  exact ⟨hstate, hcause⟩

/-- The departure is the first event. -/
theorem announceDown_events (s : State) (k : Nat) : (raise (downCounted s k) 16 [k]).ko.evq <+: (announceDown s k).ko.evq :=
  (downState_after s k).events

theorem downCounted_ko (s : State) (k : Nat) : (downCounted s k).ko = s.ko := by rw [downCounted, setErr_ko, bump_ko]

/-- Of the units, a departure changes the lane, Sundial and the accumulation. -/
theorem announceDown_units (s : State) (k : Nat) :
    State.SameUnits { s with yg := { s.yg with lanes := (announceDown s k).yg.lanes }, sd := (announceDown s k).sd, acs := (announceDown s k).acs }
      (announceDown s k) := by
  have hside : SideUnits s (downState s k) := (downState_op s k).units
  have hreport : State.SameUnits { downState s k with yg := { (downState s k).yg with lanes := (announceDown s k).yg.lanes } } (announceDown s k) :=
    rfl
  unfold SideUnits State.SameUnits at *
  rw [hreport]
  rw [hside]

end Sys2Proof.Machine
end

section
/-! PROOFS. A lane that goes down from UP (R101): what the command leaves, by whichever row of Table 4-7. -/
namespace Sys2Proof.Machine

/-- The fields that are written before a lane leaves UP, or after. -/
def aroundFlds : List Fld :=
  F.YG_LANE_STATUS.LOS :: F.YG_LANE_STATUS.STATE ::
    [F.YG_LANE_CTL.COLD_TRAIN, F.YG_LANE_CTL.TXEQ_SKIP, F.YG_LANE_CTL.PRECODE, F.YG_LANE_CTL.ROLE]

/-- Of the units, the lanes, Sundial and the accumulation alone changed. -/
def DownUnits (s t : State) : Prop := State.SameUnits { s with yg := { s.yg with lanes := t.yg.lanes }, sd := t.sd, acs := t.acs } t

theorem DownUnits.trans {s t u : State} (h : DownUnits s t) (h' : DownUnits t u) : DownUnits s u := by
  unfold DownUnits State.SameUnits at *
  rw [h']
  rw [h]

/-- A command whose effect leaves the other units leaves them. -/
theorem DownUnits.perform {s u : State} (h : DownUnits { s with out := [] } u) : DownUnits s (perform (fun _ => u) s) := by
  have hu := perform_sameUnits (fun _ => u) s
  have hyg := hu.yg
  have hsd := hu.sd
  have hacs := hu.acs
  unfold DownUnits
  rw [hyg, hsd, hacs]
  exact perform_keepsUnits (f := fun _ => u) (s := s) h rfl

/-- Work on a lane of no time changes the lanes alone. -/
theorem LaneOp.downUnits {k : Nat} {W L : List Fld} {o : List Output} {s t : State} (h : LaneOp k W L 0 o s t) : DownUnits s t := by
  have hunits := h.units
  obtain ⟨htb, hel⟩ := h.later
  have hsd := hunits.sd
  have hacs := hunits.acs
  dsimp only at hsd hacs
  rw [htb, hel] at hunits
  unfold DownUnits
  rw [hsd, hacs]
  exact hunits

/-- The departure of lane k from UP in the counters, errors and events of t. -/
def DownAnnounced (s t : State) (k : Nat) : Prop :=
  t.rd F.YG_LANE_DOWN_CNT.COUNT k = min (s.rd F.YG_LANE_DOWN_CNT.COUNT k + 1) (2 ^ 32 - 1) ∧
  bit (t.rd F.YG_ERR.BITS 0) Err.YG.LANE_DOWN = true ∧ s.Raised t 0 16 [k] ∧
  ((getLane s k).cell.isSome = true → t.rd F.YG_LANE_TRUNC.COUNT k = min (s.rd F.YG_LANE_TRUNC.COUNT k + 1) (2 ^ 32 - 1))

theorem leaveLane_up {s : State} {k : Nat} (st : Nat) (h : laneState s k = laneUP) : leaveLane s k st = announceDown (departed s k st) k := by
  rw [leaveLane_eq, if_pos h]

theorem leaveLane_notUp {s : State} {k : Nat} (st : Nat) (h : laneState s k ≠ laneUP) : leaveLane s k st = departed s k st := by
  rw [leaveLane_eq, if_neg h]

/-- The fields that a departure reads or counts are not counted otherwise. -/
theorem departed_rd_kept (s : State) (k st : Nat) (g : Fld) (j : Nat) (h : ∀ e ∈ F.YG_LANE_TRUNC.COUNT :: cntFlds ++ statusFlds, e.id ≠ g.id) :
    (departed s k st).rd g j = s.rd g j :=
  (departed_op (k := k) (W := F.YG_LANE_TRUNC.COUNT :: cntFlds) List.mem_cons_self (List.subset_cons_self _ _) st).rd g j
    (fun e he => h e (List.mem_append_left _ he)) fun e he => h e (List.mem_append_right _ he)

/-- A lane leaves UP within a command: `v` is the state in which it leaves, `u` the state after all work on the lane. -/
structure LeavesUp (k st : Nat) (s v u : State) : Prop where
  before : LaneOp k [] aroundFlds 0 [] { s with out := [] } v
  told : v.ko = s.ko
  same : getLane v k = getLane s k
  up : laneState v k = laneUP
  after : LaneOp k [] aroundFlds 0 [] (leaveLane v k st) u

namespace LeavesUp

variable {k st : Nat} {s v u : State} (h : LeavesUp k st s v u)
include h

/-- The departure is counted and announced (R101). -/
theorem announced : DownAnnounced s (perform (fun _ => u) s) k := by
  have hafter := h.after
  rw [leaveLane_up st h.up] at hafter
  obtain ⟨hcount, herr⟩ := announceDown_counted (departed v k st) k
  refine ⟨?_, ?_, raised_of_effect (w := downCounted (departed v k st) k) ?_ ((announceDown_events _ _).trans hafter.events), fun hcell => ?_⟩
  · rw [perform_rd _ _ _ _ (by decide), hafter.rd _ _ (by simp) (by decide), hcount, departed_rd_kept _ _ _ _ _ (by decide),
      h.before.rd _ _ (by simp) (by decide)]
    rfl
  · rw [perform_rd _ _ _ _ (by decide), hafter.rd _ _ (by simp) (by decide), herr]
  · rw [downCounted_ko, departed_ko, h.told]
  · rw [perform_rd _ _ _ _ (by decide), hafter.rd _ _ (by simp) (by decide), announceDown_rd, downState_rd _ _ _ (by simp),
      departed_trunc st (by rw [h.same]; exact hcell), h.before.rd _ _ (by simp) (by decide)]
    rfl

/-- One burst leaves, with the report of the lane that has departed. -/
theorem out : (perform (fun _ => u) s).out =
    [.burst k (laneReport (departed v k st) k) (burstLine (departed v k st) k (laneReport (departed v k st) k)).2] := by
  have hafter := h.after
  rw [leaveLane_up st h.up] at hafter
  have hsent : leaveSent v k = [] := by
    rw [leaveSent, h.up]
    rfl
  have hdeparted : (departed v k st).out = v.out ++ leaveSent v k :=
    (departed_op (k := k) (W := F.YG_LANE_TRUNC.COUNT :: cntFlds) List.mem_cons_self (List.subset_cons_self _ _) st).out
  have hv : v.out = [] := h.before.out
  rw [perform_out, hafter.out, List.append_nil, announceDown_out, hdeparted, hsent, hv, List.nil_append, List.nil_append]

/-- Of the units, the departure changes the lane, Sundial and the accumulation. -/
theorem units : DownUnits s (perform (fun _ => u) s) := by
  have hafter := h.after.downUnits
  rw [leaveLane_up st h.up] at hafter
  have hdeparted : DownUnits v (departed v k st) :=
    (departed_op (k := k) (W := F.YG_LANE_TRUNC.COUNT :: cntFlds) List.mem_cons_self (List.subset_cons_self _ _) st).downUnits
  have hdown : DownUnits (departed v k st) (announceDown (departed v k st) k) := announceDown_units _ _
  have hbefore := h.before.downUnits
  exact (((hbefore.trans hdeparted).trans hdown).trans hafter).perform

theorem others : ∀ j, j ≠ k → getLane (perform (fun _ => u) s) j = getLane s j := fun j hj => by
  have hafter := h.after
  rw [leaveLane_up st h.up] at hafter
  rw [perform_getLane, hafter.others j hj, getLane_announceDown_other _ hj,
    (departed_op (k := k) (W := F.YG_LANE_TRUNC.COUNT :: cntFlds) List.mem_cons_self (List.subset_cons_self _ _) st).others j hj,
    h.before.others j hj]
  rfl

end LeavesUp

end Sys2Proof.Machine
end

section
/-! PROOFS. The loss of an UP lane (R101, R397). -/
namespace Sys2Proof.Machine

/-- The cut of a lane's cell in the counts of its next report. -/
def Lane.cut (x : Lane) : Lane := { x with counts := if x.cell.isSome then x.counts.set 4 (x.counts.getD 4 0 + 1) else x.counts }

/-- A burst on lane k, with its line from the wake pattern to electrical idle (Table 4-6). -/
def OneBurst (t : State) (k : Fin 64) (r : List Byte) : Prop :=
  ∃ l, t.out = [.burst k r l] ∧ l.map Prod.fst = [0, 2000, 10192, 10704, 11728] ∧ l.head? = some (0, .wake) ∧ l.getLast? = some (11728, .idle)

theorem oneBurst_of_out {t v : State} {k : Fin 64} {r : List Byte} (h : t.out = [.burst k r (burstLine v k r).2]) : OneBurst t k r :=
  ⟨_, h, rfl, rfl, rfl⟩

theorem departed_times (s : State) (k st : Nat) : (departed s k st).tb = s.tb ∧ (departed s k st).el = s.el := by
  have h := (departed_op (s := s) (k := k) (W := F.YG_LANE_TRUNC.COUNT :: cntFlds) List.mem_cons_self (List.subset_cons_self _ _) st).later
  exact ⟨h.1, h.2⟩

/-- The loss of signal as the lane leaves UP. -/
def signalNoted (s : State) (k : Nat) (cause : LaneLoss) : State := if cause = .signal then s.wr F.YG_LANE_STATUS.LOS k 1 else s

theorem signalNoted_op {k : Nat} {s : State} (cause : LaneLoss) : LaneOp k [] aroundFlds 0 [] s (signalNoted s k cause) :=
  .ite (fun _ => .wr (by simp [aroundFlds]) 1) fun _ => .refl

theorem signalNoted_keeps (s : State) (k : Nat) (cause : LaneLoss) :
    (signalNoted s k cause).ko = s.ko ∧ getLane (signalNoted s k cause) k = getLane s k ∧ (signalNoted s k cause).el = s.el ∧
      ∀ g : Fld, F.YG_LANE_STATUS.LOS.id ≠ g.id → ∀ j, (signalNoted s k cause).rd g j = s.rd g j := by
  rw [signalNoted]
  split
  · exact ⟨rfl, rfl, rfl, fun _ hg _ => State.rd_wr_other _ _ _ _ _ _ hg⟩
  · exact ⟨rfl, rfl, rfl, fun _ _ _ => rfl⟩

/-- A command whose effect is known completes in the state that this leaves. -/
theorem completes_effect {c : Instr} {cond : State → Bool} {f : State → State} {s u : State} {P : State → Prop}
    (hexec : exec c s = .next (run cond f s)) (hheld : s.held = false) (hcond : cond s = true) (hu : f { s with out := [] } = u)
    (h : P (perform (fun _ => u) s)) : Completes c s P := by
  subst hu
  exact completes_run hexec hheld hcond h

/-- The loss of an UP lane: it is told, its scan ends, one burst leaves (R101, R397). -/
theorem laneDown_completes {s : State} {k : Fin 64} {cause : LaneLoss} (hs : s.held = false) (hst : laneState s k = laneUP)
    (hcause : cause ≠ .codewords ∨ 8 ≤ (getLane s k).bad) :
    Completes (.laneDown k cause) s fun t =>
      laneState t k = lnSIGNAL_WAIT ∧ DownAnnounced s t k ∧ t.rd F.YG_LANE_STATUS.CW_LOCK k = 0 ∧ t.rd F.YG_LANE_STATUS.CDR_LOCK k = 0 ∧
      (cause = .signal → t.rd F.YG_LANE_STATUS.LOS k = 1) ∧
      OneBurst t k (laneReport { t with yg := { s.yg with lanes := Tab.put s.yg.lanes k (getLane s k).cut } } k) ∧
      getLane t k = { getLane s k with cell := none, counts := [0, 0, 0, 0, 0], good := 0, bad := 0, repAt := s.el,
                                       train := { (getLane s k).train with stateAt := s.el }, scram := (getLane t k).scram } ∧
      (∀ j, j ≠ k.val → getLane t j = getLane s j) ∧
      (s.rd F.BELV_EYE_STATUS.STATE k = 1 → t.rd F.BELV_EYE_STATUS.STATE k = 3 ∧ t.rd F.BELV_EYE_STATUS.CAUSE k = 2) ∧ DownUnits s t := by
  obtain ⟨v, hv⟩ : ∃ v, signalNoted { s with out := [] } k cause = v := ⟨_, rfl⟩
  obtain ⟨hvko, hvlane, hvel, hvrd⟩ := signalNoted_keeps { s with out := [] } k cause
  have hvop : LaneOp k [] aroundFlds 0 [] { s with out := [] } v := hv ▸ signalNoted_op cause
  rw [hv] at hvko hvlane hvel hvrd
  have hvup : laneState v k = laneUP := (hvrd _ (by decide) _).trans hst
  obtain ⟨u, hu⟩ : ∃ u, leaveLane v k lnSIGNAL_WAIT = u := ⟨_, rfl⟩
  have hleaves : LeavesUp k lnSIGNAL_WAIT s v u := ⟨hvop, hvko, hvlane, hvup, hu ▸ .refl⟩
  have hdown : u = announceDown (departed v k lnSIGNAL_WAIT) k := hu.symm.trans (leaveLane_up _ hvup)
  obtain ⟨p, hp⟩ : ∃ p, departed v k lnSIGNAL_WAIT = p := ⟨_, rfl⟩
  obtain ⟨hstate, hcw, hcdr⟩ := departed_status v k (st := lnSIGNAL_WAIT) (by decide)
  have hplane : getLane p k = { (getLane s k).cut with cell := none, good := 0, bad := 0, train := { (getLane s k).train with stateAt := s.el } } := by
    rw [← hp, getLane_departed_quiet _ (by rw [hvup]; decide), hvlane, hvel]
    rfl
  obtain ⟨hptb, hpel⟩ := departed_times v k lnSIGNAL_WAIT
  have hout := hleaves.out
  rw [hp] at hstate hcw hcdr hptb hpel hout hdown
  have hkept : ∀ g ∈ F.YG_LANE_STATUS.LOS :: statusFlds ++ reportFlds, ∀ j, (perform (fun _ => u) s).rd g j = p.rd g j := fun g hg j => by
    have hend := (by decide : ∀ g ∈ F.YG_LANE_STATUS.LOS :: statusFlds ++ reportFlds, ∀ e ∈ endFlds, e.id ≠ g.id) g hg
    have hmem : g ∈ F.YG_LANE_CTL.PRECODE :: F.YG_LANE_STATUS.LOS :: F.YG_LANE_TRUNC.COUNT :: statusFlds ++ reportFlds := by
      simp only [List.cons_append, List.mem_cons] at hg ⊢
      tauto
    rw [perform_rd _ _ _ _ hend, hdown, announceDown_rd, downState_rd _ _ _ hmem]
  have htb : (perform (fun _ => u) s).tb = p.tb := by
    have h := State.SameUnits.tb hleaves.units
    rw [hptb, hvop.later.1]
    exact h
  have hlane : getLane (perform (fun _ => u) s) k =
      { getLane p k with counts := [0, 0, 0, 0, 0], repAt := p.el, scram := (burstLine p k (laneReport p k)).1 } := by
    rw [perform_getLane, hdown, getLane_announceDown]
  refine completes_effect (u := u) rfl hs (by simpa [hst] using hcause) (by rw [← hu, ← hv]; rfl)
    ⟨?_, hleaves.announced, ?_, ?_, fun hsignal => ?_, ?_, ?_, hleaves.others, fun heye => ?_, hleaves.units⟩
  · rw [laneState, hkept _ (by simp [statusFlds]), ← laneState, hstate]
  · rw [hkept _ (by simp [statusFlds]), hcw]
  · rw [hkept _ (by simp [statusFlds]), hcdr]
  · rw [hkept _ (by simp [statusFlds]), ← hp, departed_rd_kept _ _ _ _ _ (by decide), ← hv, signalNoted, if_pos hsignal]
    exact State.rd_wr_same _ _ _ _
  · have hreport : laneReport { perform (fun _ => u) s with yg := { s.yg with lanes := Tab.put s.yg.lanes k (getLane s k).cut } } k =
        laneReport p k := by
      refine laneReport_congr ?_ (fun f hf j => hkept f (List.mem_append_right _ hf) j) htb
      exact (congrArg Lane.reported (getLane_setLane_same s k (getLane s k).cut)).trans (by rw [hplane]; rfl)
    rw [hreport]
    exact oneBurst_of_out hout
  · obtain ⟨scram, hscram⟩ : ∃ scram, (burstLine p k (laneReport p k)).1 = scram := ⟨_, rfl⟩
    rw [hscram, hplane, hpel, hvel] at hlane
    rw [hlane]
    rfl
  · rw [perform_rd _ _ _ _ (by decide), perform_rd _ _ _ _ (by decide), hdown]
    refine announceDown_eye ?_
    rw [← hp, departed_rd_kept _ _ _ _ _ (by decide), hvrd _ (by decide)]
    exact heye

end Sys2Proof.Machine
end

section
/-! PROOFS. The write of YG_LANE_CTL with RETRAIN (R101): what the write takes, and what it sets off. -/
namespace Sys2Proof.Machine

/-- The address of YG_LANE_CTL of a lane. -/
def laneCtlAt (k : Nat) : Nat := F.YG_LANE_CTL.RETRAIN.addr + F.YG_LANE_CTL.RETRAIN.stride * k

/-- The fields of YG_LANE_CTL that are read and written. -/
def ctlFlds : List Fld := [F.YG_LANE_CTL.COLD_TRAIN, F.YG_LANE_CTL.TXEQ_SKIP, F.YG_LANE_CTL.PRECODE, F.YG_LANE_CTL.ROLE]

/-- The fields of YG_LANE_CTL[k] as a write leaves them. -/
def ctlWritten (s : State) (k v : Nat) : State :=
  ctlFlds.foldl (fun u f => writeField s v u (f, k)) s

/-- A write of YG_LANE_CTL takes the fields that may take it, and sets off what the lane does. -/
theorem regWrite_laneCtl {s : State} {k v : Nat} (hk : k < 64) (hr : writeReserved s (laneCtlAt k) v = false) :
    regWrite s (laneCtlAt k) v =
      laneCtlWritten s (if partHeld s (laneCtlAt k) v then cfgIgnored (ctlWritten s k v) (laneCtlAt k) else ctlWritten s k v) k v := by
  have hoff : laneCtlAt k = 0x800000 + 4096 * k := rfl
  have hring : ringWaiting s (laneCtlAt k) v = none := by
    rw [ringWaiting, copyAt_range _ _ (Or.inr (by rw [hoff]; exact Nat.lt_of_lt_of_le (by decide) (Nat.le_add_right _ _)))]
  have hnot : ¬ (laneCtlAt k = F.SD_TOD_SET.SEC.addr ∧ s.dpStopped = false) := fun h => by
    have htod : F.SD_TOD_SET.SEC.addr = 0x2c00030 := rfl
    omega
  have hfields : fieldsAt (laneCtlAt k) = _ := fieldsAt_YG_LANE_CTL k hk
  rw [regWrite, if_neg hnot, hr, if_neg Bool.false_ne_true, hring, hfields]
  dsimp only
  rw [releaseFirst_foldl _ _ rfl]
  exact writeHook_YG_LANE_CTL _ _ _ _ hk

/-! What the write takes (R19). -/

/-- The fields of YG_LANE_CTL are class S fields of the data plane. -/
theorem ctlFlds_stopped (s : State) (k : Nat) : ∀ f ∈ F.YG_LANE_CTL.RETRAIN :: ctlFlds, stoppedFor s f k = s.dpStopped := by
  simp only [ctlFlds, List.forall_mem_cons]
  exact ⟨rfl, rfl, rfl, rfl, rfl, fun _ h => absurd h List.not_mem_nil⟩

theorem ctlFlds_facts : ∀ f ∈ ctlFlds, f.acc = .RW ∧ f.cls = .S ∧ isScanSetting f = false ∧ f.id ≠ F.GLH_CTL.EN.id := by decide

/-- A field of YG_LANE_CTL refuses its part of a write while the data plane runs, if that would change it. -/
theorem fieldHeld_ctl (s : State) (k v : Nat) {f : Fld} (hf : f ∈ ctlFlds) :
    fieldHeld s f k v = (decide (v ≠ s.rd f k) && !s.dpStopped) := by
  obtain ⟨hacc, hcls, hscan, hen⟩ := ctlFlds_facts f hf
  rw [fieldHeld, hacc, hcls, hscan, ctlFlds_stopped s k f (List.mem_cons_of_mem _ hf)]
  simp [hen]

theorem fieldHeld_retrain (s : State) (k : Nat) (v : Nat) : fieldHeld s F.YG_LANE_CTL.RETRAIN k v = (decide (v ≠ 0) && !s.dpStopped) := by
  have hacc : F.YG_LANE_CTL.RETRAIN.acc = .WO := rfl
  have hcls : F.YG_LANE_CTL.RETRAIN.cls = .S := rfl
  rw [fieldHeld, hacc, hcls, ctlFlds_stopped s k _ List.mem_cons_self]
  simp

theorem partHeld_laneCtl (s : State) {k : Nat} (hk : k < 64) (v : Nat) :
    partHeld s (laneCtlAt k) v =
      (fieldHeld s F.YG_LANE_CTL.RETRAIN k (bits v 8 1) || ctlFlds.any fun f => fieldHeld s f k (bits v f.lo f.width)) := by
  rw [partHeld, laneCtlAt, fieldsAt_YG_LANE_CTL k hk]
  rfl

/-- With the data plane stopped no part of the write is refused. -/
theorem partHeld_stopped {s : State} {k : Nat} (hk : k < 64) (v : Nat) (hs : s.dpStopped = true) : partHeld s (laneCtlAt k) v = false := by
  rw [partHeld_laneCtl s hk, Bool.or_eq_false_iff, List.any_eq_false]
  refine ⟨by simp [fieldHeld_retrain, hs], fun f hf => ?_⟩
  rw [fieldHeld_ctl s k _ hf, hs]
  simp

/-- While it runs, RETRAIN is. -/
theorem partHeld_running {s : State} {k : Nat} (hk : k < 64) {v : Nat} (hv : bit v 8 = true) (hs : s.dpStopped = false) :
    partHeld s (laneCtlAt k) v = true := by
  have hset : bits v 8 1 ≠ 0 := by
    simp only [bit, beq_iff_eq] at hv
    rw [bits, pow_one, hv]
    decide
  simp [partHeld_laneCtl s hk, fieldHeld_retrain, hs, hset]

/-- With the data plane stopped the write takes every field. -/
theorem ctlWritten_stopped {s : State} (k v : Nat) (hs : s.dpStopped = true) :
    ctlWritten s k v = wrAll s k (ctlFlds.zip (ctlFlds.map fun f => bits v f.lo f.width)) := by
  have hfield : ∀ u : State, ∀ f ∈ ctlFlds, writeField s v u (f, k) = u.wr f k (bits v f.lo f.width) := fun u f hf => by
    obtain ⟨hacc, -⟩ := ctlFlds_facts f hf
    simp [writeField, hacc, fieldHeld_ctl s k _ hf, hs]
  exact List.foldl_ext _ _ _ hfield

/-- Each field then holds its part of the write. -/
theorem ctlWritten_rd {s : State} (k v : Nat) (hs : s.dpStopped = true) : ∀ f ∈ ctlFlds, (ctlWritten s k v).rd f k = bits v f.lo f.width := by
  have hzip : ctlFlds.zip (ctlFlds.map fun f => bits v f.lo f.width) = ctlFlds.map fun f => (f, bits v f.lo f.width) := rfl
  intro f hf
  rw [ctlWritten_stopped k v hs]
  exact (wrAll_zip_rd (by decide) _ _ _ (f, bits v f.lo f.width) (by rw [hzip]; exact List.mem_map_of_mem hf)).trans (Nat.mod_mod _ _)

/-- A field that is written with the value it has takes it: the copy is listed from then on. -/
theorem writeField_same {s0 : State} {v : Nat} {e : Fld × Nat} (hacc : e.1.acc = .RW) (h : bits v e.1.lo e.1.width = s0.rd e.1 e.2) (s : State) :
    writeField s0 v s e = s.wr e.1 e.2 (bits v e.1.lo e.1.width) := by
  simp [writeField, fieldHeld, hacc, h]

/-- While the data plane runs, no field of the register map reads otherwise for the write. -/
theorem ctlWritten_running {s : State} {k v : Nat} (hs : s.dpStopped = false) {g : Fld} (hg : ∀ f ∈ ctlFlds, f.id = g.id → f = g) (j : Nat) :
    (ctlWritten s k v).rd g j = s.rd g j := by
  have hfield : ∀ u : State, u.rd g j = s.rd g j → ∀ f ∈ ctlFlds, (writeField s v u (f, k)).rd g j = s.rd g j := fun u hu f hf => by
    obtain ⟨hacc, -⟩ := ctlFlds_facts f hf
    by_cases hsame : bits v f.lo f.width = s.rd f k
    · rw [writeField_same (e := (f, k)) hacc hsame, State.rd_wr]
      split
      · rename_i hcopy
        obtain ⟨hid, rfl⟩ := hcopy
        rw [← hg f hf hid]
        exact (Nat.mod_mod _ _).trans hsame
      · exact hu
    · rw [writeField_held hacc (by rw [fieldHeld_ctl s k _ hf, hs]; simp [hsame]), hu]
  exact List.foldlRecOn ctlFlds _ (motive := fun u : State => u.rd g j = s.rd g j) rfl hfield

theorem ctlWritten_units (s : State) (k v : Nat) :
    s.SameUnits (ctlWritten s k v) ∧ (ctlWritten s k v).out = s.out ∧ (ctlWritten s k v).ko = s.ko := by
  have hfield : ∀ (u : State) (f : Fld), u.SameUnits (writeField s v u (f, k)) ∧ (writeField s v u (f, k)).out = u.out ∧
      (writeField s v u (f, k)).ko = u.ko := fun u f => by
    rw [writeField]
    split
    · split <;> exact ⟨rfl, rfl, rfl⟩
    · split <;> exact ⟨rfl, rfl, rfl⟩
  exact ⟨foldl_sameUnits _ (fun u f => (hfield u f).1) _ _, foldl_out _ (fun u f => (hfield u f).2.1) _ _,
    foldl_keeps State.ko _ (fun u f => (hfield u f).2.2) _ _⟩

end Sys2Proof.Machine
end

section
/-! PROOFS. RETRAIN (R101): a lane that goes to OFF with the data plane stopped, and a write that is ignored while it runs. -/
namespace Sys2Proof.Machine

theorem LaneOp.mono {k : Nat} {W W' L L' : List Fld} {d : Nat} {o : List Output} {s t : State} (h : LaneOp k W L d o s t) (hW : W ⊆ W')
    (hL : L ⊆ L') : LaneOp k W' L' d o s t :=
  { h with regs := fun g j hgW hgL => h.regs g j (fun e he => hgW e (hW he)) fun hj e he => hgL hj e (hL he) }

/-- A lane that may leave OFF writes its state alone. -/
theorem laneEnable_op {k : Nat} {s : State} : LaneOp k [] [F.YG_LANE_STATUS.STATE] 0 [] s (laneEnable s k) :=
  .ite (fun _ => .enterLane (by simp) _) fun _ => .refl

theorem regUnit_laneCtl {k : Nat} (hk : k < 64) : regUnit (laneCtlAt k) = Err.YG.unit := by
  have hoff : laneCtlAt k = 0x800000 + 4096 * k := rfl
  rw [regUnit, hoff]
  repeat rw [if_neg (by omega)]
  rw [if_pos (by omega)]

theorem ctlFlds_mapped : ∀ f ∈ ctlFlds, f ∈ allFlds := fun f hf =>
  RegMap.mem_of_fieldsAt (off := laneCtlAt 0) (e := (f, 0)) (by
    rw [laneCtlAt, fieldsAt_YG_LANE_CTL 0 (by decide)]
    simp only [ctlFlds, List.mem_cons, List.not_mem_nil, or_false] at hf
    rcases hf with rfl | rfl | rfl | rfl <;> simp)

/-- A command whose effect is performed completes in the state that this leaves. -/
theorem completes_performed {c : Instr} {f : State → State} {s u : State} {P : State → Prop}
    (hexec : exec c s = .next (perform f s)) (hu : f { s with out := [] } = u) (h : P (perform (fun _ => u) s)) : Completes c s P := by
  subst hu
  exact ⟨_, hexec, h⟩

/-- ROLE while the data plane runs. -/
theorem ignored_role {s : State} {k : Nat} (hk : k < 64) (v : Nat) (hs : s.dpStopped = false) :
    (cfgIgnored (ctlWritten s k v) (laneCtlAt k)).rd F.YG_LANE_CTL.ROLE k = s.rd F.YG_LANE_CTL.ROLE k := by
  rw [cfgIgnored, regUnit_laneCtl hk, setErr_rd_flds _ _ _ _ _ _ (by decide), ctlWritten_running hs]
  exact fun f hf hid => RegMap.eq_of_id (ctlFlds_mapped f hf) (ctlFlds_mapped _ (by simp [ctlFlds])) hid

/-- What RETRAIN performs while the host reaches the lane. -/
theorem retrain_performs {s : State} {k : Fin 64} {data : Word} (hreach : s.hostReaches) (hdom : domState s (28 + k / 4) ≠ pdOFF)
    (hr : writeReserved s (laneCtlAt k) (setBit data.toNat 8) = false) :
    exec (.retrain k data) s = .next (perform (busWrite · (laneCtlAt k) (setBit data.toNat 8) 15 false) s) ∧
    busWrite { s with out := [] } (laneCtlAt k) (setBit data.toNat 8) 15 false =
      if s.dpStopped then laneOff (ctlWritten { s with out := [] } k (setBit data.toNat 8)) k
      else laneEnable (cfgIgnored (ctlWritten { s with out := [] } k (setBit data.toNat 8)) (laneCtlAt k)) k := by
  have hk : k.val < 64 := k.isLt
  have hoff : laneCtlAt k = 0x800000 + 4096 * k.val := rfl
  refine ⟨writeRow_reached hreach (show laneCtlAt k < 0x4000000 by omega) rfl, ?_⟩
  obtain ⟨u, hu⟩ : ∃ u : State, { s with out := [] } = u := ⟨_, rfl⟩
  have hdp : s.dpStopped = u.dpStopped := by rw [← hu]; rfl
  have hset : bit (setBit data.toNat 8) 8 = true := bit_setBit_same _ _
  obtain ⟨v, hv⟩ : ∃ v, setBit data.toNat 8 = v := ⟨_, rfl⟩
  rw [hv] at hr hset ⊢
  have hword : busWriteWord u (laneCtlAt k) v = regWrite u (laneCtlAt k) v := busWriteWord_YG_LANE_CTL u k v hk (by rw [← hu]; exact hdom)
  rw [hu, hdp, busWrite_word (by omega), hword, regWrite_laneCtl hk (by rw [← hu]; exact hr)]
  cases hs : u.dpStopped with
  | true =>
    rw [partHeld_stopped hk v hs, laneCtlWritten, hset, hs]
    rfl
  | false =>
    rw [partHeld_running hk hset hs, if_pos rfl, laneCtlWritten, hs, ignored_role hk v hs]
    simp

/-- A RETRAIN while the data plane runs is ignored: no field of the register map reads otherwise for it, but for the error (R19). -/
theorem retrain_running {s : State} {k : Fin 64} {data : Word} (hreach : s.hostReaches) (hdom : domState s (28 + k / 4) ≠ pdOFF)
    (hr : writeReserved s (laneCtlAt k) (setBit data.toNat 8) = false) (hs : s.dpStopped = false) (hlane : laneState s k ≠ lnOFF) :
    Completes (.retrain k data) s fun t =>
      bit (t.rd F.YG_ERR.BITS 0) Err.YG.CFG_IGNORED = true ∧ laneState t k = laneState s k ∧ t.out = [] ∧
      (∀ g ∈ allFlds, (∀ e ∈ endFlds ++ Err.YG.unit.flds, e.id ≠ g.id) → ∀ j, t.rd g j = s.rd g j) ∧ s.SameUnits t := by
  obtain ⟨hexec, heffect⟩ := retrain_performs hreach hdom hr
  obtain ⟨v, hv⟩ : ∃ v, setBit data.toNat 8 = v := ⟨_, rfl⟩
  rw [hs, if_neg Bool.false_ne_true, hv] at heffect
  rw [hv] at hexec
  obtain ⟨hunits, hout, -⟩ := ctlWritten_units { s with out := [] } k v
  obtain ⟨w, hw⟩ : ∃ w, cfgIgnored (ctlWritten { s with out := [] } k v) (laneCtlAt k) = w := ⟨_, rfl⟩
  have hw' := hw
  rw [cfgIgnored, regUnit_laneCtl k.isLt] at hw'
  have hrd : ∀ g ∈ allFlds, (∀ e ∈ Err.YG.unit.flds, e.id ≠ g.id) → ∀ j, w.rd g j = s.rd g j := fun g hg hne j => by
    rw [← hw', setErr_rd_flds _ _ _ _ _ _ hne]
    exact ctlWritten_running (s := { s with out := [] }) hs (fun f hf hid => RegMap.eq_of_id (ctlFlds_mapped f hf) hg hid) j
  have hstate : laneState w k = laneState s k := by
    rw [← hw', laneState, setErr_rd_flds _ _ _ _ _ _ (by decide)]
    exact ctlWritten_running (s := { s with out := [] }) hs
      (fun f hf hid => absurd hid ((by decide : ∀ f ∈ ctlFlds, f.id ≠ F.YG_LANE_STATUS.STATE.id) f hf)) _
  have henable : laneEnable w k = w := if_neg fun h => hlane (hstate ▸ h.1)
  rw [hw, henable] at heffect
  refine completes_performed hexec heffect ⟨?_, ?_, ?_, fun g hg hne j => ?_, ?_⟩
  · rw [perform_rd _ _ _ _ (by decide), ← hw']
    exact setErr_bit _ Err.YG.unit _ _ (by decide)
  · rw [perform_laneState, hstate]
  · rw [perform_out, ← hw', setErr_out, hout]
  · rw [perform_rd _ _ _ _ fun e he => hne e (List.mem_append_left _ he)]
    exact hrd g hg (fun e he => hne e (List.mem_append_right _ he)) j
  · refine perform_keepsUnits (f := fun _ => w) ?_ rfl
    rw [← hw']
    exact (State.SameUnits.out_set s []).trans (hunits.trans (setErr_sameUnits _ _ _ _))

/-! A lane that is retrained with the data plane stopped. -/

/-- The bits of a number below one that is set. -/
theorem bits_setBit_low (x : Nat) {i lo w : Nat} (h : lo + w ≤ i) : bits (setBit x i) lo w = bits x lo w := by
  unfold setBit bits
  split
  · rfl
  · obtain ⟨d, rfl⟩ := Nat.exists_eq_add_of_le h
    have hsplit : 2 ^ (lo + w + d) = 2 ^ lo * (2 ^ w * 2 ^ d) := by rw [pow_add, pow_add, Nat.mul_assoc]
    rw [hsplit, Nat.add_mul_div_left _ _ (by positivity), Nat.add_mul_mod_self_left]

/-- The lane in OFF, before it is enabled again. -/
def wentOff (s : State) (k : Nat) : State := if laneState s k = lnOFF then s else (leaveLane s k lnOFF).wr F.YG_LANE_STATUS.LOS k 1

theorem laneOff_eq (s : State) (k : Nat) : laneOff s k = laneEnable (wentOff s k) k := rfl

/-- What decides whether a lane is enabled, and the settings of the lane. -/
def settingFlds : List Fld := F.YG_CFG.MIRROR_EN :: F.POWER_DOM.STATE :: ctlFlds

theorem leaveLane_setting (s : State) (k st : Nat) : ∀ g ∈ settingFlds, ∀ j, (leaveLane s k st).rd g j = s.rd g j := by
  intro g hg j
  obtain ⟨hdeparted, hdown⟩ := (by decide : ∀ g ∈ settingFlds,
    (∀ e ∈ F.YG_LANE_TRUNC.COUNT :: cntFlds ++ statusFlds, e.id ≠ g.id) ∧ ∀ e ∈ downFlds, e.id ≠ g.id) g hg
  rw [leaveLane_eq]
  split
  · rw [announceDown_rd, (downState_op _ _).regs g j hdown, departed_rd_kept _ _ _ _ _ hdeparted]
  · exact departed_rd_kept _ _ _ _ _ hdeparted

/-- The lane in its next state, by whichever way it leaves. -/
theorem leaveLane_state (s : State) (k : Nat) {st : Nat} (h : st < 8) : laneState (leaveLane s k st) k = st := by
  have hdeparted := (departed_status s k h).1
  rw [leaveLane_eq]
  split
  · rw [laneState, announceDown_rd, downState_rd _ _ _ (by simp [statusFlds]), ← laneState, hdeparted]
  · exact hdeparted

/-- A lane that leaves its state has no cell in progress. -/
theorem leaveLane_cell (s : State) (k st : Nat) : (getLane (leaveLane s k st) k).cell = none := by
  have hdeparted : (getLane (departed s k st) k).cell = none := by rw [getLane_departed, getLane_truncCell]
  rw [leaveLane_eq]
  split
  · rw [getLane_announceDown, hdeparted]
  · exact hdeparted

theorem wentOff_setting (s : State) (k : Nat) : ∀ g ∈ settingFlds, ∀ j, (wentOff s k).rd g j = s.rd g j := by
  intro g hg j
  rw [wentOff]
  split
  · rfl
  · rw [State.rd_wr_other _ _ _ _ _ _ ((by decide : ∀ g ∈ settingFlds, F.YG_LANE_STATUS.LOS.id ≠ g.id) g hg), leaveLane_setting _ _ _ g hg]

theorem wentOff_state (s : State) (k : Nat) : laneState (wentOff s k) k = lnOFF := by
  rw [wentOff]
  split
  · assumption
  · exact (State.rd_wr_other _ _ _ _ _ _ (by decide)).trans (leaveLane_state s k (by decide))

theorem laneOff_setting (s : State) (k : Nat) : ∀ g ∈ settingFlds, ∀ j, (laneOff s k).rd g j = s.rd g j := by
  intro g hg j
  rw [laneOff_eq, laneEnable_op.rd g j (by simp) (by simpa using (by decide : ∀ g ∈ settingFlds, F.YG_LANE_STATUS.STATE.id ≠ g.id) g hg),
    wentOff_setting s k g hg]

/-- The lane leaves OFF again if its role and its domain allow it (Table 4-7). -/
theorem laneOff_state (s : State) (k : Nat) :
    laneState (laneOff s k) k = if effRole s k ≠ 0 ∧ domOn s (28 + k / 4) = true then lnSIGNAL_WAIT else lnOFF := by
  have hrole : effRole (wentOff s k) k = effRole s k :=
    effRole_congr (wentOff_setting s k _ (by simp [settingFlds, ctlFlds]) _) (wentOff_setting s k _ (by simp [settingFlds]) _)
  have hdom : domOn (wentOff s k) (28 + k / 4) = domOn s (28 + k / 4) := by
    rw [domOn, domOn, domState, domState, wentOff_setting s k _ (by simp [settingFlds])]
  rw [laneOff_eq, laneEnable, wentOff_state, hrole, hdom]
  split
  · rename_i h
    rw [if_pos h.2, laneState_enterLane _ _ (by decide)]
  · rename_i h
    rw [if_neg fun h' => h ⟨rfl, h'⟩, wentOff_state]

theorem laneOff_cell {s : State} {k : Nat} (h : laneState s k ≠ lnOFF) : (getLane (laneOff s k) k).cell = none := by
  have hcell : (getLane (wentOff s k) k).cell = none := by
    rw [wentOff, if_neg h]
    exact leaveLane_cell s k _
  rw [laneOff_eq, laneEnable]
  split
  · rw [getLane_enterLane, hcell]
  · exact hcell

/-- From outside UP the lane goes to OFF without a burst. -/
theorem laneOff_quiet {s : State} {k : Nat} (h : laneState s k ≠ laneUP) :
    ∃ o, (laneState s k ≠ lnTX_TRAIN → o = []) ∧
      LaneOp k (F.YG_LANE_TRUNC.COUNT :: cntFlds) (F.YG_LANE_STATUS.LOS :: statusFlds) 0 o s (laneOff s k) := by
  have henable : ∀ u : State, LaneOp k (F.YG_LANE_TRUNC.COUNT :: cntFlds) (F.YG_LANE_STATUS.LOS :: statusFlds) 0 [] u (laneEnable u k) :=
    fun _ => laneEnable_op.mono (by simp) (by simp [statusFlds])
  rw [laneOff_eq, wentOff]
  split
  · exact ⟨[], fun _ => rfl, henable s⟩
  · rw [leaveLane_notUp _ h]
    refine ⟨leaveSent s k, fun htrain => if_neg htrain, ?_⟩
    have hdeparted := (departed_op (s := s) (k := k) (W := F.YG_LANE_TRUNC.COUNT :: cntFlds) List.mem_cons_self (List.subset_cons_self _ _)
      lnOFF).mono (List.Subset.refl _) (List.subset_cons_self F.YG_LANE_STATUS.LOS statusFlds)
    exact (hdeparted.andThen (.wr (f := F.YG_LANE_STATUS.LOS) (by simp) 1)).andThen (henable _)

/-- From UP its departure is announced. -/
theorem laneOff_up {s : State} {k : Nat} (h : laneState s k = laneUP) : LaneOp k [] aroundFlds 0 [] (leaveLane s k lnOFF) (laneOff s k) := by
  have hnot : laneState s k ≠ lnOFF := by rw [h]; decide
  rw [laneOff_eq, wentOff, if_neg hnot]
  exact (LaneOp.wr (f := F.YG_LANE_STATUS.LOS) (by simp [aroundFlds]) 1).andThen (laneEnable_op.mono (by simp) (by simp [aroundFlds]))

/-- RETRAIN with the data plane stopped: the settings are taken, and the lane goes to OFF, then on if it is enabled (R101, Table 4-7). -/
theorem retrain_stopped {s : State} {k : Fin 64} {data : Word} (hreach : s.hostReaches) (hdom : domState s (28 + k / 4) ≠ pdOFF)
    (hr : writeReserved s (laneCtlAt k) (setBit data.toNat 8) = false) (hs : s.dpStopped = true) :
    Completes (.retrain k data) s fun t =>
      t.rd F.YG_LANE_CTL.ROLE k = bits data.toNat 0 2 ∧ t.rd F.YG_LANE_CTL.PRECODE k = bits data.toNat 4 1 ∧
      t.rd F.YG_LANE_CTL.TXEQ_SKIP k = bits data.toNat 5 1 ∧ t.rd F.YG_LANE_CTL.COLD_TRAIN k = bits data.toNat 6 1 ∧
      laneState t k = (if effRole t k ≠ 0 ∧ domOn s (28 + k / 4) = true then lnSIGNAL_WAIT else lnOFF) ∧
      (laneState s k = laneUP → DownAnnounced s t k ∧ ∃ r, OneBurst t k r) ∧ (laneState s k ≠ laneUP → laneState s k ≠ lnTX_TRAIN → t.out = []) ∧
      (laneState s k ≠ lnOFF → (getLane t k).cell = none) ∧ (∀ j, j ≠ k.val → getLane t j = getLane s j) ∧ DownUnits s t := by
  obtain ⟨hexec, heffect⟩ := retrain_performs hreach hdom hr
  rw [hs, if_pos rfl] at heffect
  obtain ⟨w, hw⟩ : ∃ w, ctlWritten { s with out := [] } k (setBit data.toNat 8) = w := ⟨_, rfl⟩
  have hstopped := ctlWritten_stopped (s := { s with out := [] }) k (setBit data.toNat 8) hs
  have hvalue := ctlWritten_rd (s := { s with out := [] }) k (setBit data.toNat 8) hs
  obtain ⟨-, -, hko⟩ := ctlWritten_units { s with out := [] } k (setBit data.toNat 8)
  have hwop : LaneOp k [] ctlFlds 0 [] { s with out := [] } w := by
    rw [← hw, hstopped]
    exact .wrAll fun e he => (List.of_mem_zip he).1
  have hlane : getLane w k = getLane s k := by
    rw [← hw, hstopped, getLane_wrAll]
    rfl
  have hstate : laneState w k = laneState s k := hwop.laneState (by simp) (by decide)
  rw [hw] at heffect hko hvalue
  obtain ⟨u, hu⟩ : ∃ u, laneOff w k = u := ⟨_, rfl⟩
  rw [hu] at heffect
  have hsetting : ∀ g ∈ settingFlds, ∀ j, (perform (fun _ => u) s).rd g j = w.rd g j := fun g hg j => by
    rw [perform_rd _ _ _ _ ((by decide : ∀ g ∈ settingFlds, ∀ e ∈ endFlds, e.id ≠ g.id) g hg), ← hu, laneOff_setting w k g hg]
  have htaken : ∀ f ∈ ctlFlds, (perform (fun _ => u) s).rd f k = bits (setBit data.toNat 8) f.lo f.width := fun f hf => by
    rw [hsetting f (by simp [settingFlds, hf]), hvalue f hf]
  have hrole : effRole (perform (fun _ => u) s) k = effRole w k :=
    effRole_congr (hsetting _ (by simp [settingFlds, ctlFlds]) _) (hsetting _ (by simp [settingFlds]) _)
  have hdomain : domOn w (28 + k / 4) = domOn s (28 + k / 4) := by
    rw [domOn, domOn, domState, domState, hwop.rd _ _ (by simp) (by decide)]
    rfl
  have hleaves : laneState s k = laneUP → LeavesUp k lnOFF s w u := fun hup =>
    ⟨hwop.mono (List.Subset.refl _) (by simp [aroundFlds, ctlFlds]), hko, hlane, hstate.trans hup, hu ▸ laneOff_up (hstate.trans hup)⟩
  refine completes_performed hexec heffect ⟨?_, ?_, ?_, ?_, ?_, fun hup => ?_, fun hup htrain => ?_, fun hoff => ?_, ?_, ?_⟩
  · exact (htaken _ (by simp [ctlFlds])).trans (bits_setBit_low _ (by decide))
  · exact (htaken _ (by simp [ctlFlds])).trans (bits_setBit_low _ (by decide))
  · exact (htaken _ (by simp [ctlFlds])).trans (bits_setBit_low _ (by decide))
  · exact (htaken _ (by simp [ctlFlds])).trans (bits_setBit_low _ (by decide))
  · rw [perform_laneState, hrole, ← hu, laneOff_state, hdomain]
  · exact ⟨(hleaves hup).announced, _, oneBurst_of_out (hleaves hup).out⟩
  · obtain ⟨o, ho, hop⟩ := laneOff_quiet (k := k) fun h => hup (hstate.symm.trans h)
    have hout : u.out = w.out ++ o := hu ▸ hop.out
    have hwout : w.out = [] := hwop.out
    rw [perform_out, hout, ho fun h => htrain (hstate.symm.trans h), hwout]
    rfl
  · rw [perform_getLane, ← hu]
    exact laneOff_cell fun h => hoff (hstate.symm.trans h)
  · by_cases hup : laneState s k = laneUP
    · exact (hleaves hup).others
    · obtain ⟨o, -, hop⟩ := laneOff_quiet (k := k) fun h => hup (hstate.symm.trans h)
      rw [hu] at hop
      exact fun j hj => (perform_getLane _ s j).trans ((hop.others j hj).trans (hwop.others j hj))
  · by_cases hup : laneState s k = laneUP
    · exact (hleaves hup).units
    · obtain ⟨o, -, hop⟩ := laneOff_quiet (k := k) fun h => hup (hstate.symm.trans h)
      rw [hu] at hop
      have hbefore := hwop.downUnits
      exact (hbefore.trans hop.downUnits).perform

end Sys2Proof.Machine
end

section
/-! PROOFS. The frame of a RETRAIN that is ignored (R19), over field records outside the register map. -/
namespace Sys2Proof.Machine

/-- What a write of YG_LANE_CTL takes of ROLE reads under every field record of ROLE's id, listed as it is now. -/
theorem ctlWritten_role {s : State} {k v : Nat} (h : bits v 0 2 = s.rd F.YG_LANE_CTL.ROLE k) {g : Fld} (hg : F.YG_LANE_CTL.ROLE.id = g.id) :
    (ctlWritten s k v).rd g k = bits v 0 2 := by
  rw [ctlWritten, ctlFlds, List.foldl_cons, List.foldl_cons, List.foldl_cons, List.foldl_cons, List.foldl_nil,
    writeField_same (e := (F.YG_LANE_CTL.ROLE, k)) rfl h, State.rd_wr, if_pos ⟨hg, rfl⟩]
  exact Nat.mod_mod _ _

/-- A RETRAIN while the data plane runs lists ROLE when it is written with the value it has. -/
theorem retrain_role {s t : State} {k : Fin 64} {data : Word} (hreach : s.hostReaches) (hdom : domState s (28 + k / 4) ≠ pdOFF)
    (hr : writeReserved s (laneCtlAt k) (setBit data.toNat 8) = false) (hs : s.dpStopped = false)
    (hrole : bits (setBit data.toNat 8) 0 2 = s.rd F.YG_LANE_CTL.ROLE k) {g : Fld} (hg : F.YG_LANE_CTL.ROLE.id = g.id)
    (h : exec (.retrain k data) s = .next t) : t.rd g k = s.rd F.YG_LANE_CTL.ROLE k := by
  obtain ⟨hexec, heffect⟩ := retrain_performs hreach hdom hr
  obtain ⟨v, hv⟩ : ∃ v, setBit data.toNat 8 = v := ⟨_, rfl⟩
  rw [hs, if_neg Bool.false_ne_true, hv] at heffect
  rw [hv] at hexec hrole
  obtain rfl : perform (busWrite · (laneCtlAt k) v 15 false) s = t := by
    rw [hexec] at h
    exact Host.Outcome.next.inj h
  have hne : (∀ e ∈ endFlds, e.id ≠ g.id) ∧ F.YG_LANE_STATUS.STATE.id ≠ g.id ∧ ∀ e ∈ Err.YG.unit.flds, e.id ≠ g.id := hg ▸ by decide
  obtain ⟨hend, hstate, herr⟩ := hne
  rw [perform_rd _ _ _ _ hend, heffect, laneEnable_op.rd _ _ (by simp) (by simpa using hstate), cfgIgnored, regUnit_laneCtl k.isLt,
    setErr_rd_flds _ _ _ _ _ _ herr]
  exact (ctlWritten_role (s := { s with out := [] }) hrole hg).trans hrole

/-- Lane 0 is UP while the data plane runs, with YG_LANE_CTL as its reset left it. -/
def upAndRunning : State :=
  [(F.KIOSK_STATUS.LINK_UP, 0, 1), (F.GLOBAL_DP_STATE.STATE, 0, dpRUNNING), (F.POWER_DOM.STATE, 28, pdON), (F.YG_LANE_STATUS.STATE, 0, laneUP)].foldl
    (fun s e => s.wr e.1 e.2.1 e.2.2) { State.reset with glob := { coldHeld := false, perstHeld := false } }

/-- ROLE with another reset value. -/
def otherRole : Fld := { F.YG_LANE_CTL.ROLE with rst := fun _ => 1 }

theorem upAndRunning_retrains :
    upAndRunning.hostReaches ∧ domState upAndRunning (28 + (0 : Fin 64).val / 4) ≠ pdOFF ∧
      writeReserved upAndRunning (laneCtlAt (0 : Fin 64)) (setBit (0 : Word).toNat 8) = false ∧ upAndRunning.dpStopped = false ∧
      laneState upAndRunning (0 : Fin 64) ≠ lnOFF ∧ upAndRunning.rd F.YG_LANE_CTL.ROLE (0 : Fin 64) = 0 ∧
      upAndRunning.rd otherRole (0 : Fin 64) = 1 := by
  unfold State.hostReaches
  decide +kernel

/-- What O45 says of a RETRAIN while the data plane runs: its frame. -/
theorem lanesDecodeAndFall_retrain_frame (h : Obligations.LanesDecodeAndFall) {s : State} {k : Fin 64} {data : Word}
    (hreach : s.hostReaches) (hdom : domState s (28 + k / 4) ≠ pdOFF) (hreserved : writeReserved s (laneCtlAt k) (setBit data.toNat 8) = false)
    (hrunning : s.dpStopped = false) (hlane : laneState s k ≠ lnOFF) :
    ∃ t, exec (.retrain k data) s = .next t ∧ s.SameRegs t Err.YG.unit.flds [] := by
  obtain ⟨-, -, -, -, -, hretrain⟩ := h s k 0 [] ⟨0, []⟩ .signal data
  obtain ⟨-, hheld⟩ := hretrain hreach hdom hreserved
  obtain ⟨t, ht, -, -, -, hregs, -⟩ := hheld hrunning hlane
  exact ⟨t, ht, hregs⟩

/-- Refutes O45, for the frame of its last clause alone. A class S field that is written while the data plane runs with the value that it
has is not held (R19), so a RETRAIN that is ignored lists ROLE in the register file with the value it had. The frame is over every field
record, not over those of the register map: one with the id of ROLE and another reset value reads that value before the write and ROLE's
after it. Over the fields of the map the clause holds (`retrain_running`), and so do the others (`codewordDecode_lock`,
`codewordDecode_up`, `laneDown_completes`, `trainTimeout_completes`, `trainFailRetry_completes`, `retrain_stopped`). -/
theorem not_lanesDecodeAndFall : ¬ Obligations.LanesDecodeAndFall := by
  intro h
  obtain ⟨hreach, hdom, hreserved, hrunning, hlane, hrole, hother⟩ := upAndRunning_retrains
  obtain ⟨t, ht, hregs⟩ := lanesDecodeAndFall_retrain_frame h hreach hdom hreserved hrunning hlane
  have hsame := hregs otherRole (0 : Fin 64) (by decide) (by simp)
  have hlisted := retrain_role hreach hdom hreserved hrunning (by rw [hrole]; decide) (g := otherRole) rfl ht
  rw [hsame, hother, hrole] at hlisted
  exact absurd hlisted (by decide)

end Sys2Proof.Machine
end

section
/-! PROOFS. The duplicate filter (R90, R94, R108): what it looks at, and what it leaves. -/
namespace Sys2Proof.Machine

/-! What the filter and the checks of a cell look at. -/

/-- Two states give a cell the same source, channel and place in the run: they have the same tables, active configuration, armed epoch,
run and data-plane state. -/
structure SameGround (s t : State) : Prop where
  tables : t.tables = s.tables
  act : t.act = s.act
  armed : t.glob.armed = s.glob.armed
  gh : t.gh = s.gh
  tb : t.tb = s.tb
  mode : t.rd F.GLOBAL_DP_CFG.MODE4 0 = s.rd F.GLOBAL_DP_CFG.MODE4 0
  dp : t.dp = s.dp

namespace SameGround

variable {s t : State} (h : SameGround s t)
include h

theorem tbNat (id bank grp off n : Nat) : t.tbNat id bank grp off n = s.tbNat id bank grp off n := by
  induction n generalizing off with
  | zero => rfl
  | succ n ih => rw [State.tbNat, State.tbNat, ih, State.tbByte, State.tbByte, h.tables]

theorem sourceEntry (bank e : Nat) : sourceEntry t bank e = sourceEntry s bank e := by
  rw [Machine.sourceEntry, Machine.sourceEntry, h.tbNat, h.tbNat, h.tbNat, h.tbNat]

theorem sourceOf (bank id : Nat) : sourceOf t bank id = sourceOf s bank id := by
  rw [Machine.sourceOf, Machine.sourceOf]
  simp only [h.sourceEntry]

theorem ac (f : Fld) (k : Nat) : t.ac f k = s.ac f k := by rw [State.ac, State.ac, h.act]

theorem underArmed (csi : Nat) : underArmed t csi = underArmed s csi := by
  rw [Machine.underArmed, Machine.underArmed, armedCsi, armedCsi, h.armed, State.M, State.M, h.ac]

theorem cfg (a : Bool) (f : Fld) (k : Nat) : t.cfg a f k = s.cfg a f k := by
  unfold State.cfg
  rw [h.armed]
  simp only [h.ac]

theorem sourceBank (csi : Nat) : sourceBank t csi = sourceBank s csi := by
  rw [Machine.sourceBank, Machine.sourceBank, h.underArmed, h.cfg]

theorem becomesValid (new e : Nat) : becomesValid t new e = becomesValid s new e := by
  rw [Machine.becomesValid, Machine.becomesValid, State.bankOf, State.bankOf, h.ac, h.sourceEntry, h.sourceEntry]

theorem deviceChan (c : Cell) : deviceChan t c = deviceChan s c := by
  rw [Machine.deviceChan, Machine.deviceChan, h.underArmed, h.cfg, h.cfg]

theorem mode4 : t.mode4 = s.mode4 := by rw [State.mode4, State.mode4, h.mode]

theorem sCell : t.sCell = s.sCell := by rw [State.sCell, State.sCell, h.mode4]

theorem frontOf (ch : Nat) : frontOf t ch = frontOf s ch := by rw [Machine.frontOf, Machine.frontOf, h.gh]

omit h in
theorem trans {u : State} (h : SameGround s t) (h' : SameGround t u) : SameGround s u :=
  ⟨h'.tables.trans h.tables, h'.act.trans h.act, h'.armed.trans h.armed, h'.gh.trans h.gh, h'.tb.trans h.tb, h'.mode.trans h.mode,
    h'.dp.trans h.dp⟩

end SameGround

/-! The filter of a source. -/

@[simp] theorem getFilter_setFilter (s : State) (e : Nat) (x : DupFilter) : getFilter (setFilter s e x) e = x := by
  simp [getFilter, setFilter, State.wr]

/-- Whether a cell passes depends on the filter of its source. -/
theorem dupFilter_fst {s t : State} {e : Nat} (h : getFilter t e = getFilter s e) (c : Cell) (role : Nat) :
    (dupFilter t e c role).1 = (dupFilter s e c role).1 := by
  unfold dupFilter
  rw [h]
  dsimp only
  split
  · rfl
  split
  · rfl
  split
  · rfl
  split
  · split <;> rfl
  · split <;> rfl

/-- The filter is cleared for the first cell of an entry that becomes valid (R108). -/
theorem getFilter_freshFilter (s : State) (e csi : Nat) :
    getFilter (freshFilter s e csi) e =
      if underArmed s csi && becomesValid s (sourceBank s csi) e && !s.glob.fresh.contains e then {} else getFilter s e := by
  rw [freshFilter]
  split
  · exact getFilter_setFilter _ _ _
  · rfl

theorem glob_freshFilter (s : State) (e csi : Nat) :
    (freshFilter s e csi).glob =
      { s.glob with fresh := if underArmed s csi && becomesValid s (sourceBank s csi) e && !s.glob.fresh.contains e then e :: s.glob.fresh
        else s.glob.fresh } := by
  rw [freshFilter]
  split <;> rfl

/-- Two states on the same ground with the same filters are left with the same filter and the same epoch. -/
theorem freshFilter_congr {s t : State} (h : SameGround s t) (hglob : t.glob = s.glob) (e csi : Nat) (hfilter : getFilter t e = getFilter s e) :
    getFilter (freshFilter t e csi) e = getFilter (freshFilter s e csi) e ∧ (freshFilter t e csi).glob = (freshFilter s e csi).glob := by
  rw [getFilter_freshFilter, getFilter_freshFilter, glob_freshFilter, glob_freshFilter, h.underArmed, h.sourceBank, h.becomesValid, hfilter, hglob]
  exact ⟨rfl, rfl⟩

/-! What the filter changes. -/

/-- Of the units, the filters of the Yargil and the accumulation alone changed. -/
def FilterUnits (s t : State) : Prop := State.SameUnits { s with yg := { t.yg with lanes := s.yg.lanes }, acs := t.acs } t

theorem filterUnits_rel : UnitsRel FilterUnits where
  same h := by
    unfold FilterUnits
    rw [h.yg, h.acs]
    exact h
  acs _ _ := rfl
  trans h h' := by
    unfold FilterUnits State.SameUnits at *
    rw [h']
    rw [h]

/-- The fields that show the filter of a source. -/
def shownFlds : List Fld := [F.YG_SRC_HIGH.H, F.YG_SRC_STATE.ESTABLISHED, F.YG_SRC_STATE.PRIMARY_SEEN, F.YG_SRC_STATE.MIRROR_SEEN]

/-- The fields that the filter writes. -/
def filterFlds : List Fld :=
  shownFlds ++ [F.YG_SRC_SINGLE.COUNT, F.YG_SRC_MISSING.COUNT, F.YG_SRC_STALE.COUNT, F.YG_SRC_DUP.COUNT, F.YG_SRC_LATE_TWIN.COUNT] ++
    Err.YG.unit.flds ++ flagFlds ++ cntFlds

/-- A filter that is set writes what shows it. -/
theorem setFilter_rd (s : State) (e : Nat) (x : DupFilter) (g : Fld) (j : Nat) (h : ∀ d ∈ shownFlds, d.id ≠ g.id) :
    (setFilter s e x).rd g j = s.rd g j := by
  simp only [shownFlds, List.forall_mem_cons] at h
  obtain ⟨hhigh, hestablished, hprimary, hmirror, -⟩ := h
  rw [setFilter, State.rd_wr_other _ _ _ _ _ _ hmirror, State.rd_wr_other _ _ _ _ _ _ hprimary, State.rd_wr_other _ _ _ _ _ _ hestablished,
    State.rd_wr_other _ _ _ _ _ _ hhigh]
  rfl

/-- A number retired as single-copy is counted, and marks the integration (R94). -/
def singleCounted (s : State) (e : Nat) : State :=
  flagNow (setErr (bump s F.YG_SRC_SINGLE.COUNT e 1) Err.YG.unit Err.YG.SINGLE_COPY e) flMIRROR_DEGRADED

theorem singleCopy_eq (s : State) (e : Nat) :
    singleCopy s e =
      if ((integBank s).isSome ∨ inGap s) ∧ !s.yg.mirrorDone.contains e then
        raise { singleCounted s e with yg := { (singleCounted s e).yg with mirrorDone := e :: (singleCounted s e).yg.mirrorDone } } 13 [0, e]
      else singleCounted s e := rfl

/-- Work of the filter. -/
def FilterOp (s t : State) : Prop := SideOp FilterUnits filterFlds s t

namespace FilterOp

variable {s t u : State}

theorem refl : FilterOp s s := SideOp.refl filterUnits_rel

theorem trans (h : FilterOp s t) (h' : FilterOp t u) : FilterOp s u := SideOp.trans filterUnits_rel h h'

theorem ite {c : Prop} [Decidable c] (h : c → FilterOp s t) (h' : ¬ c → FilterOp s u) : FilterOp s (if c then t else u) := SideOp.ite h h'

theorem wr {f : Fld} (hf : f ∈ filterFlds) (k v : Nat) : FilterOp s (s.wr f k v) := SideOp.wr filterUnits_rel hf k v

theorem bump {f : Fld} (hf : f ∈ filterFlds) (k n : Nat) : FilterOp s (bump s f k n) :=
  SideOp.bump filterUnits_rel hf (List.subset_append_right _ _) k n

theorem setErr (i info : Nat) : FilterOp s (setErr s Err.YG.unit i info) :=
  SideOp.setErr filterUnits_rel (fun _ h => by simp [filterFlds, h]) i info

theorem raise (code : Nat) (args : List Nat) : FilterOp s (raise s code args) := SideOp.raise filterUnits_rel code args

theorem flagNow (flag : Nat) : FilterOp s (flagNow s flag) := (flagNow_op filterUnits_rel flag).mono fun _ h => by simp [filterFlds, h]

/-- The filters, or what is noted of the sources. -/
theorem yg (y : YargilSt) (h : y.lanes = s.yg.lanes) : FilterOp s { s with yg := y } := by
  refine ⟨?_, fun _ _ _ => rfl, rfl, List.prefix_refl _⟩
  unfold FilterUnits
  rw [← h]
  rfl

theorem setFilter (s : State) (e : Nat) (x : DupFilter) : FilterOp s (setFilter s e x) :=
  ((((FilterOp.yg { s.yg with filters := Tab.put s.yg.filters e x } rfl).trans (.wr (f := F.YG_SRC_HIGH.H) (by simp [filterFlds, shownFlds]) _ _)).trans
    (.wr (f := F.YG_SRC_STATE.ESTABLISHED) (by simp [filterFlds, shownFlds]) _ _)).trans
    (.wr (f := F.YG_SRC_STATE.PRIMARY_SEEN) (by simp [filterFlds, shownFlds]) _ _)).trans (.wr (f := F.YG_SRC_STATE.MIRROR_SEEN) (by simp [filterFlds, shownFlds]) _ _)

theorem singleCounted (s : State) (e : Nat) : FilterOp s (singleCounted s e) :=
  ((bump (by simp [filterFlds, shownFlds]) e 1).trans (setErr _ e)).trans (flagNow _)

theorem singleCopy (s : State) (e : Nat) : FilterOp s (singleCopy s e) := by
  have hcounted := singleCounted s e
  rw [singleCopy_eq]
  obtain ⟨v, hv⟩ : ∃ v, Machine.singleCounted s e = v := ⟨_, rfl⟩
  rw [hv] at hcounted ⊢
  exact .ite (fun _ => (hcounted.trans (.yg { v.yg with mirrorDone := e :: v.yg.mirrorDone } rfl)).trans (.raise _ _)) fun _ => hcounted

theorem retireOne (s : State) (e : Nat) : FilterOp s (retireOne s e) := by
  rw [Machine.retireOne]
  split
  · exact .ite (fun _ => (setFilter _ _ _).trans (.bump (by simp [filterFlds, shownFlds]) _ _)) fun _ => setFilter _ _ _
  · exact .ite (fun _ => (setFilter _ _ _).trans (singleCopy _ _)) fun _ => setFilter _ _ _

theorem retireMany (e n : Nat) (s : State) : FilterOp s (retireMany e n s) := by
  induction n generalizing s with
  | zero => exact refl
  | succ n ih => exact (retireOne s e).trans (ih _)

theorem seqResync (s : State) (e : Nat) : FilterOp s (seqResync s e) := (setErr _ _).trans (.raise _ _)

/-- A cell that passes the filter leaves the rest of the state. -/
theorem dupFilter {e : Nat} {c : Cell} {role : Nat} (h : (dupFilter s e c role).1 = true) : FilterOp s (dupFilter s e c role).2 := by
  have hresync : ∀ (u : State) (seq mark : Nat), FilterOp u (Machine.resync u e seq mark) := fun _ _ _ => setFilter _ _ _
  unfold Machine.dupFilter at h ⊢
  dsimp only at h ⊢
  split at h
  · rename_i hnew
    rw [if_pos hnew]
    exact hresync _ _ _
  rename_i hold
  rw [if_neg hold]
  split at h
  · rename_i hahead
    rw [if_pos hahead]
    exact (hresync _ _ _).trans (seqResync _ _)
  rename_i hnear
  rw [if_neg hnear]
  split at h
  · rename_i hnext
    rw [if_pos hnext]
    exact (retireMany _ _ _).trans (setFilter _ _ _)
  rename_i hpast
  rw [if_neg hpast]
  split at h
  · rename_i hin
    rw [if_pos hin]
    split at h
    · exact setFilter _ _ _
    · cases h
  rename_i hstale
  rw [if_neg hstale]
  split at h
  · rename_i hrun
    rw [if_pos hrun]
    obtain ⟨v, hv⟩ : ∃ v, Machine.setFilter s e { getFilter s e with staleRun := (getFilter s e).staleRun + 1 } = v := ⟨_, rfl⟩
    have hset : FilterOp s v := hv ▸ setFilter _ _ _
    dsimp only
    rw [hv]
    exact ((hset.trans (bump (by simp [filterFlds, shownFlds]) e 1)).trans (hresync _ c.seq (roleMark role))).trans (seqResync _ e)
  · cases h

end FilterOp

end Sys2Proof.Machine
end

section
/-! PROOFS. A received cell (R88, R90, R93, Table 4-4, Table 5-2): what its checks leave of the state. -/
namespace Sys2Proof.Machine

/-- The oldest ended cell of lane k taken and counted, in count i of the report too. -/
def cellTaken (s : State) (k : Nat) (rest : List LaneCell) (f : Fld) (i : Nat) : State :=
  laneCount (bump (setLane s k { getLane s k with ended := rest }) f k 1) k i 1

section
variable {s : State} {k : Nat} {cell : LaneCell} {rest : List LaneCell}

/-- A cell that fails a check of Table 4-4 is counted. -/
theorem receiveCell_fault (h : (getLane s k).ended = cell :: rest) {f : Fld} (hf : cellFault cell = some f) (sramBad : Bool) :
    receiveCell s k sramBad = cellTaken s k rest f 4 := by
  rw [receiveCell, h]
  dsimp only
  rw [hf]
  rfl

theorem receiveCell_good (h : (getLane s k).ended = cell :: rest) (hf : cellFault cell = none) (sramBad : Bool) :
    receiveCell s k sramBad = takeCell (cellTaken s k rest F.YG_LANE_CELLS.COUNT 3) k sramBad (parseCell cell.bytes) := by
  rw [receiveCell, h]
  dsimp only
  rw [hf]
  rfl

theorem cellTaken_op (rest : List LaneCell) (f : Fld) (i : Nat) : LaneOp k cntFlds [f] 0 [] s (cellTaken s k rest f i) :=
  ((LaneOp.setLane _).andThen (.bump (by simp) (List.Subset.refl _) 1)).andThen (.laneCount i 1)

theorem getLane_cellTaken (s : State) (k : Nat) (rest : List LaneCell) (f : Fld) (i : Nat) :
    getLane (cellTaken s k rest f i) k =
      { getLane s k with ended := rest, counts := (getLane s k).counts.set i ((getLane s k).counts.getD i 0 + 1) } := by
  rw [cellTaken, getLane_laneCount, getLane_bump, getLane_setLane_same]

theorem cellTaken_rd {f : Fld} (hf : ∀ e ∈ cntFlds, e.id ≠ f.id) (rest : List LaneCell) (i : Nat) :
    (cellTaken s k rest f i).rd f k = min (s.rd f k + 1) (2 ^ f.width - 1) :=
  (setLane_rd _ _ _ _ _).trans (bump_rd_same _ _ _ _ hf)

/-- Taking a cell changes the lanes alone. -/
theorem cellTaken_units (s : State) (k : Nat) (rest : List LaneCell) (f : Fld) (i : Nat) :
    State.SameUnits { s with yg := { s.yg with lanes := (cellTaken s k rest f i).yg.lanes } } (cellTaken s k rest f i) := by
  have h := (cellTaken_op (s := s) (k := k) rest f i)
  have hunits := h.units
  obtain ⟨htb, hel⟩ := h.later
  rw [htb, hel] at hunits
  exact hunits

theorem cellTaken_ground (s : State) (k : Nat) (rest : List LaneCell) : SameGround s (cellTaken s k rest F.YG_LANE_CELLS.COUNT 3) := by
  have h := cellTaken_units s k rest F.YG_LANE_CELLS.COUNT 3
  have hop := cellTaken_op (s := s) (k := k) rest F.YG_LANE_CELLS.COUNT 3
  exact ⟨h.tables, h.act, congrArg GlobSt.armed h.glob, h.gh, h.tb, hop.rd _ _ (by decide) (by decide), hop.rd _ _ (by decide) (by decide)⟩

end

/-- The counters of the checks of Table 4-4. -/
def faultFlds : List Fld :=
  [F.YG_LANE_TRUNC.COUNT, F.YG_LANE_LEN_ERR.COUNT, F.YG_LANE_FEC_DISCARD.COUNT, F.YG_LANE_HCRC_ERR.COUNT, F.YG_LANE_HDR_ERR.COUNT,
   F.YG_LANE_PCRC_ERR.COUNT]

theorem cellFault_mem {c : LaneCell} {f : Fld} (h : cellFault c = some f) : f ∈ faultFlds := by
  unfold cellFault at h
  split_ifs at h
  all_goals
    obtain rfl := Option.some.inj h
    simp [faultFlds]

/-- Of the units, all but the lanes, the accumulation, the epoch and the Lodge are the same. -/
def CellUnits (s t : State) : Prop :=
  State.SameUnits { s with yg := { t.yg with lanes := s.yg.lanes }, acs := t.acs, glob := t.glob, lo := t.lo } t

theorem cellUnits_rel : UnitsRel CellUnits where
  same h := by
    unfold CellUnits
    rw [h.yg, h.acs, h.glob, h.lo]
    exact h
  acs _ _ := rfl
  trans h h' := by
    unfold CellUnits State.SameUnits at *
    rw [h']
    rw [h]

theorem cellUnits_of_filterUnits {s t : State} (h : FilterUnits s t) : CellUnits s t := by
  unfold FilterUnits at h
  have hglob := h.glob
  have hlo := h.lo
  dsimp only at hglob hlo
  unfold CellUnits
  rw [hglob, hlo]
  exact h

/-- The counters of the checks of Table 5-2. -/
def gatehouseFlds : List Fld :=
  [F.GH_UNKNOWN_SOURCE.COUNT, F.GH_GROUP_MISMATCH.COUNT, F.GH_FMT_MISMATCH.COUNT, F.GH_PAT_CELLS.COUNT, F.GH_PAT_ERR_CELLS.COUNT,
   F.GH_PAT_ERR_BYTES.COUNT, F.GH_IDLE_DISCARD.COUNT, F.GH_LATE.COUNT, F.GH_SRC_LATE.COUNT] ++ Err.GH.unit.flds

/-- The fields that a cell may write after it is counted on its lane. -/
def cellFlds : List Fld :=
  gatehouseFlds ++ F.LODGE_SRAM_UNCORR.COUNT :: F.GLOBAL_DP_STATE.HORIZON_VALID :: lodgeFlds ++ filterFlds

/-- The lanes and the run are as they were. -/
theorem CellUnits.keeps {s t : State} (h : CellUnits s t) :
    t.yg.lanes = s.yg.lanes ∧ t.gh = s.gh ∧ t.tables = s.tables ∧ t.act = s.act ∧ t.tb = s.tb := by
  unfold CellUnits at h
  have hgh := h.gh
  have htables := h.tables
  have hact := h.act
  have htb := h.tb
  exact ⟨by rw [h], hgh, htables, hact, htb⟩

/-- A counter one further. -/
def CountedUp (s t : State) (f : Fld) (j : Nat) : Prop := t.rd f j = min (s.rd f j + 1) (2 ^ f.width - 1)

/-- What every cell that passes the checks of Table 4-4 leaves of s, when it does not land. -/
def CellDropped (s t : State) (k : Nat) (rest : List LaneCell) : Prop :=
  ((getLane t k).ended = rest ∧ CountedUp s t F.YG_LANE_CELLS.COUNT k ∧ t.out = [] ∧
    s.SameOutside t RegMap.yargilLo RegMap.gatehouseHi
      (F.LODGE_SRAM_UNCORR.COUNT :: F.GLOBAL_DP_STATE.HORIZON_VALID :: F.ACC_BANK_FLAGS.FLAGS :: Err.PO.unit.flds) ∧
    State.SameUnits { s with yg := t.yg, acs := t.acs, glob := t.glob, lo := t.lo } t) ∧ t.gh = s.gh

/-- The cell of a command, taken and counted. -/
def cellCounted (s : State) (k : Nat) (rest : List LaneCell) : State := cellTaken { s with out := [] } k rest F.YG_LANE_CELLS.COUNT 3

/-- Each field that a cell writes lies among those of the Yargil and the Gatehouse, or is one of a few others. -/
theorem cellFlds_outside : ∀ e ∈ F.YG_LANE_CELLS.COUNT :: cellFlds, (RegMap.yargilLo ≤ e.id ∧ e.id < RegMap.gatehouseHi) ∨
    e.id ∈ (endFlds ++ cntFlds ++
      (F.LODGE_SRAM_UNCORR.COUNT :: F.GLOBAL_DP_STATE.HORIZON_VALID :: F.ACC_BANK_FLAGS.FLAGS :: Err.PO.unit.flds)).map Fld.id := by decide

/-- A field that may not be written by a cell. -/
theorem cellFlds_ne {g : Fld} (hg : ∀ e ∈ endFlds ++ cntFlds ++
      (F.LODGE_SRAM_UNCORR.COUNT :: F.GLOBAL_DP_STATE.HORIZON_VALID :: F.ACC_BANK_FLAGS.FLAGS :: Err.PO.unit.flds), e.id ≠ g.id)
    (hid : g.id < RegMap.yargilLo ∨ RegMap.gatehouseHi ≤ g.id) : ∀ e ∈ F.YG_LANE_CELLS.COUNT :: cellFlds, e.id ≠ g.id := by
  intro e he hsame
  rcases cellFlds_outside e he with ⟨hlo, hhi⟩ | hmem
  · omega
  · obtain ⟨d, hd, hid'⟩ := List.mem_map.mp hmem
    exact hg d hd (hid'.trans hsame)

/-- A command whose effect counts a cell and then writes the fields of cells drops the cell. -/
theorem cellDropped_of_op {s u : State} {k : Nat} {rest : List LaneCell} (h : SideOp CellUnits cellFlds (cellCounted s k rest) u) :
    CellDropped s (perform (fun _ => u) s) k rest := by
  have htaken : LaneOp k cntFlds [F.YG_LANE_CELLS.COUNT] 0 [] { s with out := [] } (cellCounted s k rest) := cellTaken_op _ _ _
  have hunits := cellTaken_units { s with out := [] } k rest F.YG_LANE_CELLS.COUNT 3
  obtain ⟨hlanes, hgh, -⟩ := h.units.keeps
  have hperform := perform_sameUnits (fun _ => u) s
  have hrd : ∀ g j, (∀ e ∈ endFlds, e.id ≠ g.id) → (∀ e ∈ cellFlds, e.id ≠ g.id) →
      (perform (fun _ => u) s).rd g j = (cellCounted s k rest).rd g j := fun g j hend hg =>
    (perform_rd (fun _ => u) s g j hend).trans (h.regs g j hg)
  refine ⟨⟨?_, ?_, ?_, fun g j hg hid => ?_, ?_⟩, ?_⟩
  · rw [perform_getLane, getLane, hlanes]
    exact congrArg Lane.ended (getLane_cellTaken { s with out := [] } k rest F.YG_LANE_CELLS.COUNT 3)
  · rw [CountedUp, hrd _ _ (by decide) (by decide)]
    exact cellTaken_rd (by decide) rest 3
  · rw [perform_out, h.out, htaken.out]
    rfl
  · have hne := cellFlds_ne hg hid
    rw [hrd g j (fun e he => hg e (by simp [he])) fun e he => hne e (List.mem_cons_of_mem _ he)]
    exact htaken.rd g j (fun e he => hg e (by simp [he])) fun e he => hne e (by rw [List.mem_singleton.mp he]; exact List.mem_cons_self)
  · have hu : State.SameUnits { s with yg := u.yg, acs := u.acs, glob := u.glob, lo := u.lo } u := by
      have hcell := h.units
      unfold CellUnits State.SameUnits at *
      rw [hcell]
      rw [show cellCounted s k rest = _ from hunits]
    rw [hperform.yg, hperform.acs, hperform.glob, hperform.lo]
    exact perform_keepsUnits (f := fun _ => u) (s := s) hu rfl
  · exact hperform.gh.trans (hgh.trans hunits.gh)

end Sys2Proof.Machine
end

section
/-! PROOFS. A cell through the duplicate filter and the checks of the Gatehouse (R58, R93, R108, R122, Table 5-2). -/
namespace Sys2Proof.Machine

/-! What a cell may set off. -/

theorem lodgeBit_keeps {β : Type} (p : State → β) (herr : ∀ s v i info, p (setErr s v i info) = p s) (halert : ∀ s i, p (setAlert s i) = p s)
    (s : State) (i info : Nat) : p (lodgeBit s i info) = p s := by
  have hfault := ite_keeps (p := p) (c := (!faultLow s && faultLow (setErr s Err.LODGE.unit i info)) = true)
    ((halert _ 0).trans (herr s Err.LODGE.unit i info)) (herr s Err.LODGE.unit i info)
  exact ite_keeps (p := p) ((halert _ 5).trans hfault) hfault

/-- Work of a cell after it is counted on its lane. -/
def CellOp (s t : State) : Prop := SideOp CellUnits cellFlds s t

namespace CellOp

variable {s t u : State}

theorem refl : CellOp s s := SideOp.refl cellUnits_rel

theorem trans (h : CellOp s t) (h' : CellOp t u) : CellOp s u := SideOp.trans cellUnits_rel h h'

theorem bump {f : Fld} (hf : f ∈ cellFlds) (k n : Nat) : CellOp s (bump s f k n) :=
  SideOp.bump cellUnits_rel hf (fun _ h => by simp [cellFlds, filterFlds, h]) k n

theorem of_filterOp (h : FilterOp s t) : CellOp s t :=
  (⟨cellUnits_of_filterUnits h.units, h.regs, h.out, h.events⟩ : SideOp CellUnits filterFlds s t).mono fun _ he => by simp [cellFlds, he]

theorem setErr {v : ErrUnit} (hv : v.flds ⊆ cellFlds) (i info : Nat) : CellOp s (setErr s v i info) := SideOp.setErr cellUnits_rel hv i info

/-- The epoch. -/
theorem glob (g : GlobSt) : CellOp s { s with glob := g } := ⟨rfl, fun _ _ _ => rfl, rfl, List.prefix_refl _⟩

/-- The Lodge. -/
theorem lo (l : LodgeSt) : CellOp s { s with lo := l } := ⟨rfl, fun _ _ _ => rfl, rfl, List.prefix_refl _⟩

theorem freshFilter (s : State) (e csi : Nat) : CellOp s (freshFilter s e csi) := by
  rw [Machine.freshFilter]
  split
  · exact (CellOp.glob _).trans (of_filterOp (FilterOp.setFilter _ _ _))
  · exact refl

theorem patternCheck (s : State) (c : Cell) : CellOp s (patternCheck s c) := by
  have hcells : CellOp s (Machine.bump s F.GH_PAT_CELLS.COUNT 0 1) := bump (by simp [cellFlds, gatehouseFlds]) 0 1
  exact SideOp.ite (fun _ => hcells) fun _ => ((hcells.trans (bump (by simp [cellFlds, gatehouseFlds]) 0 1)).trans
    (bump (by simp [cellFlds, gatehouseFlds]) 0 _)).trans (setErr (fun _ h => by simp [cellFlds, gatehouseFlds, h]) _ _)

theorem raiseHorizon (s : State) (csi : Nat) : CellOp s (raiseHorizon s csi) :=
  (CellOp.glob _).trans (SideOp.wr cellUnits_rel (by simp [cellFlds]) 0 1)

theorem lodgeErr (i info item : Nat) (args : List Nat) : CellOp s (lodgeErr s i info item args) := by
  refine ⟨cellUnits_rel.same (lodgeErr_sameUnits _ _ _ _ _), fun _ _ hg => lodgeErr_rd _ _ _ _ _ _ _ fun d hd => hg d (by simp [cellFlds, hd]), ?_, ?_⟩
  · rw [Machine.lodgeErr, raise_out, lodgeBit_keeps State.out setErr_out setAlert_out]
  · have hko : (lodgeBit s i info).ko = s.ko := lodgeBit_keeps State.ko setErr_ko setAlert_ko s i info
    rw [Machine.lodgeErr, ← hko]
    exact raise_evq _ _ _

theorem sramFault (s : State) (mem : Nat) : CellOp s (sramFault s mem) :=
  ((bump (by simp [cellFlds]) 0 1).trans (.lo _)).trans (lodgeErr _ _ _ _)

theorem dupDiscard (s : State) (e : Nat) (c : Cell) : CellOp s (dupDiscard s e c) := by
  have hdup : CellOp s (Machine.bump s F.YG_SRC_DUP.COUNT e 1) := bump (by simp [cellFlds, filterFlds]) e 1
  rw [Machine.dupDiscard]
  split
  · exact hdup
  · exact SideOp.ite (fun _ => ((hdup.trans (bump (by simp [cellFlds, filterFlds]) e 1)).trans
      (setErr (fun _ h => by simp [cellFlds, filterFlds, h]) _ _)).trans (.lo _)) fun _ => hdup

end CellOp

/-! A cell that passes the filter. -/

/-- A cell of entry e was counted and passed the filter: what is left to the checks that follow. -/
structure CellPassed (s w : State) (k : Nat) (rest : List LaneCell) (e csi : Nat) : Prop where
  op : CellOp (cellCounted s k rest) w
  glob : w.glob = (freshFilter s e csi).glob
  regs : ∀ g j, (∀ d ∈ F.YG_LANE_CELLS.COUNT :: filterFlds, d.id ≠ g.id) → w.rd g j = s.rd g j
  ground : SameGround s w

theorem cellCounted_ground (s : State) (k : Nat) (rest : List LaneCell) : SameGround s (cellCounted s k rest) :=
  SameGround.trans (t := { s with out := [] }) ⟨rfl, rfl, rfl, rfl, rfl, rfl, rfl⟩ (cellTaken_ground { s with out := [] } k rest)

theorem cellCounted_glob (s : State) (k : Nat) (rest : List LaneCell) : (cellCounted s k rest).glob = s.glob :=
  (cellTaken_units { s with out := [] } k rest F.YG_LANE_CELLS.COUNT 3).glob

theorem getFilter_cellCounted (s : State) (k : Nat) (rest : List LaneCell) (e : Nat) : getFilter (cellCounted s k rest) e = getFilter s e := by
  have h := (cellTaken_units { s with out := [] } k rest F.YG_LANE_CELLS.COUNT 3).yg
  rw [getFilter, cellCounted, h]
  rfl

theorem cellCounted_rd (s : State) (k : Nat) (rest : List LaneCell) (g : Fld) (j : Nat)
    (h : ∀ d ∈ F.YG_LANE_CELLS.COUNT :: cntFlds, d.id ≠ g.id) : (cellCounted s k rest).rd g j = s.rd g j :=
  (cellTaken_op (s := { s with out := [] }) (k := k) rest F.YG_LANE_CELLS.COUNT 3).rd g j (fun d hd => h d (List.mem_cons_of_mem _ hd))
    fun d hd => h d (by rw [List.mem_singleton.mp hd]; exact List.mem_cons_self)

/-- What work of a cell leaves of the ground. -/
theorem CellOp.ground {s t : State} (h : CellOp s t) (harmed : t.glob.armed = s.glob.armed) : SameGround s t := by
  obtain ⟨-, hgh, htables, hact, htb⟩ := h.units.keeps
  exact ⟨htables, hact, harmed, hgh, htb, h.regs _ _ (by decide), h.regs _ _ (by decide)⟩

theorem FilterOp.glob {s t : State} (h : FilterOp s t) : t.glob = s.glob := by
  have hunits := h.units
  unfold FilterUnits at hunits
  have hglob := hunits.glob
  exact hglob

theorem freshFilter_rd (s : State) (e csi : Nat) (g : Fld) (j : Nat) (h : ∀ d ∈ shownFlds, d.id ≠ g.id) :
    (freshFilter s e csi).rd g j = s.rd g j := by
  rw [freshFilter]
  split
  · exact setFilter_rd _ _ _ _ _ h
  · rfl

/-- A cell that the filter lets pass. -/
theorem cellPassed {s : State} {k : Nat} {rest : List LaneCell} {e : Nat} {c : Cell} {role : Nat}
    (h : (dupFilter (freshFilter s e c.csi) e c role).1 = true) :
    (dupFilter (freshFilter (cellCounted s k rest) e c.csi) e c role).1 = true ∧
      CellPassed s (dupFilter (freshFilter (cellCounted s k rest) e c.csi) e c role).2 k rest e c.csi := by
  obtain ⟨hfilter, hglob⟩ := freshFilter_congr (cellCounted_ground s k rest) (cellCounted_glob s k rest) e c.csi (getFilter_cellCounted s k rest e)
  have hpass : (dupFilter (freshFilter (cellCounted s k rest) e c.csi) e c role).1 = true := (dupFilter_fst hfilter c role).trans h
  have hop : FilterOp _ _ := FilterOp.dupFilter hpass
  have hfresh := CellOp.freshFilter (cellCounted s k rest) e c.csi
  have hall := hfresh.trans (.of_filterOp hop)
  have hend : (dupFilter (freshFilter (cellCounted s k rest) e c.csi) e c role).2.glob = (freshFilter s e c.csi).glob := hop.glob.trans hglob
  refine ⟨hpass, hall, hend, fun g j hg => ?_, (cellCounted_ground s k rest).trans (hall.ground ?_)⟩
  · have hfilterFlds : ∀ d ∈ filterFlds, d.id ≠ g.id := fun d hd => hg d (List.mem_cons_of_mem _ hd)
    rw [hop.regs g j hfilterFlds, freshFilter_rd _ _ _ _ _ fun d hd => hfilterFlds d (by simp [filterFlds, hd])]
    refine cellCounted_rd s k rest g j fun d hd => ?_
    rcases List.mem_cons.mp hd with rfl | hd
    · exact hg _ List.mem_cons_self
    · exact hfilterFlds d (by simp [filterFlds, hd])
  · rw [hend, glob_freshFilter, cellCounted_glob]

end Sys2Proof.Machine
end

section
/-! PROOFS. The commands of received cells (R88, R90, R93, R108, R122, Table 4-4, Table 5-2). -/
namespace Sys2Proof.Machine

/-! The checks of Table 5-2, in order. -/

section
variable {s : State} {e : Nat} {c : Cell}

/-- The group of a cell is among those of its entry. -/
def groupInEntry (s : State) (e : Nat) (c : Cell) : Prop :=
  (sourceEntry s (sourceBank s c.csi) e).base ≤ c.group ∧
    c.group < (sourceEntry s (sourceBank s c.csi) e).base + (sourceEntry s (sourceBank s c.csi) e).count

theorem gatehouse_group (h : ¬ groupInEntry s e c) : gatehouse s e c = bump s F.GH_GROUP_MISMATCH.COUNT 0 1 := by
  rw [groupInEntry, not_and_or] at h
  refine if_pos ?_
  rcases h with h | h <;> simp [h]

theorem gatehouse_format (h : groupInEntry s e c) (hfmt : c.fmt ≠ (if s.mode4 then 2 else 1)) :
    gatehouse s e c = bump s F.GH_FMT_MISMATCH.COUNT 0 1 := by
  obtain ⟨hlo, hhi⟩ := h
  rw [gatehouse, if_neg (by simp [hlo, hhi]), if_pos hfmt]

theorem gatehouse_test (h : groupInEntry s e c) (hfmt : c.fmt = (if s.mode4 then 2 else 1)) (htest : c.test = true) :
    gatehouse s e c = patternCheck s c := by
  obtain ⟨hlo, hhi⟩ := h
  rw [gatehouse, if_neg (by simp [hlo, hhi]), if_neg (not_not.mpr hfmt), if_pos htest]

theorem gatehouse_idle (h : groupInEntry s e c) (hfmt : c.fmt = (if s.mode4 then 2 else 1)) (htest : c.test = false) (hdp : s.dp = dpIDLE) :
    gatehouse s e c = bump (raiseHorizon s c.csi) F.GH_IDLE_DISCARD.COUNT 0 1 := by
  obtain ⟨hlo, hhi⟩ := h
  rw [gatehouse, if_neg (by simp [hlo, hhi]), if_neg (not_not.mpr hfmt), if_neg (by simp [htest])]
  simp [hdp]

theorem gatehouse_late {ch : Nat} (h : groupInEntry s e c) (hfmt : c.fmt = (if s.mode4 then 2 else 1)) (htest : c.test = false)
    (hdp : s.dp = dpRUNNING) (hchan : deviceChan s c = some ch) (halign : c.csi % s.sCell = 0) (hstart : s.gh.firstSlice * s.sCell ≤ c.csi)
    (hlate : c.csi / s.sCell < frontOf s ch) :
    gatehouse s e c = bump (bump s F.GH_LATE.COUNT 0 1) F.GH_SRC_LATE.COUNT e 1 := by
  obtain ⟨hlo, hhi⟩ := h
  have hnot : ¬ c.csi < s.gh.firstSlice * s.sCell := Nat.not_lt.mpr hstart
  rw [gatehouse, if_neg (by simp [hlo, hhi]), if_neg (not_not.mpr hfmt), if_neg (by simp [htest]), hchan]
  simp [hdp, halign, hnot, hlate]

end

/-! The cell of a command. -/

section
variable {s : State} {k : Fin 64} {cell : LaneCell} {rest : List LaneCell}

/-- A cell waits on the lane of the command. -/
theorem cellReceive_completes {u : State} {P : State → Prop} {sramBad : Bool} (hs : s.held = false) (hended : (getLane s k).ended = cell :: rest)
    (hu : receiveCell { s with out := [] } k sramBad = u) (h : P (perform (fun _ => u) s)) : Completes (.cellReceive k sramBad) s P :=
  completes_effect rfl hs (by rw [hended]; rfl) hu h

/-- A cell that fails a check of Table 4-4 is counted by the check (R88). -/
theorem cellReceive_fault {f : Fld} (sramBad : Bool) (hs : s.held = false) (hended : (getLane s k).ended = cell :: rest) (hf : cellFault cell = some f) :
    Completes (.cellReceive k sramBad) s fun t =>
      CountedUp s t f k ∧ (getLane t k).ended = rest ∧
      (getLane t k).counts = (getLane s k).counts.set 4 ((getLane s k).counts.getD 4 0 + 1) ∧
      (∀ j, j ≠ k.val → getLane t j = getLane s j) ∧ t.out = [] ∧ s.SameRegs t cntFlds [(f, k.val)] ∧
      State.SameUnits { s with yg := { s.yg with lanes := t.yg.lanes } } t := by
  obtain ⟨hcnt, hend⟩ := (by decide : ∀ f ∈ faultFlds, (∀ e ∈ cntFlds, e.id ≠ f.id) ∧ ∀ e ∈ endFlds, e.id ≠ f.id) f (cellFault_mem hf)
  refine completes_now k cntFlds [f] rfl hs (by rw [hended]; rfl) (receiveCell_fault (s := { s with out := [] }) hended hf sramBad)
    (cellTaken_op rest f 4) fun hout hothers hregs hunits => ⟨?_, ?_, ?_, hothers, hout, hregs, hunits⟩
  · rw [CountedUp, perform_rd _ _ _ _ hend]
    exact cellTaken_rd hcnt rest 4
  · rw [perform_getLane, getLane_cellTaken]
  · rw [perform_getLane, getLane_cellTaken]
    rfl

/-- The cell of the command after the filter, when it passes. -/
def filterPassed (s : State) (k : Nat) (rest : List LaneCell) (e : Nat) (c : Cell) : State :=
  (dupFilter (freshFilter (cellCounted s k rest) e c.csi) e c (effRole s k)).2

theorem effRole_cellCounted (s : State) (k : Nat) (rest : List LaneCell) : effRole (cellCounted s k rest) k = effRole s k :=
  effRole_congr (cellCounted_rd _ _ _ _ _ (by decide)) (cellCounted_rd _ _ _ _ _ (by decide))

theorem receiveCell_source (hended : (getLane s k).ended = cell :: rest) (hf : cellFault cell = none) {e : Nat}
    (hsource : sourceOf s (sourceBank s (parseCell cell.bytes).csi) (parseCell cell.bytes).source = some e) (sramBad : Bool) :
    receiveCell { s with out := [] } k sramBad =
      let r := dupFilter (freshFilter (cellCounted s k rest) e (parseCell cell.bytes).csi) e (parseCell cell.bytes) (effRole s k)
      if !r.1 then r.2 else if sramBad then sramFault r.2 1 else gatehouse r.2 e (parseCell cell.bytes) := by
  have hground := cellCounted_ground s k rest
  rw [receiveCell_good (s := { s with out := [] }) hended hf, takeCell, ← cellCounted, hground.sourceBank, hground.sourceOf, hsource,
    effRole_cellCounted]

/-- A cell of a source that passes the filter goes to the Gatehouse. -/
theorem receiveCell_passed (hended : (getLane s k).ended = cell :: rest) (hf : cellFault cell = none) {e : Nat}
    (hsource : sourceOf s (sourceBank s (parseCell cell.bytes).csi) (parseCell cell.bytes).source = some e)
    (hpass : (dupFilter (freshFilter (cellCounted s k rest) e (parseCell cell.bytes).csi) e (parseCell cell.bytes) (effRole s k)).1 = true)
    (sramBad : Bool) :
    receiveCell { s with out := [] } k sramBad =
      if sramBad then sramFault (filterPassed s k rest e (parseCell cell.bytes)) 1
      else gatehouse (filterPassed s k rest e (parseCell cell.bytes)) e (parseCell cell.bytes) := by
  rw [receiveCell_source hended hf hsource]
  dsimp only
  rw [hpass]
  rfl

end

end Sys2Proof.Machine
end

section
/-! PROOFS. What becomes of a received cell: dropped as unknown, as a copy, or by a check of the Gatehouse (R88 to R93, R108, R122, R58). -/
namespace Sys2Proof.Machine

/-- Cell `cell` waits on lane k, passes the checks of Table 4-4, and is of source entry e. -/
structure CellOfSource (s : State) (k : Fin 64) (cell : LaneCell) (rest : List LaneCell) (e : Nat) : Prop where
  held : s.held = false
  ended : (getLane s k).ended = cell :: rest
  good : cellFault cell = none
  source : sourceOf s (sourceBank s (parseCell cell.bytes).csi) (parseCell cell.bytes).source = some e

/-- A counter that neither the filter nor the lane counts stands one further after a command that counts it. -/
theorem CellPassed.countedUp {s w u : State} {k : Nat} {rest : List LaneCell} {e csi : Nat} (h : CellPassed s w k rest e csi) {f : Fld}
    (hf : ∀ d ∈ endFlds ++ F.YG_LANE_CELLS.COUNT :: filterFlds, d.id ≠ f.id) {j : Nat} (hu : u.rd f j = (bump w f j 1).rd f j) :
    CountedUp s (perform (fun _ => u) s) f j := by
  have hcnt : ∀ d ∈ cntFlds, d.id ≠ f.id := fun d hd => hf d (by simp [filterFlds, hd])
  rw [CountedUp, perform_rd _ _ _ _ fun d hd => hf d (List.mem_append_left _ hd), hu, bump_rd_same _ _ _ _ hcnt,
    h.regs f j fun d hd => hf d (List.mem_append_right _ hd)]

theorem sramFault_rd (s : State) (mem : Nat) :
    (sramFault s mem).rd F.LODGE_SRAM_UNCORR.COUNT 0 = (bump s F.LODGE_SRAM_UNCORR.COUNT 0 1).rd F.LODGE_SRAM_UNCORR.COUNT 0 := by
  rw [sramFault, lodgeErr_rd _ _ _ _ _ _ _ (by decide)]
  rfl

/-- The pattern checker counts the cell, and the wrong bytes that it finds (R122). -/
theorem patternCheck_sameUnits (s : State) (c : Cell) : s.SameUnits (patternCheck s c) :=
  ite_sameUnits (bump_sameUnits _ _ _ _) ((((bump_sameUnits _ _ _ _).trans (bump_sameUnits _ _ _ _)).trans (bump_sameUnits _ _ _ _)).trans
    (setErr_sameUnits _ _ _ _))

theorem patternCheck_rd (s : State) (c : Cell) :
    (patternCheck s c).rd F.GH_PAT_CELLS.COUNT 0 = (bump s F.GH_PAT_CELLS.COUNT 0 1).rd F.GH_PAT_CELLS.COUNT 0 := by
  refine ite_rd (s := bump s F.GH_PAT_CELLS.COUNT 0 1) rfl ?_
  rw [setErr_rd_flds _ _ _ _ _ _ (by decide), bump_rd _ _ _ _ _ _ (by decide) (by decide), bump_rd _ _ _ _ _ _ (by decide) (by decide)]

theorem glob_raiseHorizon (s : State) (csi : Nat) :
    (raiseHorizon s csi).glob = { s.glob with hCsi := some (max (csi + s.sCell - 1) (s.glob.hCsi.getD 0)) } := rfl

theorem SameGround.groupInEntry {s t : State} (h : SameGround s t) (e : Nat) (c : Cell) : groupInEntry t e c ↔ groupInEntry s e c := by
  rw [Machine.groupInEntry, Machine.groupInEntry, h.sourceBank, h.sourceEntry]

namespace CellOfSource

variable {s : State} {k : Fin 64} {cell : LaneCell} {rest : List LaneCell} {e : Nat}

/-- A cell of no source is counted (Table 5-2, check 1). -/
theorem unknown (hs : s.held = false) (hended : (getLane s k).ended = cell :: rest) (hgood : cellFault cell = none)
    (hsource : sourceOf s (sourceBank s (parseCell cell.bytes).csi) (parseCell cell.bytes).source = none) (sramBad : Bool) :
    Completes (.cellReceive k sramBad) s fun t =>
      CellDropped s t k rest ∧ CountedUp s t F.GH_UNKNOWN_SOURCE.COUNT 0 ∧
      s.SameRegs t cntFlds [(F.YG_LANE_CELLS.COUNT, k.val), (F.GH_UNKNOWN_SOURCE.COUNT, 0)] ∧
      State.SameUnits { s with yg := { s.yg with lanes := t.yg.lanes } } t := by
  have hground := cellCounted_ground s k rest
  have hu : receiveCell { s with out := [] } k sramBad = bump (cellCounted s k rest) F.GH_UNKNOWN_SOURCE.COUNT 0 1 := by
    rw [receiveCell_good (s := { s with out := [] }) hended hgood, takeCell, ← cellCounted, hground.sourceBank, hground.sourceOf, hsource]
  refine cellReceive_completes hs hended hu ⟨cellDropped_of_op (CellOp.bump (by simp [cellFlds, gatehouseFlds]) 0 1), ?_, ?_, ?_⟩
  · rw [CountedUp, perform_rd _ _ _ _ (by decide), bump_rd_same _ _ _ _ (by decide), cellCounted_rd _ _ _ _ _ (by decide)]
  · refine perform_sameRegs fun g j hW hL => ?_
    have hcells : j = k.val → ∀ d ∈ [F.YG_LANE_CELLS.COUNT], d.id ≠ g.id := fun hj d hd hid =>
      hL _ List.mem_cons_self (by rw [← List.mem_singleton.mp hd, hid, hj])
    have hunknown : ¬ (F.GH_UNKNOWN_SOURCE.COUNT.id = g.id ∧ 0 = j) := fun hg => hL (F.GH_UNKNOWN_SOURCE.COUNT, 0) (by simp) (by rw [hg.1, hg.2])
    rw [bump, belvAdd_rd _ _ _ _ _ hW, State.rd_wr, if_neg hunknown]
    exact (cellTaken_op (s := { s with out := [] }) (k := k) rest F.YG_LANE_CELLS.COUNT 3).regs g j hW hcells
  · have hunits := (cellTaken_units { s with out := [] } k rest F.YG_LANE_CELLS.COUNT 3).trans (bump_sameUnits _ F.GH_UNKNOWN_SOURCE.COUNT 0 1)
    rw [(perform_sameUnits (fun _ => bump (cellCounted s k rest) F.GH_UNKNOWN_SOURCE.COUNT 0 1) s).yg, (bump_sameUnits _ _ _ _).yg]
    exact perform_keepsUnits (f := fun _ => bump (cellCounted s k rest) F.GH_UNKNOWN_SOURCE.COUNT 0 1) (s := s) hunits rfl

/-- The cell passes the filter. -/
def Passes (s : State) (k : Fin 64) (cell : LaneCell) (e : Nat) : Prop :=
  (dupFilter (freshFilter s e (parseCell cell.bytes).csi) e (parseCell cell.bytes) (effRole s k)).1 = true

variable (h : CellOfSource s k cell rest e)

/-- The state in which the Gatehouse finds a cell that passes the filter. -/
theorem passed (hpass : Passes s k cell e) :
    CellPassed s (filterPassed s k rest e (parseCell cell.bytes)) k rest e (parseCell cell.bytes).csi := (cellPassed hpass).2

include h

/-- A cell that passes the filter completes as the Gatehouse leaves it. -/
theorem completes_gatehouse {u : State} {P : State → Prop} (hpass : Passes s k cell e)
    (hu : gatehouse (filterPassed s k rest e (parseCell cell.bytes)) e (parseCell cell.bytes) = u) (hP : P (perform (fun _ => u) s)) :
    Completes (.cellReceive k false) s P :=
  cellReceive_completes h.held h.ended
    ((receiveCell_passed h.ended h.good h.source (cellPassed hpass).1 false).trans ((if_neg Bool.false_ne_true).trans hu)) hP

/-- A cell in a word of the on-die memory that cannot be corrected (R285). -/
theorem sramBad (hpass : Passes s k cell e) : Completes (.cellReceive k true) s fun t =>
    CellDropped s t k rest ∧ CountedUp s t F.LODGE_SRAM_UNCORR.COUNT 0 := by
  have hw := passed (rest := rest) hpass
  have hu := (receiveCell_passed h.ended h.good h.source (cellPassed hpass).1 true).trans (if_pos rfl)
  exact cellReceive_completes h.held h.ended hu ⟨cellDropped_of_op (hw.op.trans (CellOp.sramFault _ 1)),
    hw.countedUp (by decide) (sramFault_rd _ _)⟩

/-- A group outside those of the entry (check 2). -/
theorem groupMismatch (hpass : Passes s k cell e) (hgroup : ¬ groupInEntry s e (parseCell cell.bytes)) :
    Completes (.cellReceive k false) s fun t => CellDropped s t k rest ∧ CountedUp s t F.GH_GROUP_MISMATCH.COUNT 0 := by
  have hw := passed (rest := rest) hpass
  exact h.completes_gatehouse hpass (gatehouse_group fun hin => hgroup ((hw.ground.groupInEntry e _).mp hin))
    ⟨cellDropped_of_op (hw.op.trans (CellOp.bump (by simp [cellFlds, gatehouseFlds]) 0 1)), hw.countedUp (by decide) rfl⟩

variable (hpass : Passes s k cell e) (hgroup : groupInEntry s e (parseCell cell.bytes))
include hpass hgroup

/-- A payload of another format than the mode's (check 3). -/
theorem formatMismatch (hfmt : (parseCell cell.bytes).fmt ≠ (if s.mode4 then 2 else 1)) :
    Completes (.cellReceive k false) s fun t => CellDropped s t k rest ∧ CountedUp s t F.GH_FMT_MISMATCH.COUNT 0 := by
  have hw := passed (rest := rest) hpass
  exact h.completes_gatehouse hpass (gatehouse_format ((hw.ground.groupInEntry e _).mpr hgroup) (by rw [hw.ground.mode4]; exact hfmt))
    ⟨cellDropped_of_op (hw.op.trans (CellOp.bump (by simp [cellFlds, gatehouseFlds]) 0 1)), hw.countedUp (by decide) rfl⟩

/-- A test cell goes to the pattern checker (R122). -/
theorem testCell (hfmt : (parseCell cell.bytes).fmt = (if s.mode4 then 2 else 1)) (htest : (parseCell cell.bytes).test = true) :
    Completes (.cellReceive k false) s fun t =>
      CellDropped s t k rest ∧ t.glob = (freshFilter s e (parseCell cell.bytes).csi).glob ∧ CountedUp s t F.GH_PAT_CELLS.COUNT 0 := by
  have hw := passed (rest := rest) hpass
  refine h.completes_gatehouse hpass (gatehouse_test ((hw.ground.groupInEntry e _).mpr hgroup) (by rw [hw.ground.mode4]; exact hfmt) htest)
    ⟨cellDropped_of_op (hw.op.trans (CellOp.patternCheck _ _)), ?_, hw.countedUp (by decide) ?_⟩
  · exact ((perform_sameUnits (fun _ => patternCheck _ _) s).glob.trans (patternCheck_sameUnits _ _).glob).trans hw.glob
  · exact patternCheck_rd _ _

/-- A cell of the stream is discarded in IDLE, and raises the horizon (R58, check 4). -/
theorem idleDiscard (hfmt : (parseCell cell.bytes).fmt = (if s.mode4 then 2 else 1)) (htest : (parseCell cell.bytes).test = false)
    (hdp : s.dp = dpIDLE) :
    Completes (.cellReceive k false) s fun t =>
      CellDropped s t k rest ∧ CountedUp s t F.GH_IDLE_DISCARD.COUNT 0 ∧
      t.glob = { (freshFilter s e (parseCell cell.bytes).csi).glob with
        hCsi := some (max ((parseCell cell.bytes).csi + s.sCell - 1) (s.glob.hCsi.getD 0)) } := by
  have hw := passed (rest := rest) hpass
  refine h.completes_gatehouse hpass (gatehouse_idle ((hw.ground.groupInEntry e _).mpr hgroup) (by rw [hw.ground.mode4]; exact hfmt) htest
    (hw.ground.dp.trans hdp))
    ⟨cellDropped_of_op ((hw.op.trans (CellOp.raiseHorizon _ _)).trans (CellOp.bump (by simp [cellFlds, gatehouseFlds]) 0 1)),
      hw.countedUp (by decide) ?_, ?_⟩
  · rw [bump_rd_same _ _ _ _ (by decide), bump_rd_same _ _ _ _ (by decide)]
    exact congrArg (fun n => min (n + 1) _) (State.rd_wr_other _ _ _ _ _ _ (by decide))
  · obtain ⟨u, hu⟩ : ∃ u, bump (raiseHorizon (filterPassed s k rest e (parseCell cell.bytes)) (parseCell cell.bytes).csi) F.GH_IDLE_DISCARD.COUNT 0 1 = u :=
      ⟨_, rfl⟩
    have hglob : u.glob = _ := hu ▸ (bump_sameUnits _ _ _ _).glob
    rw [hu, (perform_sameUnits (fun _ => u) s).glob, hglob, glob_raiseHorizon, hw.ground.sCell, hw.glob]
    rw [glob_freshFilter]

/-- A cell whose slice is released is late (check 9). -/
theorem lateCell {ch : Nat} (hfmt : (parseCell cell.bytes).fmt = (if s.mode4 then 2 else 1)) (htest : (parseCell cell.bytes).test = false)
    (hdp : s.dp = dpRUNNING) (hchan : deviceChan s (parseCell cell.bytes) = some ch) (halign : (parseCell cell.bytes).csi % s.sCell = 0)
    (hstart : s.gh.firstSlice * s.sCell ≤ (parseCell cell.bytes).csi) (hlate : (parseCell cell.bytes).csi / s.sCell < frontOf s ch) :
    Completes (.cellReceive k false) s fun t =>
      CellDropped s t k rest ∧ t.glob = (freshFilter s e (parseCell cell.bytes).csi).glob ∧ CountedUp s t F.GH_LATE.COUNT 0 ∧
      CountedUp s t F.GH_SRC_LATE.COUNT e := by
  have hw := passed (rest := rest) hpass
  have hground := hw.ground
  refine h.completes_gatehouse hpass (gatehouse_late (ch := ch) ((hground.groupInEntry e _).mpr hgroup) (by rw [hground.mode4]; exact hfmt) htest
    (hground.dp.trans hdp) (by rw [hground.deviceChan, hchan]) (by rw [hground.sCell, halign]) (by rw [hground.sCell, hground.gh]; exact hstart)
    (by rw [hground.sCell, hground.frontOf]; exact hlate))
    ⟨cellDropped_of_op ((hw.op.trans (CellOp.bump (by simp [cellFlds, gatehouseFlds]) 0 1)).trans
      (CellOp.bump (by simp [cellFlds, gatehouseFlds]) e 1)), ?_, hw.countedUp (by decide) ?_, hw.countedUp (by decide) ?_⟩
  · exact ((perform_sameUnits (fun _ => bump (bump _ _ _ _) _ _ _) s).glob.trans
      ((bump_sameUnits _ _ _ _).trans (bump_sameUnits _ _ _ _)).glob).trans hw.glob
  · exact bump_rd _ _ _ _ _ _ (by decide) (by decide)
  · rw [bump_rd_same _ _ _ _ (by decide), bump_rd_same _ _ _ _ (by decide), bump_rd _ _ _ _ _ _ (by decide) (by decide)]

end CellOfSource

end Sys2Proof.Machine
end

section
/-! PROOFS. The second copy of a cell (R90, R93), and the checks of a received cell as a whole. -/
namespace Sys2Proof.Machine

/-- A cell whose number its filter has seen, inside the window (R90). -/
structure SeenBefore (x : DupFilter) (seq old : Nat) : Prop where
  established : x.established = true
  seen : Tab.find x.seen seq = some old
  behind : signed 32 (unsigned 32 ((seq : Int) - x.h)) ≤ 0
  inWindow : -4096 < signed 32 (unsigned 32 ((seq : Int) - x.h))

/-- The filter with another mark on a number that it has seen. -/
def DupFilter.marked (x : DupFilter) (seq mark : Nat) : DupFilter := { x with seen := Tab.put x.seen seq mark, staleRun := 0 }

/-- A second copy is discarded with its mark kept (R90). -/
theorem dupFilter_seen {s : State} {e : Nat} {c : Cell} {role old : Nat} (h : SeenBefore (getFilter s e) c.seq old) :
    dupFilter s e c role = (false, dupDiscard (setFilter s e ((getFilter s e).marked c.seq (old ||| roleMark role))) e c) := by
  obtain ⟨hestablished, hseen, hbehind, hin⟩ := h
  unfold dupFilter
  dsimp only
  rw [if_neg (by simp [hestablished]), if_neg (by omega), if_neg (by omega), if_pos hin, hseen]
  rfl

/-- A late twin is counted, and the Lodge notes when (R93). -/
def twinNoted (s : State) (e now : Nat) : State :=
  let s1 := setErr (bump s F.YG_SRC_LATE_TWIN.COUNT e 1) Err.YG.unit Err.YG.LATE_TWIN e
  { s1 with lo := { s1.lo with lateTwinAt := some now } }

/-- A copy whose slice has been released is a late twin (R93). -/
theorem dupDiscard_late {s : State} {e : Nat} {c : Cell} {ch : Nat} (hchan : deviceChan s c = some ch) (hdp : dpARMED ≤ s.dp)
    (hfirst : s.gh.firstSlice ≤ c.csi / s.sCell) (hlate : c.csi / s.sCell < frontOf s ch) :
    dupDiscard s e c = twinNoted (bump s F.YG_SRC_DUP.COUNT e 1) e s.tb := by
  rw [dupDiscard, hchan]
  exact if_pos ⟨hdp, hfirst, hlate⟩

theorem dupDiscard_cases (s : State) (e : Nat) (c : Cell) :
    dupDiscard s e c = bump s F.YG_SRC_DUP.COUNT e 1 ∨ dupDiscard s e c = twinNoted (bump s F.YG_SRC_DUP.COUNT e 1) e s.tb := by
  rw [dupDiscard]
  split
  · exact .inl rfl
  · split
    · exact .inr rfl
    · exact .inl rfl

theorem twinNoted_yg (s : State) (e now : Nat) : (twinNoted s e now).yg = s.yg :=
  ((bump_sameUnits s F.YG_SRC_LATE_TWIN.COUNT e 1).trans (setErr_sameUnits _ Err.YG.unit Err.YG.LATE_TWIN e)).yg

theorem twinNoted_rd (s : State) (e now : Nat) (g : Fld) (j : Nat) :
    (twinNoted s e now).rd g j = (setErr (bump s F.YG_SRC_LATE_TWIN.COUNT e 1) Err.YG.unit Err.YG.LATE_TWIN e).rd g j := by
  have hlo : ∀ (u : State) (l : LodgeSt), ({ u with lo := l } : State).rd g j = u.rd g j := fun _ _ => rfl
  exact hlo _ _

theorem getFilter_dupDiscard (s : State) (e : Nat) (c : Cell) (j : Nat) : getFilter (dupDiscard s e c) j = getFilter s j := by
  have hdup := (bump_sameUnits s F.YG_SRC_DUP.COUNT e 1).yg
  rcases dupDiscard_cases s e c with h | h
  · rw [h, getFilter, hdup, getFilter]
  · rw [h, getFilter, twinNoted_yg, hdup, getFilter]

theorem dupDiscard_rd (s : State) (e : Nat) (c : Cell) :
    (dupDiscard s e c).rd F.YG_SRC_DUP.COUNT e = (bump s F.YG_SRC_DUP.COUNT e 1).rd F.YG_SRC_DUP.COUNT e := by
  rcases dupDiscard_cases s e c with h | h
  · rw [h]
  · rw [h, twinNoted_rd, setErr_rd_flds _ _ _ _ _ _ (by decide), bump_rd _ _ _ _ _ _ (by decide) (by decide)]

theorem perform_getFilter (u s : State) (e : Nat) : getFilter (perform (fun _ => u) s) e = getFilter u e := by
  rw [getFilter, getFilter, (perform_sameUnits (fun _ => u) s).yg]

namespace CellOfSource

variable {s : State} {k : Fin 64} {cell : LaneCell} {rest : List LaneCell} {e : Nat}

/-- The state in which a second copy is discarded. -/
def copyMarked (s : State) (k : Nat) (rest : List LaneCell) (e : Nat) (c : Cell) (mark : Nat) : State :=
  setFilter (freshFilter (cellCounted s k rest) e c.csi) e ((getFilter (freshFilter s e c.csi) e).marked c.seq mark)

theorem copyMarked_op (s : State) (k : Nat) (rest : List LaneCell) (e : Nat) (c : Cell) (mark : Nat) :
    CellOp (cellCounted s k rest) (copyMarked s k rest e c mark) := (CellOp.freshFilter _ _ _).trans (.of_filterOp (.setFilter _ _ _))

theorem copyMarked_ground (s : State) (k : Nat) (rest : List LaneCell) (e : Nat) (c : Cell) (mark : Nat) :
    SameGround s (copyMarked s k rest e c mark) := by
  refine (cellCounted_ground s k rest).trans ((copyMarked_op s k rest e c mark).ground ?_)
  have hset : (copyMarked s k rest e c mark).glob = (freshFilter (cellCounted s k rest) e c.csi).glob := (FilterOp.setFilter _ _ _).glob
  rw [hset, glob_freshFilter]

/-- The counters of the sources are those before the cell. -/
theorem copyMarked_rd (s : State) (k : Nat) (rest : List LaneCell) (e : Nat) (c : Cell) (mark : Nat) (g : Fld) (j : Nat)
    (h : ∀ d ∈ F.YG_LANE_CELLS.COUNT :: shownFlds ++ cntFlds, d.id ≠ g.id) : (copyMarked s k rest e c mark).rd g j = s.rd g j := by
  have hshown : ∀ d ∈ shownFlds, d.id ≠ g.id := fun d hd => h d (by simp [hd])
  rw [copyMarked, setFilter_rd _ _ _ _ _ hshown, freshFilter_rd _ _ _ _ _ hshown, cellCounted_rd _ _ _ _ _ fun d hd => h d ?_]
  rcases List.mem_cons.mp hd with rfl | hd <;> simp [*]

/-- A second copy is dropped by the filter, and noted as a late twin when its slice is released (R90, R93). -/
theorem secondCopy (h : CellOfSource s k cell rest e) {old : Nat} (sramBad : Bool)
    (hseen : SeenBefore (getFilter (freshFilter s e (parseCell cell.bytes).csi) e) (parseCell cell.bytes).seq old) :
    Completes (.cellReceive k sramBad) s fun t =>
      CellDropped s t k rest ∧ CountedUp s t F.YG_SRC_DUP.COUNT e ∧
      getFilter t e = (getFilter (freshFilter s e (parseCell cell.bytes).csi) e).marked (parseCell cell.bytes).seq (old ||| roleMark (effRole s k)) ∧
      (∀ ch, deviceChan s (parseCell cell.bytes) = some ch → dpARMED ≤ s.dp → s.gh.firstSlice ≤ (parseCell cell.bytes).csi / s.sCell →
        (parseCell cell.bytes).csi / s.sCell < frontOf s ch →
        CountedUp s t F.YG_SRC_LATE_TWIN.COUNT e ∧ bit (t.rd F.YG_ERR.BITS 0) Err.YG.LATE_TWIN = true ∧ t.lo.lateTwinAt = some s.tb) := by
  obtain ⟨c, hc⟩ : ∃ c, parseCell cell.bytes = c := ⟨_, rfl⟩
  obtain ⟨v, hv⟩ : ∃ v, copyMarked s k rest e c (old ||| roleMark (effRole s k)) = v := ⟨_, rfl⟩
  have hop : CellOp (cellCounted s k rest) v := hv ▸ copyMarked_op _ _ _ _ _ _
  have hground : SameGround s v := hv ▸ copyMarked_ground _ _ _ _ _ _
  have hrd : ∀ g : Fld, (∀ d ∈ F.YG_LANE_CELLS.COUNT :: shownFlds ++ cntFlds, d.id ≠ g.id) → ∀ j, v.rd g j = s.rd g j := fun g hg j =>
    hv ▸ copyMarked_rd _ _ _ _ _ _ _ _ hg
  have hfilter := (freshFilter_congr (cellCounted_ground s k rest) (cellCounted_glob s k rest) e c.csi (getFilter_cellCounted s k rest e)).1
  rw [hc] at hseen ⊢
  have hr : dupFilter (freshFilter (cellCounted s k rest) e c.csi) e c (effRole s k) = (false, dupDiscard v e c) := by
    rw [dupFilter_seen (by rw [hfilter]; exact hseen), hfilter, ← hv, copyMarked]
  have hu : receiveCell { s with out := [] } k sramBad = dupDiscard v e c := by
    rw [receiveCell_source h.ended h.good h.source, hc]
    dsimp only
    rw [hr]
    exact if_pos rfl
  have hcnt : ∀ f : Fld, (∀ d ∈ endFlds ++ F.YG_LANE_CELLS.COUNT :: shownFlds ++ cntFlds, d.id ≠ f.id) → ∀ u : State,
      u.rd f e = (bump v f e 1).rd f e → CountedUp s (perform (fun _ => u) s) f e := fun f hf u hcount => by
    rw [CountedUp, perform_rd _ _ _ _ fun d hd => hf d (by simp [hd]), hcount, bump_rd_same _ _ _ _ fun d hd => hf d (by simp [hd]),
      hrd f fun d hd => hf d (by simp only [List.mem_append] at hd ⊢; tauto)]
  refine cellReceive_completes h.held h.ended hu ⟨cellDropped_of_op (hop.trans (CellOp.dupDiscard v e c)), hcnt _ (by decide) _ (dupDiscard_rd v e c),
    ?_, fun ch hchan hdp hfirst hlate => ?_⟩
  · rw [perform_getFilter, getFilter_dupDiscard, ← hv, copyMarked, getFilter_setFilter]
  · have htwin := dupDiscard_late (s := v) (e := e) (c := c) (ch := ch) (by rw [hground.deviceChan, hchan]) (by rw [hground.dp]; exact hdp)
      (by rw [hground.sCell, hground.gh]; exact hfirst) (by rw [hground.sCell, hground.frontOf]; exact hlate)
    rw [htwin]
    refine ⟨hcnt _ (by decide) _ ?_, ?_, ?_⟩
    · rw [twinNoted_rd, setErr_rd_flds _ _ _ _ _ _ (by decide), bump_rd_same _ _ _ _ (by decide), bump_rd _ _ _ _ _ _ (by decide) (by decide),
        bump_rd_same _ _ _ _ (by decide)]
    · rw [perform_rd _ _ _ _ (by decide), twinNoted_rd]
      exact setErr_bit _ Err.YG.unit _ _ (by decide)
    · rw [(perform_sameUnits _ s).lo, ← hground.tb]
      rfl

end CellOfSource

/-- Settles O47: the filter and the Gatehouse write beside the lane only what they count, so each clause is the branch that the cell takes. -/
theorem cellsAreChecked : Obligations.CellsAreChecked := by
  unfold Obligations.CellsAreChecked
  intro s k cell rest hs hended
  refine ⟨fun f sramBad hf => cellReceive_fault sramBad hs hended hf, fun hgood =>
    ⟨fun sramBad hsource => CellOfSource.unknown hs hended hgood hsource sramBad, fun e hsource => ?_⟩⟩
  have h : CellOfSource s k cell rest e := ⟨hs, hended, hgood, hsource⟩
  refine ⟨fun sramBad old hestablished hseen hbehind hin => h.secondCopy sramBad ⟨hestablished, hseen, hbehind, hin⟩, fun hpass =>
    ⟨h.sramBad hpass, fun hgroup => h.groupMismatch hpass fun hinside => ?_, fun hlo hhi => ?_⟩⟩
  · obtain ⟨hlo, hhi⟩ := hinside
    omega
  · have hgroup : groupInEntry s e (parseCell cell.bytes) := ⟨hlo, hhi⟩
    exact ⟨fun hfmt => h.formatMismatch hpass hgroup hfmt, fun hfmt htest => h.testCell hpass hgroup hfmt htest,
      fun hfmt htest hdp => h.idleDiscard hpass hgroup hfmt htest hdp,
      fun ch hfmt htest hdp hchan halign hstart hlate => h.lateCell hpass hgroup hfmt htest hdp hchan halign hstart hlate⟩

end Sys2Proof.Machine
end
